-- ==== Sys2Proof/Word.lean ====
section
/-!
DEFINITION. The word types of the Scaim 9 (00_scope.md, R2) and nothing else.
-/

namespace Sys2Proof

/-- A 32-bit register word. -/
abbrev Word := BitVec 32

/-- A 64-bit value, or an aligned doubleword of memory or of hub MMIO. -/
abbrev DWord := BitVec 64

/-- A slot address: PC, MR, ENTRY, TRAPV, links (R350). -/
abbrev SlotAddr := BitVec 57

/-- One byte. -/
abbrev Byte := BitVec 8

end Sys2Proof
end

