-- ==== Sys2Proof/Syntax.lean ====
section
/-!
DEFINITION. The syntax of the part: operands and fields of an Ecmer slot (12_isa_encoding.md, R338 to R348), the data
carried by the steps of the other agents, and Instr, one constructor for each row of spec/opcode_table.json.
-/

namespace Sys2Proof

/-- The special operands, codes 1728 to 1750 in this order (R344). -/
inductive SpecialReg where
  | lane | wid | tid | crew | ncrew | cwaves | core | quarter | clk | clkh | gtime | gtimeh | rndc | tilew
  | role | batch | wstat | mstat | tcause | tpc | tpch | tval | tvalh
deriving DecidableEq, Repr

/-- The special operands in the order of their codes (R344). -/
def SpecialReg.all : List SpecialReg :=
  [.lane, .wid, .tid, .crew, .ncrew, .cwaves, .core, .quarter, .clk, .clkh, .gtime, .gtimeh,
   .rndc, .tilew, .role, .batch, .wstat, .mstat, .tcause, .tpc, .tpch, .tval, .tvalh]

/-- An operand field that names something (R341). -/
inductive Operand where
  | v (n : Fin 1536)
  | s (n : Fin 64)
  | c (n : Fin 128)
  | special (r : SpecialReg)
  | z
deriving DecidableEq, Repr

/-- Operand B: a field, or one of the four immediate kinds (R347, R348). A literal immediate carries the literal
words that the line supplies (R349). -/
inductive SrcB where
  | reg (o : Operand)
  | int20 (val : BitVec 20)
  | f20 (val : BitVec 20)
  | word (j : Fin 6) (w : Word)
  | pair (j : Fin 5) (lo hi : Word)
deriving DecidableEq, Repr

/-- A guard field: predicate index and negate bit (R338, R339). -/
structure Guard where
  pred : BitVec 3
  neg : Bool
deriving DecidableEq, Repr

/-- The fields of an Ecmer slot beside its opcode (R338). An operand field that the instruction does not use holds z. -/
structure Fields where
  d : Operand
  a : Operand
  b : SrcB
  c : Operand
  e : Operand
  g0 : Guard
  g1 : Guard
  ch : BitVec 3
  sw : Bool
  hold : BitVec 3
  mod : BitVec 13
deriving DecidableEq, Repr

/-- The Ecmer instructions by name, in the order of the opcode tables (R359 to R368). -/
inductive Op where
  | nop | bra | brx | call | callx | ret | meet | meetr | exit | yield | brk | trap | sysc 
  | tret | role | preoff | preon | iadd | isub | iadd64 | isub64 | imul | imulh | imad | imadw 
  | idiv | irem | imin | imax | iabs | ineg | shl | shr | shf | rot | logic | popc | clz | brev 
  | bfe | bfi | bshuf | icmp | sel | lea | idp4 | mov | mov64 | sreg | rdlane | pset | preg 
  | regp | xget | xclr | fadd | fsub | fmul | ffma | fmin | fmax | fcmp | frnd | fclass | fldx 
  | frcp | frsq | fsqrt | fdiv | fexp2 | flog2 | fsin | fcos | ftanh | cvt | f2i | i2f | pack 
  | unpk | rand | rseed | vote | shfl | red | scan | matchLanes | tile | elect | ld | st | lds 
  | sts | lde | stf | atom | atoms | fence | pref | cwb | cinv | ldk | brec | bar | bara | barw 
  | ginit | gadd | gwait | seal | bwait | push | wait | wake | tsig | dbl | mma | mmq | mms 
  | plane | planx | cvr | mfsr | mtsr | wspill | wfill | icinv | marg | ckpt 
deriving DecidableEq, Repr

/-- The instructions of the class: control, class 0x0. -/
def Op.control : List Op :=
  [.nop, .bra, .brx, .call, .callx, .ret, .meet, .meetr, .exit, .yield, .brk, .trap, .sysc, .tret,
   .role, .preoff, .preon]

/-- The instructions of the class: integer, class 0x1. -/
def Op.integer : List Op :=
  [.iadd, .isub, .iadd64, .isub64, .imul, .imulh, .imad, .imadw, .idiv, .irem, .imin, .imax, .iabs,
   .ineg, .shl, .shr, .shf, .rot, .logic, .popc, .clz, .brev, .bfe, .bfi, .bshuf, .icmp, .sel, .lea,
   .idp4]

/-- The instructions of the class: move and predicate, class 0x2. -/
def Op.move : List Op :=
  [.mov, .mov64, .sreg, .rdlane, .pset, .preg, .regp, .xget, .xclr]

/-- The instructions of the class: float, class 0x3. -/
def Op.float : List Op :=
  [.fadd, .fsub, .fmul, .ffma, .fmin, .fmax, .fcmp, .frnd, .fclass, .fldx]

/-- The instructions of the class: SFU, conversion and random, class 0x4. -/
def Op.sfu : List Op :=
  [.frcp, .frsq, .fsqrt, .fdiv, .fexp2, .flog2, .fsin, .fcos, .ftanh, .cvt, .f2i, .i2f, .pack, .unpk,
   .rand, .rseed]

/-- The instructions of the class: lane, class 0x5. -/
def Op.laneOps : List Op :=
  [.vote, .shfl, .red, .scan, .matchLanes, .tile, .elect]

/-- The instructions of the class: memory, class 0x6. -/
def Op.memory : List Op :=
  [.ld, .st, .lds, .sts, .lde, .stf, .atom, .atoms, .fence, .pref, .cwb, .cinv, .ldk, .brec]

/-- The instructions of the class: synchronisation and engines, class 0x7. -/
def Op.syncOps : List Op :=
  [.bar, .bara, .barw, .ginit, .gadd, .gwait, .seal, .bwait, .push, .wait, .wake, .tsig, .dbl]

/-- The instructions of the class: matrix, class 0x8. -/
def Op.matrix : List Op :=
  [.mma, .mmq, .mms, .plane, .planx, .cvr]

/-- The instructions of the class: system, class 0xF. -/
def Op.system : List Op :=
  [.mfsr, .mtsr, .wspill, .wfill, .icinv, .marg, .ckpt]

/-- Every Ecmer instruction, in table order. -/
def Op.all : List Op :=
  Op.control ++ Op.integer ++ Op.move ++ Op.float ++ Op.sfu ++ Op.laneOps ++ Op.memory ++ Op.syncOps ++ Op.matrix ++
    Op.system


/-- A way of a set of an L2 slice, in which a line with an error lies (R251). -/
structure L2Way where
  slice : Fin 64
  set : Fin 3072
  way : Fin 16
deriving DecidableEq, Repr

/-- What a reader of a 32-byte sector finds (R245). -/
inductive SectorDecode where
  | good | corrected | address | uncorrectable
deriving DecidableEq, Repr

/-- One sample of the monitors (R11, R18): the power of the two windows of R11 and HBM power in W; of each cluster its temperature
in °C, its heat flux over the last 1 µs in W/cm², its process monitor; the supply of each core in mV; the temperatures of the HBM
base dies and of the hub die. -/
structure MonitorReadings where
  power50us : Nat
  power100ms : Nat
  hbmPower : Nat
  clusterTemp : List Nat
  clusterFlux : List Nat
  process : List Nat
  supplies : List Nat
  hbmTemp : List Nat
  hubTemp : Nat
deriving DecidableEq, Repr, Inhabited

/-- How a PCIe request or a peer access ended (R46, R70, R76); `badEcrc` is data whose ECRC fails. -/
inductive Completion where
  | data (bytes : List Byte)
  | poisoned
  | badEcrc (bytes : List Byte)
  | ur
  | ca
deriving DecidableEq, Repr

/-- What a root port is told from below (R41, R47, R115): an error message, a power management event, a change of its slot. -/
inductive PortMessage where
  | error (fatal : Bool)
  | pme
  | slot
deriving DecidableEq, Repr

/-- A memory request that arrives at a root port (R41, R99); `badEcrc` where its ECRC does not agree (R43). -/
structure InboundRequest where
  port : Fin 64
  rid : BitVec 16
  pasid : Option (BitVec 20)
  translated : Bool
  write : Bool
  addr : BitVec 64
  size : Nat
  data : List Byte
  ep : Bool
  badEcrc : Bool
deriving DecidableEq, Repr

/-- The AtomicOps a root port completes (R41, R60). -/
inductive InboundAtomicOp where
  | fetchAdd | swap | cas
deriving DecidableEq, Repr

/-- An AtomicOp request from an endpoint, translated already or not (R60). -/
structure InboundAtomic where
  port : Fin 64
  rid : BitVec 16
  pasid : Option (BitVec 20)
  translated : Bool
  addr : BitVec 64
  op : InboundAtomicOp
  size : Nat
  operand : BitVec 128
  compare : BitVec 128
  badEcrc : Bool
deriving DecidableEq, Repr

/-- An ATS Translation Request (R98). -/
structure AtsRequest where
  port : Fin 64
  rid : BitVec 16
  pasid : Option (BitVec 20)
  va : BitVec 64
  noWrite : Bool
  exec : Bool
  badEcrc : Bool
deriving DecidableEq, Repr

/-- A PRI Page Request (R102, R103). -/
structure PriRequest where
  port : Fin 64
  rid : BitVec 16
  pasid : Option (BitVec 20)
  prg : BitVec 9
  rd : Bool
  wr : Bool
  ex : Bool
  priv : Bool
  last : Bool
  va : BitVec 64
  badEcrc : Bool
deriving DecidableEq, Repr

/-- An interrupt file of a Loam hart (R114). -/
inductive ImsicFile where
  | m (hart : Fin 16)
  | s (hart : Fin 16)
  | guest (hart : Fin 16) (g : Fin 7)
deriving DecidableEq, Repr

/-- An access of an NTB partner through a BAR of lane group `group` (R58, R59). -/
structure NtbRequest where
  group : Fin 16
  bar : Fin 3
  rid : BitVec 16
  write : Bool
  offset : Nat
  size : Nat
  data : List Byte
  ep : Bool
  badEcrc : Bool
deriving DecidableEq, Repr

/-- What a domain peer asks of this package (R69). -/
inductive DomainOp where
  | read
  | write (data : List Byte) (poisoned : Bool)
  | atomic (aop : BitVec 4) (operand : BitVec 256)
deriving DecidableEq, Repr

/-- An access that arrives from a domain peer (R69). -/
structure DomainRequest where
  peer : Byte
  offset : BitVec 43
  size : Nat
  op : DomainOp
deriving DecidableEq, Repr

/-- What the outside answers to the accesses of a copy that leave the package: the bytes read there, in address order, and the
SUB with which its reads or its writes fail (R46, R70, R460). -/
structure CopyAnswer where
  data : List Byte
  poisoned : Bool
  readFails : Option (Fin 8)
  writeFails : Option (Fin 8)
deriving DecidableEq, Repr

/-- A write of a Loam hart to a hub register without a row of its own (R5, R527). `mask` names the bytes written. -/
structure HubWrite where
  machineMode : Bool
  offset : Nat
  data : DWord
  bytes : Byte
deriving DecidableEq, Repr

/-- The read-modify-write functions of the AMO instructions. -/
inductive AmoOp where
  | swap | add | xor | and | or | min | max | minu | maxu
deriving DecidableEq, Repr

/-- The control registers of a Loam hart that the manual names or that its interrupts need (R100, R101, R105, R114, R116): `ip` is mip, or
sip in S and VS mode. `imsic` is an indirect register of an interrupt file, by its number in the AIA; `topei` its top identity. -/
inductive LoamCsr where
  | satp | vsatp | hgatp | sstatus | vsstatus | hstatus | stimecmp | vstimecmp | ip | vsip
  | imsic (file : Fin 9) (reg : Nat)
  | topei (file : Fin 9)
deriving DecidableEq, Repr

/-- What a Loam access does (R106, R107, R114, R117, R122): the sets of `fence` are predecessor R and W, successor R and W; `time`
reads the time CSR; `wrs` is WRS.STO where `short`, else WRS.NTO. -/
inductive LoamOp where
  | load
  | store (data : BitVec 64)
  | amo (f : AmoOp) (operand : BitVec 64)
  | loadReserved
  | storeConditional (data : BitVec 64)
  | fetch
  | fence (pr pw sr sw : Bool)
  | time
  | wrs (short : Bool)
  | csrRead (r : LoamCsr)
  | csrWrite (r : LoamCsr) (data : BitVec 64)
deriving DecidableEq, Repr

/-- The privilege modes of a Loam hart (R100, R101, R105). -/
inductive LoamMode where
  | m | s | u | vs | vu
deriving DecidableEq, Repr

/-- An access of Loam hart `hart` in mode `mode`; `acq` and `rel` for an AMO, LR or SC with aq or rl (R106). -/
structure LoamRequest where
  hart : Fin 16
  mode : LoamMode
  va : BitVec 64
  size : Nat
  op : LoamOp
  acq : Bool
  rel : Bool
deriving DecidableEq, Repr

/-- One step of the part: the 128 Ecmer instructions, then the 140 steps of its other agents, those without data
last (the compiler of Lean numbers at most 245 constructors that carry data). -/
inductive Instr where
  /-- NOP R377, OPC 0x000. -/
  | nop (f : Fields)
  /-- BRA R378, OPC 0x001. -/
  | bra (f : Fields)
  /-- BRX R379, OPC 0x002. -/
  | brx (f : Fields)
  /-- CALL R380, OPC 0x003. -/
  | call (f : Fields)
  /-- CALLX R380, OPC 0x004. -/
  | callx (f : Fields)
  /-- RET R381, OPC 0x005. -/
  | ret (f : Fields)
  /-- MEET R382, OPC 0x006. -/
  | meet (f : Fields)
  /-- MEETR R383, OPC 0x007. -/
  | meetr (f : Fields)
  /-- EXIT R384, OPC 0x008. -/
  | exit (f : Fields)
  /-- YIELD R385, OPC 0x009. -/
  | yield (f : Fields)
  /-- BRK R386, OPC 0x00A. -/
  | brk (f : Fields)
  /-- TRAP R386, OPC 0x00B. -/
  | trap (f : Fields)
  /-- SYSC R388, OPC 0x00C. -/
  | sysc (f : Fields)
  /-- TRET R387, OPC 0x00D. -/
  | tret (f : Fields)
  /-- ROLE R389, OPC 0x00E. -/
  | role (f : Fields)
  /-- PREOFF R390, OPC 0x00F. -/
  | preoff (f : Fields)
  /-- PREON R390, OPC 0x010. -/
  | preon (f : Fields)
  /-- IADD R400, OPC 0x100. -/
  | iadd (f : Fields)
  /-- ISUB R400, OPC 0x101. -/
  | isub (f : Fields)
  /-- IADD64 R400, OPC 0x102. -/
  | iadd64 (f : Fields)
  /-- ISUB64 R400, OPC 0x103. -/
  | isub64 (f : Fields)
  /-- IMUL R401, OPC 0x104. -/
  | imul (f : Fields)
  /-- IMULH R401, OPC 0x105. -/
  | imulh (f : Fields)
  /-- IMAD R401, OPC 0x106. -/
  | imad (f : Fields)
  /-- IMADW R401, OPC 0x107. -/
  | imadw (f : Fields)
  /-- IDIV R402, OPC 0x108. -/
  | idiv (f : Fields)
  /-- IREM R402, OPC 0x109. -/
  | irem (f : Fields)
  /-- IMIN R403, OPC 0x10A. -/
  | imin (f : Fields)
  /-- IMAX R403, OPC 0x10B. -/
  | imax (f : Fields)
  /-- IABS R403, OPC 0x10C. -/
  | iabs (f : Fields)
  /-- INEG R403, OPC 0x10D. -/
  | ineg (f : Fields)
  /-- SHL R404, OPC 0x10E. -/
  | shl (f : Fields)
  /-- SHR R404, OPC 0x10F. -/
  | shr (f : Fields)
  /-- SHF R404, OPC 0x110. -/
  | shf (f : Fields)
  /-- ROT R404, OPC 0x111. -/
  | rot (f : Fields)
  /-- LOGIC R405, OPC 0x112. -/
  | logic (f : Fields)
  /-- POPC R406, OPC 0x113. -/
  | popc (f : Fields)
  /-- CLZ R406, OPC 0x114. -/
  | clz (f : Fields)
  /-- BREV R406, OPC 0x115. -/
  | brev (f : Fields)
  /-- BFE R407, OPC 0x116. -/
  | bfe (f : Fields)
  /-- BFI R408, OPC 0x117. -/
  | bfi (f : Fields)
  /-- BSHUF R409, OPC 0x118. -/
  | bshuf (f : Fields)
  /-- ICMP R410, OPC 0x119. -/
  | icmp (f : Fields)
  /-- SEL R411, OPC 0x11A. -/
  | sel (f : Fields)
  /-- LEA R412, OPC 0x11B. -/
  | lea (f : Fields)
  /-- IDP4 R401, OPC 0x11C. -/
  | idp4 (f : Fields)
  /-- MOV R391, OPC 0x200. -/
  | mov (f : Fields)
  /-- MOV64 R391, OPC 0x201. -/
  | mov64 (f : Fields)
  /-- SREG R392, OPC 0x202. -/
  | sreg (f : Fields)
  /-- RDLANE R393, OPC 0x203. -/
  | rdlane (f : Fields)
  /-- PSET R394, OPC 0x204. -/
  | pset (f : Fields)
  /-- PREG R395, OPC 0x205. -/
  | preg (f : Fields)
  /-- REGP R395, OPC 0x206. -/
  | regp (f : Fields)
  /-- XGET R396, OPC 0x207. -/
  | xget (f : Fields)
  /-- XCLR R396, OPC 0x208. -/
  | xclr (f : Fields)
  /-- FADD R418, OPC 0x300. -/
  | fadd (f : Fields)
  /-- FSUB R418, OPC 0x301. -/
  | fsub (f : Fields)
  /-- FMUL R418, OPC 0x302. -/
  | fmul (f : Fields)
  /-- FFMA R418, OPC 0x303. -/
  | ffma (f : Fields)
  /-- FMIN R419, OPC 0x304. -/
  | fmin (f : Fields)
  /-- FMAX R419, OPC 0x305. -/
  | fmax (f : Fields)
  /-- FCMP R420, OPC 0x306. -/
  | fcmp (f : Fields)
  /-- FRND R421, OPC 0x307. -/
  | frnd (f : Fields)
  /-- FCLASS R422, OPC 0x308. -/
  | fclass (f : Fields)
  /-- FLDX R423, OPC 0x309. -/
  | fldx (f : Fields)
  /-- FRCP R424, OPC 0x400. -/
  | frcp (f : Fields)
  /-- FRSQ R424, OPC 0x401. -/
  | frsq (f : Fields)
  /-- FSQRT R424, OPC 0x402. -/
  | fsqrt (f : Fields)
  /-- FDIV R424, OPC 0x403. -/
  | fdiv (f : Fields)
  /-- FEXP2 R424, OPC 0x404. -/
  | fexp2 (f : Fields)
  /-- FLOG2 R424, OPC 0x405. -/
  | flog2 (f : Fields)
  /-- FSIN R424, OPC 0x406. -/
  | fsin (f : Fields)
  /-- FCOS R424, OPC 0x407. -/
  | fcos (f : Fields)
  /-- FTANH R424, OPC 0x408. -/
  | ftanh (f : Fields)
  /-- CVT R426, OPC 0x410. -/
  | cvt (f : Fields)
  /-- F2I R427, OPC 0x411. -/
  | f2i (f : Fields)
  /-- I2F R427, OPC 0x412. -/
  | i2f (f : Fields)
  /-- PACK R428, OPC 0x413. -/
  | pack (f : Fields)
  /-- UNPK R429, OPC 0x414. -/
  | unpk (f : Fields)
  /-- RAND R431, OPC 0x418. -/
  | rand (f : Fields)
  /-- RSEED R432, OPC 0x419. -/
  | rseed (f : Fields)
  /-- VOTE R473, OPC 0x500. -/
  | vote (f : Fields)
  /-- SHFL R475, OPC 0x501. -/
  | shfl (f : Fields)
  /-- RED R477, OPC 0x502. -/
  | red (f : Fields)
  /-- SCAN R478, OPC 0x503. -/
  | scan (f : Fields)
  /-- MATCH R476, OPC 0x504. -/
  | matchLanes (f : Fields)
  /-- TILE R472, OPC 0x505. -/
  | tile (f : Fields)
  /-- ELECT R474, OPC 0x506. -/
  | elect (f : Fields)
  /-- LD R440, OPC 0x600. -/
  | ld (f : Fields)
  /-- ST R440, OPC 0x601. -/
  | st (f : Fields)
  /-- LDS R441, OPC 0x602. -/
  | lds (f : Fields)
  /-- STS R441, OPC 0x603. -/
  | sts (f : Fields)
  /-- LDE R443, OPC 0x604. -/
  | lde (f : Fields)
  /-- STF R443, OPC 0x605. -/
  | stf (f : Fields)
  /-- ATOM R445, OPC 0x606. -/
  | atom (f : Fields)
  /-- ATOMS R446, OPC 0x607. -/
  | atoms (f : Fields)
  /-- FENCE R447, OPC 0x608. -/
  | fence (f : Fields)
  /-- PREF R448, OPC 0x609. -/
  | pref (f : Fields)
  /-- CWB R448, OPC 0x60A. -/
  | cwb (f : Fields)
  /-- CINV R448, OPC 0x60B. -/
  | cinv (f : Fields)
  /-- LDK R442, OPC 0x60C. -/
  | ldk (f : Fields)
  /-- BREC R449, OPC 0x60D. -/
  | brec (f : Fields)
  /-- BAR R451, OPC 0x700. -/
  | bar (f : Fields)
  /-- BARA R451, OPC 0x701. -/
  | bara (f : Fields)
  /-- BARW R451, OPC 0x702. -/
  | barw (f : Fields)
  /-- GINIT R453, OPC 0x703. -/
  | ginit (f : Fields)
  /-- GADD R453, OPC 0x704. -/
  | gadd (f : Fields)
  /-- GWAIT R453, OPC 0x705. -/
  | gwait (f : Fields)
  /-- SEAL R454, OPC 0x706. -/
  | seal (f : Fields)
  /-- BWAIT R454, OPC 0x707. -/
  | bwait (f : Fields)
  /-- PUSH R456, OPC 0x708. -/
  | push (f : Fields)
  /-- WAIT R465, OPC 0x709. -/
  | wait (f : Fields)
  /-- WAKE R466, OPC 0x70A. -/
  | wake (f : Fields)
  /-- TSIG R467, OPC 0x70B. -/
  | tsig (f : Fields)
  /-- DBL R468, OPC 0x70C. -/
  | dbl (f : Fields)
  /-- MMA R484, OPC 0x800. -/
  | mma (f : Fields)
  /-- MMQ R484, OPC 0x801. -/
  | mmq (f : Fields)
  /-- MMS R484, OPC 0x802. -/
  | mms (f : Fields)
  /-- PLANE R483, OPC 0x803. -/
  | plane (f : Fields)
  /-- PLANX R483, OPC 0x804. -/
  | planx (f : Fields)
  /-- CVR R479, OPC 0x805. -/
  | cvr (f : Fields)
  /-- MFSR R489, OPC 0xF00. -/
  | mfsr (f : Fields)
  /-- MTSR R489, OPC 0xF01. -/
  | mtsr (f : Fields)
  /-- WSPILL R492, OPC 0xF02. -/
  | wspill (f : Fields)
  /-- WFILL R492, OPC 0xF03. -/
  | wfill (f : Fields)
  /-- ICINV R494, OPC 0xF04. -/
  | icinv (f : Fields)
  /-- MARG R495, OPC 0xF05. -/
  | marg (f : Fields)
  /-- CKPT R496, OPC 0xF06. -/
  | ckpt (f : Fields)
  /-- INSTRUCTION_FETCH R353. -/
  | instructionFetch (core : Fin 256) (slot : Fin 64) (lane : Fin 32) (glitch : Bool)
  /-- TRAP_ENTRY R490. -/
  | trapEntry (core : Fin 256) (slot : Fin 64) (lane : Fin 32)
  /-- REGROUP R192. -/
  | regroup (core : Fin 256) (slot : Fin 64)
  /-- MATRIX_COMPLETE R484. -/
  | matrixComplete (core : Fin 256) (slot : Fin 64)
  /-- OPERAND_LOG_REPLAY R215. -/
  | operandLogReplay (core : Fin 256) (slot : Fin 64) (entry : Fin 4)
  /-- ROLLBACK R243. -/
  | rollback (crew : Nat)
  /-- F_WAIT_SATISFIED R443. -/
  | fWaitSatisfied (core : Fin 256) (slot : Fin 64) (lane : Fin 32)
  /-- WAITER_REREAD R119. -/
  | waiterReread (core : Fin 256) (slot : Fin 64) (lane : Fin 32)
  /-- WAKE_SPILL_REREAD R121. -/
  | wakeSpillReread (core : Fin 256) (slot : Fin 64) (lane : Fin 32)
  /-- STALLED_PUSH_ACCEPT R456. -/
  | stalledPushAccept (core : Fin 256) (slot : Fin 64) (lane : Fin 32)
  /-- TIMING_DETECTION R222. -/
  | timingDetection (core : Fin 256) (serial : Nat)
  /-- MARGIN_WINDOW_END R228. -/
  | marginWindowEnd (core : Fin 256)
  /-- DRAIN_COMPLETE R231. -/
  | drainComplete (core : Fin 256)
  /-- CREW_MIGRATION R232. -/
  | crewMigration (crew : Nat)
  /-- IFT_DUE R237. -/
  | iftDue (core : Fin 256)
  /-- IFT_COMPLETE R238. -/
  | iftComplete (core : Fin 256) (pass : Bool)
  /-- PATROL_SCRUB R247. -/
  | patrolScrub (stack : Fin 8) (sector : BitVec 47) (found : SectorDecode) (way : Option L2Way)
  /-- MONITOR_SAMPLE R18. -/
  | monitorSample (m : MonitorReadings)
  /-- POWER_DUTY_STEP R14. -/
  | powerDutyStep (raise : Bool)
  /-- THERMAL_DUTY_STEP R15. -/
  | thermalDutyStep (cluster : Fin 64) (raise : Bool)
  /-- SAFE_TALKATIVE_ENTRY R33. -/
  | safeTalkativeEntry (code : Byte)
  /-- PACKAGE_RESET R23. -/
  | packageReset (bootPins : BitVec 4)
  /-- HUB_SELF_TEST R23. -/
  | hubSelfTest (pass : Bool)
  /-- BOOT_PORT_TRAIN R23. -/
  | bootPortTrain (trained : Bool) (hdm : Option (BitVec 52 × BitVec 52))
  /-- COMPUTE_DIE_SELF_TEST R27. -/
  | computeDieSelfTest (pass : BitVec 64) (links : Bool)
  /-- HBM_TRAINING R23. -/
  | hbmTraining (pass : BitVec 8)
  /-- BOOT_BLOCK_VERIFY R24. -/
  | bootBlockVerify (block : BitVec 12)
  /-- XIP_OFF R26. -/
  | xipOff (machineMode : Bool) (data : BitVec 32)
  /-- MCTP_ENDPOINT_ID_ASSIGN R33. -/
  | mctpEndpointIdAssign (eid : Byte)
  /-- PLDM_SENSOR_READ R33. -/
  | pldmSensorRead (sensor : Nat)
  /-- CHALLENGE R33. -/
  | challenge (nonce : BitVec 256)
  /-- GET_MEASUREMENTS R34. -/
  | getMeasurements (index : Byte)
  /-- PWR_CTL_WRITE R19. -/
  | pwrCtlWrite (machineMode : Bool) (data : BitVec 32)
  /-- SERVICE_CORE_TAKE_OUT R255. -/
  | serviceCoreTakeOut (core : Fin 256)
  /-- SERVICE_CORE_RETURN R255. -/
  | serviceCoreReturn (core : Fin 256)
  /-- SERVICE_CLUSTER_TAKE_OUT R36. -/
  | serviceClusterTakeOut (cluster : Fin 64)
  /-- SERVICE_CLUSTER_RETURN R38. -/
  | serviceClusterReturn (cluster : Fin 64)
  /-- CLUSTER_RETURN_TEST_DONE R38. -/
  | clusterReturnTestDone (cluster : Fin 64) (pass : Bool)
  /-- SERVICE_L2_SLICE_TAKE_OUT R36. -/
  | serviceL2SliceTakeOut (slice : Fin 64)
  /-- SERVICE_L2_SLICE_RETURN R255. -/
  | serviceL2SliceReturn (slice : Fin 64)
  /-- SERVICE_LOAM_HART_TAKE_OUT R36. -/
  | serviceLoamHartTakeOut (hart : Fin 16)
  /-- SERVICE_LOAM_HART_RETURN R255. -/
  | serviceLoamHartReturn (hart : Fin 16)
  /-- MARGIN_CTL_WRITE R229. -/
  | marginCtlWrite (machineMode : Bool) (core : Fin 256) (data : DWord)
  /-- L2_PROFILE_WRITE R252. -/
  | l2ProfileWrite (machineMode : Bool) (slice : Fin 64) (data : DWord)
  /-- L2_WMASK_WRITE R253. -/
  | l2WmaskWrite (machineMode : Bool) (slice : Fin 64) (data : DWord)
  /-- PORT_CFG_APPLY R43. -/
  | portCfgApply (machineMode : Bool) (group : Fin 16) (data : BitVec 32)
  /-- LINK_DOWN R47. -/
  | linkDown (port : Fin 64)
  /-- PCIE_COMPLETION R46. -/
  | pcieCompletion (tag : Nat) (result : Completion)
  /-- COMPLETION_TIMEOUT R46. -/
  | completionTimeout (tag : Nat)
  /-- INBOUND_MEMORY_REQUEST R99. -/
  | inboundMemoryRequest (r : InboundRequest)
  /-- CAPTURE R52. -/
  | capture (r : InboundRequest)
  /-- ATOMIC_OP_REQUEST R60. -/
  | atomicOpRequest (r : InboundAtomic)
  /-- ATS_TRANSLATION_REQUEST R98. -/
  | atsTranslationRequest (r : AtsRequest)
  /-- PAGE_REQUEST R102. -/
  | pageRequest (r : PriRequest)
  /-- INVALIDATION_ACKNOWLEDGE R90. -/
  | invalidationAcknowledge (rid : BitVec 16)
  /-- ASSERT_INTX R41. -/
  | assertIntx (port : Fin 64)
  /-- IO_REQUEST R41. -/
  | ioRequest (port : Fin 64)
  /-- PTM_REQUEST R161. -/
  | ptmRequest (port : Fin 64)
  /-- IMSIC_SETEIPNUM R114. -/
  | imsicSeteipnum (file : ImsicFile) (identity : BitVec 32)
  /-- CONFIG_READ R113. -/
  | configRead (offset : BitVec 27) (size : Fin 4)
  /-- CONFIG_WRITE R113. -/
  | configWrite (offset : BitVec 27) (size : Fin 4) (data : BitVec 32)
  /-- DOORBELL_SEND R55. -/
  | doorbellSend (port : Fin 64)
  /-- NTB_INBOUND_ACCESS R59. -/
  | ntbInboundAccess (r : NtbRequest)
  /-- UBNOR_FLIT R65. -/
  | ubnorFlit (port : Fin 24) (crcOk : Bool)
  /-- UBNOR_PORT_DEGRADE R65. -/
  | ubnorPortDegrade (port : Fin 24)
  /-- INBOUND_DOMAIN_ACCESS R69. -/
  | inboundDomainAccess (r : DomainRequest)
  /-- DOMAIN_ACKNOWLEDGE R73. -/
  | domainAcknowledge (peer : Byte)
  /-- PEER_TIMEOUT R70. -/
  | peerTimeout (tag : Nat)
  /-- XLT_PDIR_WRITE R82. -/
  | xltPdirWrite (data : DWord)
  /-- INSERT R89. -/
  | insert (hart : Fin 16) (cmd : DWord)
  /-- REMOVE R89. -/
  | remove (hart : Fin 16) (cmd : DWord)
  /-- MODIFY R89. -/
  | modify (hart : Fin 16) (cmd : DWord)
  /-- RESIZE R89. -/
  | resize (hart : Fin 16) (cmd : DWord)
  /-- FLUSH R89. -/
  | flush (hart : Fin 16) (cmd : DWord)
  /-- TBL_ACK R115. -/
  | tblAck (data : DWord)
  /-- PRQ_RESP R104. -/
  | prqResp (data : DWord)
  /-- WAKE_PORT R123. -/
  | wakePort (data : DWord)
  /-- SUBMIT R125. -/
  | submit (hart : Fin 16) (data : DWord)
  /-- MACHINE_TIMER R116. -/
  | machineTimer (hart : Fin 16)
  /-- SLEW R118. -/
  | slew (machineMode : Bool) (data : DWord)
  /-- GTIME_SET R118. -/
  | gtimeSet (machineMode : Bool) (data : DWord)
  /-- PPS_EDGE R160. -/
  | ppsEdge (seconds : BitVec 48) (valid : Bool)
  /-- PARTITION_ENABLE R135. -/
  | partitionEnable (machineMode : Bool) (part : Fin 16) (data : DWord)
  /-- PARTITION_DISABLE R135. -/
  | partitionDisable (machineMode : Bool) (part : Fin 16) (data : DWord)
  /-- AFTER_EVENT_SATISFIED R151. -/
  | afterEventSatisfied (launch : Nat)
  /-- CREW_PLACE R145. -/
  | crewPlace (launch : Nat)
  /-- CREW_PREEMPT R154. -/
  | crewPreempt (crew : Nat)
  /-- PREEMPT_WINDOW_LIMIT R155. -/
  | preemptWindowLimit (core : Fin 256) (slot : Fin 64)
  /-- LAUNCH_DONE R149. -/
  | launchDone (launch : Nat)
  /-- LAUNCH_FAULT R149. -/
  | launchFault (launch : Nat) (sub : Byte) (addr : DWord) (who : DWord)
  /-- SWAP_DECISION R158. -/
  | swapDecision (part : Fin 16)
  /-- PARTITION_SWAP R159. -/
  | partitionSwap (fromPart : Fin 16) (toPart : Fin 16)
  /-- PARTITION_SWAP_DONE R159. -/
  | partitionSwapDone (fromPart : Fin 16) (toPart : Fin 16)
  /-- THYME_SLOT_DUE R164. -/
  | thymeSlotDue (entry : Fin 64)
  /-- THYME_WITHDRAW R165. -/
  | thymeWithdraw (entry : Fin 64)
  /-- THYME_HELD_EXPIRE R166. -/
  | thymeHeldExpire (entry : Fin 64)
  /-- TQ_ENABLE R170. -/
  | tqEnable (machineMode : Bool) (queue : Fin 64) (data : DWord)
  /-- TQ_DISABLE R171. -/
  | tqDisable (machineMode : Bool) (queue : Fin 64) (data : DWord)
  /-- TASK_POST R462. -/
  | taskPost (queue : Fin 64)
  /-- TASK_DEQUEUE R178. -/
  | taskDequeue (queue : Fin 64)
  /-- GATHER_TIMEOUT R179. -/
  | gatherTimeout (queue : Fin 64)
  /-- TASK_WAVE_PLACE R181. -/
  | taskWavePlace (queue : Fin 64)
  /-- TASK_WAVE_START R181. -/
  | taskWaveStart (crew : Nat)
  /-- TASK_RETIRE R180. -/
  | taskRetire (core : Fin 256) (slot : Fin 64) (lane : Fin 32)
  /-- PAGE_WRITEBACK_DONE R259. -/
  | pageWritebackDone (crew : Nat) (page : Fin 256)
  /-- PAGE_REFILL R260. -/
  | pageRefill (crew : Nat) (page : Fin 256)
  /-- COPY R458. -/
  | copy (engine : Fin 256) (outside : Option CopyAnswer)
  /-- COPY_COMPLETION R460. -/
  | copyCompletion (engine : Fin 256)
  /-- REGISTER_WRITE R5. -/
  | registerWrite (w : HubWrite)
  /-- ILLEGAL_INSTRUCTION R369. -/
  | illegalInstruction (word : BitVec 96)
  /-- WAIT_DEADLINE R465. -/
  | waitDeadline (core : Fin 256) (slot : Fin 64) (lane : Fin 32)
  /-- VARIABLE_LATENCY_RESULT R207. -/
  | variableLatencyResult (core : Fin 256) (slot : Fin 64)
  /-- LOAM_ACCESS R106. -/
  | loamAccess (a : LoamRequest)
  /-- LINK_UP R133. -/
  | linkUp (port : Fin 64)
  /-- AER_ERROR_MESSAGE R47. -/
  | aerErrorMessage (port : Fin 64) (m : PortMessage)
  /-- MARGIN_SUPPLY_SETTLED R226. -/
  | marginSupplySettled (core : Fin 256)
  /-- SLICE_FLUSH_COMPLETE R252. -/
  | sliceFlushComplete (slice : Fin 64)
  /-- WAKE_TABLE_REREAD R120. -/
  | wakeTableReread 
  /-- SUPPLY_OUT_OF_RANGE R31. -/
  | supplyOutOfRange 
  /-- HEADER_CHECKS R23. -/
  | headerChecks 
  /-- FIRMWARE_ENTRY R23. -/
  | firmwareEntry 
  /-- PLDM_RESET_EFFECTER R35. -/
  | pldmResetEffecter 
  /-- GET_VERSION R33. -/
  | getVersion 
  /-- GET_CAPABILITIES R33. -/
  | getCapabilities 
  /-- NEGOTIATE_ALGORITHMS R33. -/
  | negotiateAlgorithms 
  /-- GET_DIGESTS R33. -/
  | getDigests 
  /-- GET_CERTIFICATE R33. -/
  | getCertificate 
  /-- ATS_INVALIDATION_TIMEOUT R90. -/
  | atsInvalidationTimeout 
  /-- RESIZE_MIGRATE_STEP R91. -/
  | resizeMigrateStep 
  /-- RESIZE_RETRY R91. -/
  | resizeRetry 
  /-- PRQ_APPEND R102. -/
  | prqAppend 
  /-- FAILURE_RECORD_APPEND R131. -/
  | failureRecordAppend 
  /-- TIME_SOURCE_LOST R161. -/
  | timeSourceLost 
  /-- LAUNCH R142. -/
  | launch 
  /-- CANCEL R143. -/
  | cancel 
  /-- THYME_WRITE R163. -/
  | thymeWrite 
  /-- THYME_CLEAR R163. -/
  | thymeClear 
  /-- RELEASED_TASK_ENQUEUE R177. -/
  | releasedTaskEnqueue 
  /-- FLIP R463. -/
  | flip 
  /-- POISON R463. -/
  | poison 
deriving DecidableEq, Repr


end Sys2Proof
end

