-- ==== Sys2Proof/Machine/Rows.lean ====
section
/-!
DEFINITION. The opcode tables of 12_isa_encoding.md (R356 to R368) as functions of the instruction: its code, its immediate
form, the MOD values it allows, and the role of each operand field.
-/

namespace Sys2Proof

/-- The opcode of each instruction (R359 to R368). -/
def Op.code : Op → BitVec 12
  | .nop => 0x000#12
  | .bra => 0x001#12
  | .brx => 0x002#12
  | .call => 0x003#12
  | .callx => 0x004#12
  | .ret => 0x005#12
  | .meet => 0x006#12
  | .meetr => 0x007#12
  | .exit => 0x008#12
  | .yield => 0x009#12
  | .brk => 0x00A#12
  | .trap => 0x00B#12
  | .sysc => 0x00C#12
  | .tret => 0x00D#12
  | .role => 0x00E#12
  | .preoff => 0x00F#12
  | .preon => 0x010#12
  | .iadd => 0x100#12
  | .isub => 0x101#12
  | .iadd64 => 0x102#12
  | .isub64 => 0x103#12
  | .imul => 0x104#12
  | .imulh => 0x105#12
  | .imad => 0x106#12
  | .imadw => 0x107#12
  | .idiv => 0x108#12
  | .irem => 0x109#12
  | .imin => 0x10A#12
  | .imax => 0x10B#12
  | .iabs => 0x10C#12
  | .ineg => 0x10D#12
  | .shl => 0x10E#12
  | .shr => 0x10F#12
  | .shf => 0x110#12
  | .rot => 0x111#12
  | .logic => 0x112#12
  | .popc => 0x113#12
  | .clz => 0x114#12
  | .brev => 0x115#12
  | .bfe => 0x116#12
  | .bfi => 0x117#12
  | .bshuf => 0x118#12
  | .icmp => 0x119#12
  | .sel => 0x11A#12
  | .lea => 0x11B#12
  | .idp4 => 0x11C#12
  | .mov => 0x200#12
  | .mov64 => 0x201#12
  | .sreg => 0x202#12
  | .rdlane => 0x203#12
  | .pset => 0x204#12
  | .preg => 0x205#12
  | .regp => 0x206#12
  | .xget => 0x207#12
  | .xclr => 0x208#12
  | .fadd => 0x300#12
  | .fsub => 0x301#12
  | .fmul => 0x302#12
  | .ffma => 0x303#12
  | .fmin => 0x304#12
  | .fmax => 0x305#12
  | .fcmp => 0x306#12
  | .frnd => 0x307#12
  | .fclass => 0x308#12
  | .fldx => 0x309#12
  | .frcp => 0x400#12
  | .frsq => 0x401#12
  | .fsqrt => 0x402#12
  | .fdiv => 0x403#12
  | .fexp2 => 0x404#12
  | .flog2 => 0x405#12
  | .fsin => 0x406#12
  | .fcos => 0x407#12
  | .ftanh => 0x408#12
  | .cvt => 0x410#12
  | .f2i => 0x411#12
  | .i2f => 0x412#12
  | .pack => 0x413#12
  | .unpk => 0x414#12
  | .rand => 0x418#12
  | .rseed => 0x419#12
  | .vote => 0x500#12
  | .shfl => 0x501#12
  | .red => 0x502#12
  | .scan => 0x503#12
  | .matchLanes => 0x504#12
  | .tile => 0x505#12
  | .elect => 0x506#12
  | .ld => 0x600#12
  | .st => 0x601#12
  | .lds => 0x602#12
  | .sts => 0x603#12
  | .lde => 0x604#12
  | .stf => 0x605#12
  | .atom => 0x606#12
  | .atoms => 0x607#12
  | .fence => 0x608#12
  | .pref => 0x609#12
  | .cwb => 0x60A#12
  | .cinv => 0x60B#12
  | .ldk => 0x60C#12
  | .brec => 0x60D#12
  | .bar => 0x700#12
  | .bara => 0x701#12
  | .barw => 0x702#12
  | .ginit => 0x703#12
  | .gadd => 0x704#12
  | .gwait => 0x705#12
  | .seal => 0x706#12
  | .bwait => 0x707#12
  | .push => 0x708#12
  | .wait => 0x709#12
  | .wake => 0x70A#12
  | .tsig => 0x70B#12
  | .dbl => 0x70C#12
  | .mma => 0x800#12
  | .mmq => 0x801#12
  | .mms => 0x802#12
  | .plane => 0x803#12
  | .planx => 0x804#12
  | .cvr => 0x805#12
  | .mfsr => 0xF00#12
  | .mtsr => 0xF01#12
  | .wspill => 0xF02#12
  | .wfill => 0xF03#12
  | .icinv => 0xF04#12
  | .marg => 0xF05#12
  | .ckpt => 0xF06#12

/-- The instruction with a given opcode; none for a code that the tables do not list (R356). -/
def Op.ofCode (c : BitVec 12) : Option Op := Op.all.find? (fun o => o.code == c)

/-- The constructor of Instr for an instruction and its fields. -/
def Op.instr (o : Op) (f : Fields) : Instr :=
  match o with
  | .nop => .nop f
  | .bra => .bra f
  | .brx => .brx f
  | .call => .call f
  | .callx => .callx f
  | .ret => .ret f
  | .meet => .meet f
  | .meetr => .meetr f
  | .exit => .exit f
  | .yield => .yield f
  | .brk => .brk f
  | .trap => .trap f
  | .sysc => .sysc f
  | .tret => .tret f
  | .role => .role f
  | .preoff => .preoff f
  | .preon => .preon f
  | .iadd => .iadd f
  | .isub => .isub f
  | .iadd64 => .iadd64 f
  | .isub64 => .isub64 f
  | .imul => .imul f
  | .imulh => .imulh f
  | .imad => .imad f
  | .imadw => .imadw f
  | .idiv => .idiv f
  | .irem => .irem f
  | .imin => .imin f
  | .imax => .imax f
  | .iabs => .iabs f
  | .ineg => .ineg f
  | .shl => .shl f
  | .shr => .shr f
  | .shf => .shf f
  | .rot => .rot f
  | .logic => .logic f
  | .popc => .popc f
  | .clz => .clz f
  | .brev => .brev f
  | .bfe => .bfe f
  | .bfi => .bfi f
  | .bshuf => .bshuf f
  | .icmp => .icmp f
  | .sel => .sel f
  | .lea => .lea f
  | .idp4 => .idp4 f
  | .mov => .mov f
  | .mov64 => .mov64 f
  | .sreg => .sreg f
  | .rdlane => .rdlane f
  | .pset => .pset f
  | .preg => .preg f
  | .regp => .regp f
  | .xget => .xget f
  | .xclr => .xclr f
  | .fadd => .fadd f
  | .fsub => .fsub f
  | .fmul => .fmul f
  | .ffma => .ffma f
  | .fmin => .fmin f
  | .fmax => .fmax f
  | .fcmp => .fcmp f
  | .frnd => .frnd f
  | .fclass => .fclass f
  | .fldx => .fldx f
  | .frcp => .frcp f
  | .frsq => .frsq f
  | .fsqrt => .fsqrt f
  | .fdiv => .fdiv f
  | .fexp2 => .fexp2 f
  | .flog2 => .flog2 f
  | .fsin => .fsin f
  | .fcos => .fcos f
  | .ftanh => .ftanh f
  | .cvt => .cvt f
  | .f2i => .f2i f
  | .i2f => .i2f f
  | .pack => .pack f
  | .unpk => .unpk f
  | .rand => .rand f
  | .rseed => .rseed f
  | .vote => .vote f
  | .shfl => .shfl f
  | .red => .red f
  | .scan => .scan f
  | .matchLanes => .matchLanes f
  | .tile => .tile f
  | .elect => .elect f
  | .ld => .ld f
  | .st => .st f
  | .lds => .lds f
  | .sts => .sts f
  | .lde => .lde f
  | .stf => .stf f
  | .atom => .atom f
  | .atoms => .atoms f
  | .fence => .fence f
  | .pref => .pref f
  | .cwb => .cwb f
  | .cinv => .cinv f
  | .ldk => .ldk f
  | .brec => .brec f
  | .bar => .bar f
  | .bara => .bara f
  | .barw => .barw f
  | .ginit => .ginit f
  | .gadd => .gadd f
  | .gwait => .gwait f
  | .seal => .seal f
  | .bwait => .bwait f
  | .push => .push f
  | .wait => .wait f
  | .wake => .wake f
  | .tsig => .tsig f
  | .dbl => .dbl f
  | .mma => .mma f
  | .mmq => .mmq f
  | .mms => .mms f
  | .plane => .plane f
  | .planx => .planx f
  | .cvr => .cvr f
  | .mfsr => .mfsr f
  | .mtsr => .mtsr f
  | .wspill => .wspill f
  | .wfill => .wfill f
  | .icinv => .icinv f
  | .marg => .marg f
  | .ckpt => .ckpt f

/-- The instruction and fields of an Ecmer constructor; none for the steps of other agents. -/
def Instr.fields? : Instr → Option (Op × Fields)
  | .nop f => some (.nop, f)
  | .bra f => some (.bra, f)
  | .brx f => some (.brx, f)
  | .call f => some (.call, f)
  | .callx f => some (.callx, f)
  | .ret f => some (.ret, f)
  | .meet f => some (.meet, f)
  | .meetr f => some (.meetr, f)
  | .exit f => some (.exit, f)
  | .yield f => some (.yield, f)
  | .brk f => some (.brk, f)
  | .trap f => some (.trap, f)
  | .sysc f => some (.sysc, f)
  | .tret f => some (.tret, f)
  | .role f => some (.role, f)
  | .preoff f => some (.preoff, f)
  | .preon f => some (.preon, f)
  | .iadd f => some (.iadd, f)
  | .isub f => some (.isub, f)
  | .iadd64 f => some (.iadd64, f)
  | .isub64 f => some (.isub64, f)
  | .imul f => some (.imul, f)
  | .imulh f => some (.imulh, f)
  | .imad f => some (.imad, f)
  | .imadw f => some (.imadw, f)
  | .idiv f => some (.idiv, f)
  | .irem f => some (.irem, f)
  | .imin f => some (.imin, f)
  | .imax f => some (.imax, f)
  | .iabs f => some (.iabs, f)
  | .ineg f => some (.ineg, f)
  | .shl f => some (.shl, f)
  | .shr f => some (.shr, f)
  | .shf f => some (.shf, f)
  | .rot f => some (.rot, f)
  | .logic f => some (.logic, f)
  | .popc f => some (.popc, f)
  | .clz f => some (.clz, f)
  | .brev f => some (.brev, f)
  | .bfe f => some (.bfe, f)
  | .bfi f => some (.bfi, f)
  | .bshuf f => some (.bshuf, f)
  | .icmp f => some (.icmp, f)
  | .sel f => some (.sel, f)
  | .lea f => some (.lea, f)
  | .idp4 f => some (.idp4, f)
  | .mov f => some (.mov, f)
  | .mov64 f => some (.mov64, f)
  | .sreg f => some (.sreg, f)
  | .rdlane f => some (.rdlane, f)
  | .pset f => some (.pset, f)
  | .preg f => some (.preg, f)
  | .regp f => some (.regp, f)
  | .xget f => some (.xget, f)
  | .xclr f => some (.xclr, f)
  | .fadd f => some (.fadd, f)
  | .fsub f => some (.fsub, f)
  | .fmul f => some (.fmul, f)
  | .ffma f => some (.ffma, f)
  | .fmin f => some (.fmin, f)
  | .fmax f => some (.fmax, f)
  | .fcmp f => some (.fcmp, f)
  | .frnd f => some (.frnd, f)
  | .fclass f => some (.fclass, f)
  | .fldx f => some (.fldx, f)
  | .frcp f => some (.frcp, f)
  | .frsq f => some (.frsq, f)
  | .fsqrt f => some (.fsqrt, f)
  | .fdiv f => some (.fdiv, f)
  | .fexp2 f => some (.fexp2, f)
  | .flog2 f => some (.flog2, f)
  | .fsin f => some (.fsin, f)
  | .fcos f => some (.fcos, f)
  | .ftanh f => some (.ftanh, f)
  | .cvt f => some (.cvt, f)
  | .f2i f => some (.f2i, f)
  | .i2f f => some (.i2f, f)
  | .pack f => some (.pack, f)
  | .unpk f => some (.unpk, f)
  | .rand f => some (.rand, f)
  | .rseed f => some (.rseed, f)
  | .vote f => some (.vote, f)
  | .shfl f => some (.shfl, f)
  | .red f => some (.red, f)
  | .scan f => some (.scan, f)
  | .matchLanes f => some (.matchLanes, f)
  | .tile f => some (.tile, f)
  | .elect f => some (.elect, f)
  | .ld f => some (.ld, f)
  | .st f => some (.st, f)
  | .lds f => some (.lds, f)
  | .sts f => some (.sts, f)
  | .lde f => some (.lde, f)
  | .stf f => some (.stf, f)
  | .atom f => some (.atom, f)
  | .atoms f => some (.atoms, f)
  | .fence f => some (.fence, f)
  | .pref f => some (.pref, f)
  | .cwb f => some (.cwb, f)
  | .cinv f => some (.cinv, f)
  | .ldk f => some (.ldk, f)
  | .brec f => some (.brec, f)
  | .bar f => some (.bar, f)
  | .bara f => some (.bara, f)
  | .barw f => some (.barw, f)
  | .ginit f => some (.ginit, f)
  | .gadd f => some (.gadd, f)
  | .gwait f => some (.gwait, f)
  | .seal f => some (.seal, f)
  | .bwait f => some (.bwait, f)
  | .push f => some (.push, f)
  | .wait f => some (.wait, f)
  | .wake f => some (.wake, f)
  | .tsig f => some (.tsig, f)
  | .dbl f => some (.dbl, f)
  | .mma f => some (.mma, f)
  | .mmq f => some (.mmq, f)
  | .mms f => some (.mms, f)
  | .plane f => some (.plane, f)
  | .planx f => some (.planx, f)
  | .cvr f => some (.cvr, f)
  | .mfsr f => some (.mfsr, f)
  | .mtsr f => some (.mtsr, f)
  | .wspill f => some (.wspill, f)
  | .wfill f => some (.wfill, f)
  | .icinv f => some (.icinv, f)
  | .marg f => some (.marg, f)
  | .ckpt f => some (.ckpt, f)
  | _ => none

/-- Bits [lo + n - 1 : lo] of MOD as a number. -/
def modBits (m : BitVec 13) (lo n : Nat) : Nat := (m.toNat >>> lo) % 2 ^ n

/-- MOD has no 1 outside `mask`. -/
def modWithin (m : BitVec 13) (mask : Nat) : Bool := (m.toNat &&& (0x1FFF ^^^ mask)) == 0

/-- The instructions that run only in trap mode (R357, step 2). -/
def Op.privileged : Op → Bool
  | .mfsr | .mtsr | .wspill | .wfill => true
  | _ => false

/-- The six whole-wave instructions, which take no guard (R340). -/
def Op.wholeWave : Op → Bool
  | .role | .preoff | .preon | .tile | .icinv | .ckpt => true
  | _ => false

/-- The global-memory instructions, the only ones that take a cache hint (R274, R275, R369). -/
def Op.takesHint : Op → Bool
  | .ld | .st | .atom | .pref | .cwb | .cinv | .ldk => true
  | _ => false

/-- Which immediate kinds an instruction's row allows; `required` when I = 1 is the only form (R347, R348). -/
structure IForm where
  int20 : Bool
  f20 : Bool
  word : Bool
  pair : Bool
  required : Bool
deriving DecidableEq, Repr

/-- The I column of the tables, with the kinds of R348 and of the instruction's description. -/
def Op.iform : Op → IForm
  | .bra | .call => ⟨true, false, false, false, true⟩
  | .meet => ⟨true, false, false, false, false⟩
  | .sysc | .rdlane => ⟨true, false, true, false, false⟩
  | .iadd64 | .isub64 | .mov64 => ⟨true, false, true, true, false⟩
  | .iadd | .isub | .imul | .imulh | .imad | .imadw | .idiv | .irem | .imin | .imax | .shl | .shr | .shf | .rot
  | .logic | .bfe | .bshuf | .icmp | .sel | .lea | .idp4 | .mov | .fadd | .fsub | .fmul | .ffma | .fmin | .fmax
  | .fcmp | .fldx | .fdiv | .rand | .shfl | .ld | .st | .lds | .sts | .lde | .stf | .atoms | .pref | .cwb | .cinv
  | .ldk | .brec | .ginit | .gadd | .bwait | .push | .wait | .wake | .tsig | .dbl | .cvr | .wspill | .wfill =>
    ⟨true, true, true, false, false⟩
  | _ => ⟨false, false, false, false, false⟩

/-- The format codes a conversion may name (R332, R363). -/
def convFormat (c : Nat) : Bool := (1 ≤ c && c ≤ 6) || (0x10 ≤ c && c ≤ 0x13) || (0x18 ≤ c && c ≤ 0x1B)

/-- The FA layout (R358): TYPE 0 to 4, SAT only with a packed type, NEGC only in FFMA, bit 12 zero. -/
def modFA (m : BitVec 13) (ffma : Bool) : Bool :=
  modBits m 0 3 ≤ 4 && (modBits m 6 1 == 0 || modBits m 0 3 != 0) && (ffma || modBits m 11 1 == 0) &&
    modBits m 12 1 == 0

/-- The MEM layout (R358) beside its AOP: SIZE, SX, SCOPE and the largest scope, ORDER in `orders`. -/
def modMem (m : BitVec 13) (load : Bool) (scopeMax : Nat) (orders : List Nat) : Bool :=
  modBits m 0 3 ≤ 4 && (modBits m 3 1 == 0 || (load && modBits m 0 3 ≤ 1)) && modBits m 4 3 ≤ scopeMax &&
    orders.contains (modBits m 7 2)

/-- AOP and its sizes (R365). -/
def modAop (m : BitVec 13) : Bool :=
  let size := modBits m 0 3
  let aop := modBits m 9 4
  if aop == 9 then size == 2 || size == 3 || size == 4
  else if aop == 10 then size == 2
  else aop ≤ 8 && (size == 2 || size == 3)

/-- The system register numbers (R488). -/
def srnListed (n : Nat) : Bool := n ≤ 6 || (8 ≤ n && n ≤ 11)

/-- The RED and SCAN operations (R364, R477): OP 0 to 10, RND 0 unless OP is FADD, and no stochastic RND. -/
def modRed (m : BitVec 13) : Bool :=
  modBits m 0 4 ≤ 10 &&
    (if modBits m 0 4 == 8 then modBits m 4 3 != 5 && modBits m 4 3 != 6 else modBits m 4 3 == 0)

/-- The MOD column of the tables (R357 step 3, R359 to R368). -/
def Op.modOk (o : Op) (m : BitVec 13) (imm : Bool) : Bool :=
  match o with
  | .call | .callx => modWithin m 0x7F && modBits m 0 7 != 0
  | .brk | .trap => modWithin m 0xFF
  | .sysc => modWithin m 7
  | .role => modWithin m 3 && modBits m 0 2 ≤ 2
  | .iadd | .isub | .iadd64 | .isub64 => modWithin m 0x1FF && (modBits m 8 1 == 1 || modBits m 5 3 == 0)
  | .imul | .imulh | .imadw | .idiv | .irem | .imin | .imax | .shl | .bfe => modWithin m 2
  | .imad | .shr | .shf => modWithin m 3
  | .iabs | .ineg | .rot => modWithin m 1
  | .logic => modWithin m 0xFF
  | .bshuf => modWithin m 3 && modBits m 0 2 ≤ 2
  | .icmp => modBits m 0 3 ≤ 5
  | .sel | .lea => modWithin m 0xF
  | .idp4 => modWithin m 7
  | .sreg => true
  | .pset => modBits m 11 2 ≤ 2
  | .regp => modWithin m 0x7F
  | .xget => modWithin m 0xF
  | .fadd | .fsub | .fmul => modFA m false
  | .ffma => modFA m true && !(imm && modBits m 3 3 == 6)
  | .fmin | .fmax => modFA m false && modBits m 3 3 == 0 && modBits m 6 1 == 0
  | .fcmp => modBits m 0 3 == 0
  | .frnd => modWithin m 0x3F && modBits m 0 3 ≤ 4
  | .fldx | .frcp | .frsq | .fsqrt | .fdiv | .fexp2 | .flog2 | .fsin | .fcos | .ftanh => modWithin m 0x38
  | .cvt => modWithin m 0xFF && convFormat (modBits m 3 5)
  | .f2i | .i2f => modWithin m 0x3B && modBits m 0 2 ≤ 1
  | .pack | .unpk => modWithin m 7
  | .vote => modWithin m 0x1FF && (if modBits m 0 2 == 3 then modBits m 2 3 == 7 else modBits m 2 3 != 7)
  | .shfl => modWithin m 7
  | .red => modWithin m 0x7F && modRed m
  | .scan => modWithin m 0xFF && modRed m
  | .matchLanes => modWithin m 0xF
  | .tile => modWithin m 7 && modBits m 0 3 ≤ 4
  | .elect => modWithin m 7
  | .ld => modMem m true 4 [0, 1] && modBits m 9 4 == 0
  | .st => modMem m false 4 [0, 2] && modBits m 9 4 == 0
  | .lds => modMem m true 1 [0, 1] && modBits m 9 4 == 0
  | .sts => modMem m false 1 [0, 2] && modBits m 9 4 == 0
  | .lde | .stf => modWithin m 7 && 2 ≤ modBits m 0 3 && modBits m 0 3 ≤ 4
  | .atom => modMem m false 4 [0, 1, 2, 3] && modAop m
  | .atoms => modMem m false 1 [0, 1, 2, 3] && modAop m
  | .fence => modWithin m 0x1F0 && modBits m 4 3 ≤ 4 && modBits m 7 2 != 0
  | .pref | .ldk => modWithin m 7 && modBits m 0 3 ≤ 4
  | .cwb | .cinv => modWithin m 0x77 && modBits m 0 3 ≤ 4 && modBits m 4 3 ≤ 4
  | .brec => modWithin m 0x7F && modBits m 0 3 ≤ 4 && modBits m 3 3 ≤ 5
  | .bar | .bara | .barw => modWithin m 0x1FF && (modBits m 0 1 == 1 || modBits m 1 8 == 0)
  | .push => modWithin m 0x3F
  | .wait => modWithin m 0x73 && modBits m 4 3 ≤ 4
  | .dbl => modWithin m 7 && (modBits m 0 3 == 2 || modBits m 0 3 == 3)
  | .mma | .mmq | .mms => modWithin m 0x7FF && modBits m 9 2 ≤ 2
  | .plane | .planx => modWithin m 0x1F && modBits m 3 2 ≤ 2
  | .cvr => modWithin m 7
  | .mfsr | .mtsr => modWithin m 0xFFF && srnListed (modBits m 0 12)
  | .marg => modWithin m 3
  | .nop | .bra | .brx | .ret | .meet | .meetr | .exit | .yield | .tret | .preoff | .preon | .popc | .clz | .brev
  | .bfi | .mov | .mov64 | .rdlane | .preg | .xclr | .fclass | .rand | .rseed | .ginit | .gadd | .gwait | .seal
  | .bwait | .wake | .tsig | .wspill | .wfill | .icinv | .ckpt => modWithin m 0

/-- Which operands a field admits beside its use as source or destination (R341 to R343 and the descriptions). -/
inductive OperandSet where
  /-- Every operand that the direction allows (R341). -/
  | any
  /-- A v register or z: the scalar forms are illegal operands. -/
  | vz
  /-- A v register only. -/
  | vOnly
  /-- A buffer-record base: an s register with an index that is a multiple of 4 (R268, R270). -/
  | record
  /-- A special operand (R392). -/
  | special
  /-- An s register, a constant, z or a uniform special operand (R482). -/
  | uniform
  /-- A v or s register or a constant (R432). -/
  | registers
  /-- A v, s or constant register, z, or %tpc (R379). -/
  | target
  /-- Anything but an s register (R475). -/
  | notScalar
deriving DecidableEq, Repr

/-- The role of an operand field: unused, or a source or destination of `count` registers. -/
structure FieldRole where
  used : Bool
  dest : Bool
  count : Nat
  set : OperandSet
deriving DecidableEq, Repr

def FieldRole.unused : FieldRole := ⟨false, false, 1, .any⟩
def FieldRole.src : FieldRole := ⟨true, false, 1, .any⟩
def FieldRole.srcs (n : Nat) : FieldRole := ⟨true, false, n, .any⟩
def FieldRole.srcIn (n : Nat) (k : OperandSet) : FieldRole := ⟨true, false, n, k⟩
def FieldRole.dst : FieldRole := ⟨true, true, 1, .any⟩
def FieldRole.dsts (n : Nat) : FieldRole := ⟨true, true, n, .any⟩
def FieldRole.dstIn (n : Nat) (k : OperandSet) : FieldRole := ⟨true, true, n, k⟩

/-- The roles of the five operand fields as the Fields column names them; C is the role of the (C) operand, which lies in
E under I = 1 (R347). -/
structure Roles where
  d : FieldRole
  a : FieldRole
  b : FieldRole
  c : FieldRole
  e : FieldRole
deriving DecidableEq, Repr

/-- What decoding needs beside the word: the trap mode of the bundle, its window W, the protection and format slots of its
launch, and the literal words that the rest of the line supplies (R349, R357). -/
structure DecodeCtx where
  trapMode : Bool
  window : Nat
  prot : Bool
  slots : List (BitVec 128)
  lits : List (Option Word)
deriving DecidableEq, Repr

/-- The RND field of format slot `k` (R330). -/
def DecodeCtx.slotRnd (x : DecodeCtx) (k : Nat) : Nat := ((x.slots.getD k 0).extractLsb' 14 3).toNat

/-- The FMT field of format slot `k` (R330). -/
def DecodeCtx.slotFmt (x : DecodeCtx) (k : Nat) : Nat := ((x.slots.getD k 0).extractLsb' 0 8).toNat

/-- A format with 4-bit elements (R332). -/
def fourBitFormat (c : Nat) : Bool := c == 6 || c == 0x13 || c == 0x1B

/-- How many elements of a format 32 bits hold: the group of PACK and UNPK (R363, R428, R429). -/
def formatElements (c : Nat) : Nat :=
  if fourBitFormat c then 8
  else if c == 4 || c == 5 || c == 0x12 || c == 0x1A then 4
  else if c == 2 || c == 3 || c == 0x11 || c == 0x19 then 2
  else 1

/-- The registers of an access of SIZE `s` (R358). -/
def sizeRegs (s : Nat) : Nat := if s == 3 then 2 else if s == 4 then 4 else 1

/-- The registers of the data group of an atomic operation (R365). -/
def atomRegs (m : BitVec 13) : Nat :=
  if modBits m 9 4 == 9 then 2 * sizeRegs (modBits m 0 3) else sizeRegs (modBits m 0 3)

/-- The Fields column of the tables (R359 to R368), with the r operand of R415. -/
def Op.roles (o : Op) (m : BitVec 13) (imm : Bool) (x : DecodeCtx) : Roles :=
  let n := FieldRole.unused
  let s := FieldRole.src
  let d := FieldRole.dst
  let p := FieldRole.srcs 2
  let dp := FieldRole.dsts 2
  let rec_ := FieldRole.srcIn 1 .record
  let size := sizeRegs (modBits m 0 3)
  let r := if modBits m 3 3 == 6 then s else n
  let slotR :=
    if x.slotRnd (modBits m 0 3) == 6 then
      (if o != .cvt && fourBitFormat (x.slotFmt (modBits m 0 3)) then p else s) else n
  let elements := formatElements (x.slotFmt (modBits m 0 3))
  match o with
  | .nop | .ret | .exit | .yield | .brk | .trap | .tret | .role | .preoff | .preon | .pset | .tile | .fence
  | .bar | .bara | .barw | .icinv | .ckpt => ⟨n, n, n, n, n⟩
  | .bra | .call => ⟨n, n, s, n, n⟩
  | .brx => ⟨n, .srcIn 2 .target, n, n, n⟩
  | .callx | .meetr => ⟨n, p, n, n, n⟩
  | .meet => if imm then ⟨dp, n, s, n, n⟩ else ⟨dp, p, n, n, n⟩
  | .sysc => ⟨dp, p, s, .srcs 8, n⟩
  | .iadd | .isub | .imul | .imulh | .idiv | .irem | .imin | .imax | .shl | .shr | .rot | .sel
  | .fmin | .fmax => ⟨d, s, s, n, n⟩
  | .rdlane => ⟨d, s, s, n, n⟩
  | .iadd64 | .isub64 => ⟨dp, p, p, n, n⟩
  | .imad | .shf | .logic | .bfe | .bshuf | .idp4 => ⟨d, s, s, s, n⟩
  | .imadw => ⟨dp, s, s, p, n⟩
  | .iabs | .ineg | .popc | .clz | .brev | .xclr | .fclass => ⟨d, s, n, n, n⟩
  | .bfi => ⟨d, s, s, s, s⟩
  | .icmp | .fcmp => ⟨n, s, s, n, n⟩
  | .lea => ⟨dp, p, s, n, n⟩
  | .mov => ⟨d, n, s, n, n⟩
  | .mov64 => ⟨dp, n, p, n, n⟩
  | .sreg => ⟨d, .srcIn 1 .special, n, n, n⟩
  | .preg => ⟨.dstIn 1 .vz, n, n, n, n⟩
  | .regp | .xget => ⟨n, s, n, n, n⟩
  | .fadd | .fsub | .fmul | .fldx | .fdiv => ⟨d, s, s, r, n⟩
  | .ffma => ⟨d, s, s, s, if imm then n else r⟩
  | .frnd | .frcp | .frsq | .fsqrt | .fexp2 | .flog2 | .fsin | .fcos | .ftanh | .f2i | .i2f => ⟨d, s, n, r, n⟩
  | .cvt => ⟨d, s, slotR, n, n⟩
  | .pack => ⟨d, .srcs elements, slotR, n, n⟩
  | .unpk => ⟨.dsts elements, s, slotR, n, n⟩
  | .rand => ⟨.dstIn 1 .vz, n, s, n, n⟩
  | .rseed => ⟨n, .srcIn 1 .registers, n, n, n⟩
  | .vote => if modBits m 0 2 == 3 then ⟨d, n, n, n, n⟩ else ⟨n, n, n, n, n⟩
  | .shfl =>
    let k := if modBits m 2 1 == 1 then 2 else 1
    ⟨.dstIn k .vz, .srcIn k .notScalar, s, n, n⟩
  | .red => ⟨d, s, n, n, n⟩
  | .scan => ⟨.dstIn 1 .vz, s, n, n, n⟩
  | .matchLanes => ⟨.dstIn 1 .vz, .srcs (if modBits m 0 1 == 1 then 2 else 1), n, n, n⟩
  | .elect => ⟨d, n, n, n, n⟩
  | .ld | .ldk => ⟨.dsts size, rec_, s, s, n⟩
  | .st | .dbl => ⟨.srcs size, rec_, s, s, n⟩
  | .lds | .lde => ⟨.dsts size, s, s, n, n⟩
  | .sts | .stf => ⟨.srcs size, s, s, n, n⟩
  | .atom => ⟨.dsts size, rec_, s, s, .srcs (atomRegs m)⟩
  | .atoms => ⟨.dsts size, s, s, .srcs (atomRegs m), n⟩
  | .pref | .cwb | .cinv => ⟨n, rec_, s, s, n⟩
  | .brec => ⟨.dstIn 4 .record, p, s, s, n⟩
  | .ginit | .gadd => ⟨n, s, s, n, n⟩
  | .gwait => ⟨n, s, n, n, n⟩
  | .seal => ⟨d, n, n, n, n⟩
  | .bwait | .tsig | .cvr => ⟨n, n, s, n, n⟩
  | .push => ⟨d, .srcs 16, s, n, n⟩
  | .wait =>
    let w := if modBits m 0 1 == 1 then 2 else 1
    ⟨.dsts w, rec_, s, .srcs (if modBits m 1 1 == 1 then 4 else w), n⟩
  | .wake | .wspill | .wfill => ⟨n, rec_, s, n, n⟩
  | .mma | .mmq | .mms => ⟨d, s, s, n, n⟩
  | .plane | .planx =>
    let k := 32 * 2 ^ modBits m 3 2
    ⟨n, .srcIn 1 .uniform, .srcIn (if x.prot then k else k / 2) .vOnly, n, n⟩
  | .mfsr => ⟨.dstIn 1 .vz, n, n, n, n⟩
  | .mtsr => ⟨n, s, n, n, n⟩
  | .marg => ⟨d, n, n, n, n⟩

/-- How an instruction treats a scalar destination: R343, or the exceptions that the descriptions name (RDLANE, LDK, and
the lane instructions of R471, whose tile is judged at issue, and the matrix products, whose D is judged after their slots, R484). -/
def Op.scalarByR343 : Op → Bool
  | .rdlane | .ldk | .vote | .elect | .red | .mma | .mmq | .mms => false
  | _ => true

end Sys2Proof
end

