-- ==== Sys2Proof/WellFormed.lean ====
section
/-!
DEFINITION. When an instruction is well formed: what R339 to R343 and the tables R359 to R368 demand of its fields, given
what the line, the launch and the mode supply (DecodeCtx). The steps of the other agents carry only bounded data and have
no further condition. The encoding plays no part here.
-/

namespace Sys2Proof

/-- The special operands that read the same in every lane of an issue (R344, column U). -/
def SpecialReg.uniform : SpecialReg → Bool
  | .wid | .crew | .ncrew | .cwaves | .core | .quarter | .clk | .gtime | .tilew | .role | .wstat | .mstat => true
  | .lane | .tid | .clkh | .gtimeh | .rndc | .batch | .tcause | .tpc | .tpch | .tval | .tvalh => false

/-- The special operands that name a pair (R342). -/
def SpecialReg.pairLow : SpecialReg → Bool
  | .clk | .gtime | .tpc | .tval => true
  | _ => false

/-- A register index may start a group of `n`: even where n ≥ 2, and not past `limit` (R342). -/
def groupOk (i n limit : Nat) : Bool := (n ≤ 1 || i % 2 == 0) && i + n ≤ limit

/-- An operand that a field may hold by its set (R341 to R343). -/
def OperandSet.allows : OperandSet → Operand → Bool
  | .any, _ => true
  | .vz, .v _ => true
  | .vz, .z => true
  | .vz, _ => false
  | .vOnly, .v _ => true
  | .vOnly, _ => false
  | .record, .s n => n.val % 4 == 0
  | .record, _ => false
  | .special, .special _ => true
  | .special, _ => false
  | .uniform, .v _ => false
  | .uniform, .special r => r.uniform
  | .uniform, _ => true
  | .registers, .special _ => false
  | .registers, .z => false
  | .registers, _ => true
  | .target, .special q => q == .tpc
  | .target, _ => true
  | .notScalar, .s _ => false
  | .notScalar, _ => true

/-- An operand that a used field may hold: its set, its direction, its window and its group (R341, R342). -/
def FieldRole.allows (r : FieldRole) (window : Nat) (o : Operand) : Bool :=
  r.set.allows o &&
    match o with
    | .v n => groupOk n.val r.count window
    | .s n => groupOk n.val r.count 64
    | .c n => !r.dest && groupOk n.val r.count 128
    | .special q => !r.dest && (r.count ≤ 1 || (r.count == 2 && q.pairLow))
    | .z => true

/-- A field by its role: z where the instruction does not use it (R340). -/
def FieldRole.fits (r : FieldRole) (window : Nat) (o : Operand) : Bool :=
  if r.used then r.allows window o else o == .z

/-- A source that leaves a scalar destination legal (R343); a pair of special operands holds a per-thread one. -/
def FieldRole.uniformSource (r : FieldRole) (o : Operand) : Bool :=
  !r.used || r.dest ||
    match o with
    | .v _ => false
    | .special q => q.uniform && r.count ≤ 1
    | _ => true

/-- B holds an immediate. -/
def SrcB.isImm : SrcB → Bool
  | .reg _ => false
  | _ => true

/-- The operand in field B, z for an immediate. -/
def SrcB.operand : SrcB → Operand
  | .reg o => o
  | _ => .z

/-- The form of B that the row allows (R347, R348). -/
def IForm.allows (q : IForm) : SrcB → Bool
  | .reg _ => !q.required
  | .int20 _ => q.int20
  | .f20 _ => q.f20
  | .word _ _ => q.word
  | .pair _ _ _ => q.pair

/-- The literal words of an immediate are those of the line (R349). -/
def DecodeCtx.literals (x : DecodeCtx) : SrcB → Bool
  | .word j w => x.lits.getD j.val none == some w
  | .pair j lo hi => x.lits.getD j.val none == some lo && x.lits.getD (j.val + 1) none == some hi
  | _ => true

/-- The destination of the instruction is an s register that R343, R393 or the description forbids. -/
def Op.scalarDestBad (o : Op) (rr : Roles) (f : Fields) : Bool :=
  match f.d with
  | .s _ =>
    rr.d.used && rr.d.dest &&
      (if o.scalarByR343 then
        !(rr.a.uniformSource f.a && rr.b.uniformSource f.b.operand && rr.c.uniformSource f.c && rr.e.uniformSource f.e)
       else o == .rdlane && !rr.b.uniformSource f.b.operand)
  | _ => false

/-- A v or an s register. -/
def Operand.isRegister : Operand → Bool
  | .v _ | .s _ => true
  | _ => false

/-- CLR of SREG: nonzero only for %wstat and %mstat, and only in their RW1C bits (R361, R392). -/
def sregClearOk (a : Operand) (m : BitVec 13) : Bool :=
  match a with
  | .special .wstat => modWithin m 0x1F
  | .special .mstat => modWithin m 7
  | _ => modWithin m 0

/-- The instruction with these fields is well formed in context `x`. -/
def Op.wf (o : Op) (x : DecodeCtx) (f : Fields) : Bool :=
  let imm := f.b.isImm
  let rr := o.roles f.mod imm x
  (!o.privileged || x.trapMode) &&
    o.iform.allows f.b && f.hold.toNat ≤ 4 && f.ch.toNat ≤ 5 && (f.ch == 0 || o.takesHint) && o.modOk f.mod imm &&
    (!o.wholeWave || (f.g0 == ⟨7, false⟩ && f.g1 == ⟨7, false⟩)) &&
    (o != .vote || modBits f.mod 0 2 != 3 || f.d.isRegister) && (o != .sreg || sregClearOk f.a f.mod) &&
    x.literals f.b &&
    rr.d.fits x.window f.d && rr.a.fits x.window f.a && rr.c.fits x.window f.c && rr.e.fits x.window f.e &&
    (imm || rr.b.fits x.window f.b.operand) && !o.scalarDestBad rr f

/-- Well-formed instructions of a context. A pattern counts as ILLEGAL_INSTRUCTION when its opcode is not listed (R356). -/
def Instr.wf (x : DecodeCtx) (i : Instr) : Bool :=
  match i.fields? with
  | some (o, f) => o.wf x f
  | none =>
    match i with
    | .illegalInstruction w => (Op.ofCode (w.extractLsb' 0 12)).isNone
    | _ => true

/-- An instruction that has an encoding: every row but the steps of the other agents. -/
def Instr.encoded (i : Instr) : Bool :=
  i.fields?.isSome || (match i with | .illegalInstruction _ => true | _ => false)

end Sys2Proof
end

