-- ==== Sys2Proof/Decode.lean ====
section
/-!
DEFINITION. The 96-bit instruction word (R338), its decoding in the order of R357, and the encoder. Word and line layouts
are written from 12_isa_encoding.md.
-/

namespace Sys2Proof

/-- The bit fields of a slot (R338). `bc` is bits [55:34]: B and C, or kind and VAL of an immediate (R347). -/
structure Raw where
  opc : BitVec 12
  d : BitVec 11
  a : BitVec 11
  bc : BitVec 22
  e : BitVec 11
  g0 : BitVec 4
  g1 : BitVec 4
  ch : BitVec 3
  sw : BitVec 1
  hold : BitVec 3
  mod : BitVec 13
  i : BitVec 1
deriving DecidableEq, Repr

/-- The fields of a word (R338). -/
def Raw.ofWord (w : BitVec 96) : Raw where
  opc := w.extractLsb' 0 12
  d := w.extractLsb' 12 11
  a := w.extractLsb' 23 11
  bc := w.extractLsb' 34 22
  e := w.extractLsb' 56 11
  g0 := w.extractLsb' 67 4
  g1 := w.extractLsb' 71 4
  ch := w.extractLsb' 75 3
  sw := w.extractLsb' 78 1
  hold := w.extractLsb' 79 3
  mod := w.extractLsb' 82 13
  i := w.extractLsb' 95 1

/-- The word of the fields (R338). -/
def Raw.word (r : Raw) : BitVec 96 :=
  r.i ++ r.mod ++ r.hold ++ r.sw ++ r.ch ++ r.g1 ++ r.g0 ++ r.e ++ r.bc ++ r.a ++ r.d ++ r.opc

def Raw.b (r : Raw) : BitVec 11 := r.bc.extractLsb' 0 11
def Raw.c (r : Raw) : BitVec 11 := r.bc.extractLsb' 11 11
/-- The kind of the immediate (R347). -/
def Raw.kind (r : Raw) : BitVec 2 := r.bc.extractLsb' 20 2
/-- VAL of the immediate (R347). -/
def Raw.val (r : Raw) : BitVec 20 := r.bc.extractLsb' 0 20
def Raw.imm (r : Raw) : Bool := r.i == 1

/-- A guard field (R338). -/
def Guard.ofBits (g : BitVec 4) : Guard := ⟨g.extractLsb' 0 3, g.getLsbD 3⟩
def Guard.bits (g : Guard) : BitVec 4 := BitVec.ofBool g.neg ++ g.pred

/-- The place of a special operand in the table of R344. -/
def SpecialReg.index : SpecialReg → Nat
  | .lane => 0 | .wid => 1 | .tid => 2 | .crew => 3 | .ncrew => 4 | .cwaves => 5 | .core => 6 | .quarter => 7
  | .clk => 8 | .clkh => 9 | .gtime => 10 | .gtimeh => 11 | .rndc => 12 | .tilew => 13 | .role => 14 | .batch => 15
  | .wstat => 16 | .mstat => 17 | .tcause => 18 | .tpc => 19 | .tpch => 20 | .tval => 21 | .tvalh => 22

/-- The code of an operand (R341). -/
def Operand.code : Operand → BitVec 11
  | .v n => BitVec.ofNat 11 n.val
  | .s n => BitVec.ofNat 11 (1536 + n.val)
  | .c n => BitVec.ofNat 11 (1600 + n.val)
  | .special r => BitVec.ofNat 11 (1728 + r.index)
  | .z => 2047#11

/-- The operand of a code; none for the reserved codes (R341). -/
def Operand.ofCode (code : BitVec 11) : Option Operand :=
  let n := code.toNat
  if h : n < 1536 then some (.v ⟨n, h⟩)
  else if h : n < 1600 then some (.s ⟨n - 1536, by omega⟩)
  else if h : n < 1728 then some (.c ⟨n - 1600, by omega⟩)
  else if n < 1751 then (SpecialReg.all[n - 1728]?).map .special
  else if n = 2047 then some .z
  else none

/-- The fate of a pattern that is no instruction (R357, R369): its cause, and what its trap value is made of. -/
inductive DecodeError where
  | illegalInstruction
  | privileged
  | malformedLine
  | illegalOperand (field : BitVec 3) (code : BitVec 11)
deriving DecidableEq, Repr

/-- The kind and the index of the immediate are allowed (R347, R348). -/
def Raw.immOk (r : Raw) (q : IForm) : Bool :=
  if r.imm then
    (match r.kind.toNat with
     | 0 => q.int20
     | 1 => q.f20
     | 2 => q.word && decide (r.val.toNat < 6)
     | _ => q.pair && decide (r.val.toNat < 5))
  else !q.required

/-- Step 3 of R357: I, kind and index, HOLD, CH, MOD, unused operand fields, guards of the whole-wave instructions, and
the two conditions that join a field with MOD: D of a ballot is a register (R473), and CLR is 0 but for the two status operands
(R392), whatever code A holds. -/
def Raw.legal (r : Raw) (o : Op) (rr : Roles) : Bool :=
  r.immOk o.iform && r.hold.toNat ≤ 4 && r.ch.toNat ≤ 5 && (r.ch == 0 || o.takesHint) && o.modOk r.mod r.imm &&
    (!o.wholeWave || (r.g0 == 7 && r.g1 == 7)) &&
    (rr.d.used || r.d == 2047) && (rr.a.used || r.a == 2047) &&
    (if r.imm then rr.c.used || r.e == 2047
     else (rr.b.used || r.b == 2047) && (rr.c.used || r.c == 2047) && (rr.e.used || r.e == 2047)) &&
    (o != .vote || modBits r.mod 0 2 != 3 || (Operand.ofCode r.d).any Operand.isRegister) &&
    (o != .sreg || sregClearOk ((Operand.ofCode r.a).getD .z) r.mod)

/-- Step 4 of R357: B as an immediate with the literal words it references (R348, R349). -/
def Raw.immediate (r : Raw) (x : DecodeCtx) : Except DecodeError SrcB :=
  match r.kind.toNat with
  | 0 => .ok (.int20 r.val)
  | 1 => .ok (.f20 r.val)
  | 2 =>
    if h : r.val.toNat < 6 then
      match x.lits.getD r.val.toNat none with
      | some w => .ok (.word ⟨r.val.toNat, h⟩ w)
      | none => .error .malformedLine
    else .error .illegalInstruction
  | _ =>
    if h : r.val.toNat < 5 then
      match x.lits.getD r.val.toNat none, x.lits.getD (r.val.toNat + 1) none with
      | some lo, some hi => .ok (.pair ⟨r.val.toNat, h⟩ lo hi)
      | _, _ => .error .malformedLine
    else .error .illegalInstruction

/-- Step 5 of R357 for one field: the operand of a code that the role allows; the illegal operand names the field (R370). -/
def FieldRole.decode (r : FieldRole) (x : DecodeCtx) (field : BitVec 3) (code : BitVec 11) :
    Except DecodeError Operand :=
  if r.used then
    match Operand.ofCode code with
    | some o => if r.allows x.window o then .ok o else .error (.illegalOperand field code)
    | Option.none => .error (.illegalOperand field code)
  else .ok .z

/-- Steps 2 to 5 of R357 for a listed opcode. -/
def Op.decode (o : Op) (x : DecodeCtx) (r : Raw) : Except DecodeError Instr :=
  let rr := o.roles r.mod r.imm x
  if o.privileged && !x.trapMode then .error .privileged
  else if !r.legal o rr then .error .illegalInstruction
  else
    (if r.imm then r.immediate x else .ok (.reg .z)).bind fun imm =>
    (rr.d.decode x 0 r.d).bind fun d =>
    (rr.a.decode x 1 r.a).bind fun a =>
    (if r.imm then .ok imm else (rr.b.decode x 2 r.b).map .reg).bind fun b =>
    (if r.imm then rr.c.decode x 4 r.e else rr.c.decode x 3 r.c).bind fun c =>
    (if r.imm then .ok .z else rr.e.decode x 4 r.e).bind fun e =>
    let f : Fields :=
      { d := d, a := a, b := b, c := c, e := e, g0 := .ofBits r.g0, g1 := .ofBits r.g1, ch := r.ch,
        sw := r.sw == 1, hold := r.hold, mod := r.mod }
    if o.scalarDestBad rr f then
      .error (if o.scalarByR343 then .illegalOperand 0 r.d else .illegalOperand 2 r.b)
    else .ok (o.instr f)

/-- Decoding of a slot in the order of R357. An unlisted opcode is the step ILLEGAL_INSTRUCTION (R356). -/
def decode (x : DecodeCtx) (w : BitVec 96) : Except DecodeError Instr :=
  match Op.ofCode (Raw.ofWord w).opc with
  | none => .ok (.illegalInstruction w)
  | some o => o.decode x (.ofWord w)

/-- Bits [55:34] for B and C (R338, R347, R348). -/
def SrcB.bits (b : SrcB) (c : BitVec 11) : BitVec 22 :=
  match b with
  | .reg o => c ++ o.code
  | .int20 v => 0#2 ++ v
  | .f20 v => 1#2 ++ v
  | .word j _ => 2#2 ++ BitVec.ofNat 20 j.val
  | .pair j _ _ => 3#2 ++ BitVec.ofNat 20 j.val

/-- The fields of an instruction as bit fields (R338, R347: under I = 1 the C operand lies in E). -/
def Op.raw (o : Op) (f : Fields) : Raw where
  opc := o.code
  d := f.d.code
  a := f.a.code
  bc := f.b.bits f.c.code
  e := if f.b.isImm then f.c.code else f.e.code
  g0 := f.g0.bits
  g1 := f.g1.bits
  ch := f.ch
  sw := BitVec.ofBool f.sw
  hold := f.hold
  mod := f.mod
  i := BitVec.ofBool f.b.isImm

/-- The word of an instruction; zero for the steps that have no encoding. -/
def encode (i : Instr) : BitVec 96 :=
  match i.fields? with
  | some (o, f) => (o.raw f).word
  | none =>
    match i with
    | .illegalInstruction w => w
    | _ => 0

/-- The slot address of slot `i` in the line at byte address `a` (R350). -/
def slotOf (a i : Nat) : Nat := (a / 64) * 5 + i

/-- The byte address of a slot, and of its line (R350). -/
def slotByte (t : Nat) : Nat := 64 * (t / 5) + 12 * (t % 5)
def lineByte (t : Nat) : Nat := 64 * (t / 5)

/-- A fetch line as sixteen 32-bit words, word 15 being the line word (R350). -/
abbrev Line := List Word

/-- A little-endian number from bytes (R2). -/
def leNat : List Byte → Nat
  | [] => 0
  | b :: bs => b.toNat + 256 * leNat bs

/-- The bytes of a number, least significant first (R2). -/
def leBytes (n : Nat) (len : Nat) : List Byte :=
  match len with
  | 0 => []
  | k + 1 => BitVec.ofNat 8 n :: leBytes (n / 256) k

/-- The words of the 64 bytes of a line. -/
def lineOf (bytes : List Byte) : Line :=
  (List.range 16).map fun k => BitVec.ofNat 32 (leNat ((bytes.drop (4 * k)).take 4))

def lineWord (l : Line) : Word := l.getD 15 0
/-- TGT and LIT of slot `i` (R351). -/
def lineTgt (l : Line) (i : Nat) : Bool := (lineWord l).getLsbD i
def lineLit (l : Line) (i : Nat) : Bool := (lineWord l).getLsbD (5 + i)

/-- XOR of the lowest `n` bits of a word. -/
def parity (w : Word) (n : Nat) : Bool := (List.range n).foldl (fun p i => p ^^ w.getLsbD i) false

/-- Parity of a line (R351, R353). -/
def lineParityOk (l : Line) : Bool :=
  (List.range 15).all (fun k => parity (l.getD k 0) 32 == (lineWord l).getLsbD (16 + k)) &&
    parity (lineWord l) 31 == (lineWord l).getLsbD 31

/-- Structure of a line (R353): RSV zero, no slot both a target and literal. -/
def lineStructureOk (l : Line) : Bool :=
  (lineWord l).extractLsb' 14 2 == 0 && (List.range 5).all (fun i => !(lineTgt l i && lineLit l i))

/-- The 96 bits of slot `i` (R350). -/
def lineSlot (l : Line) (i : Nat) : BitVec 96 :=
  l.getD (3 * i + 2) 0 ++ l.getD (3 * i + 1) 0 ++ l.getD (3 * i) 0

/-- The literal words that follow slot `i`: word j where its slot has LIT = 1 (R349). -/
def lineLits (l : Line) (i : Nat) : List (Option Word) :=
  (List.range 6).map fun j =>
    let s := i + 1 + j / 3
    if s ≤ 4 && lineLit l s then some (l.getD (3 * s + j % 3) 0) else none

/-- What decodeTableWord supplies: trap mode, the whole window, empty format slots, and literal words of zero. -/
def tableCtx : DecodeCtx :=
  { trapMode := true, window := 1536, prot := false, slots := [], lits := List.replicate 6 (some 0) }

/-- The instruction that the decoder reads from an instruction whose bits are `w`, of which the table names `nbits`. -/
def decodeTableWord (nbits w : Nat) : Option Instr :=
  if nbits ≤ 96 then
    match decode tableCtx (BitVec.ofNat 96 (w % 2 ^ nbits)) with
    | .ok i => some i
    | .error _ => none
  else none

end Sys2Proof
end

