-- ==== Sys2Proof/Config.lean ====
section
/-!
DEFINITION. What an implementation of the Scaim 9 fixes (fuses), what other standards define and this manual only names
(SHA-512, Ed25519), and the free values: constants without a body, of which nothing can be proved but that they exist.
-/

namespace Sys2Proof

/-- The seed of the converter generator of a quarter at its `n`-th seeding, from the hub's entropy source (R320).
A free value. -/
opaque Config.entropySeed : (quarter n : Nat) → Word

/-- The SHA-512 of a byte string (R22, R24, R34): a named standard that the manual does not restate. -/
opaque Config.sha512 : List Byte → BitVec 512

/-- Whether an Ed25519 signature over a SHA-512 digest is valid for a public key (R22): a named standard. -/
opaque Config.ed25519Valid : (key : BitVec 256) → (signature : BitVec 512) → (digest : BitVec 512) → Bool

/-- What the management controller answers to an SPDM request whose content the manual leaves to SPDM 1.3 (R33). A
free value. -/
opaque Config.spdmReply : (request : Nat) → (nonce : BitVec 256) → BitVec 512

/-- Fuses: BOOT_FUSE.PORT and BOOT_FUSE.PORT_LOCK (R21). -/
opaque Config.bootFusePort : BitVec 4
opaque Config.bootFusePortLock : Bool
/-- Fuse: SHA-512 of the public key that may sign a boot image (R23). -/
opaque Config.fusedKeyHash : BitVec 512
/-- Fuse: the least security version that may boot (R22). -/
opaque Config.fusedMinVersion : BitVec 512
/-- Fuse: the state that SPDM measurement 2 reports (R34). -/
opaque Config.fuseState : BitVec 512
/-- Fuse MGN_FUSE of each core: the TARGET reset of MARGIN_CTL (R230). -/
opaque Config.marginFuse : (core : Nat) → BitVec 4
/-- Fuse SRAM_FUSE of each die (R253). -/
opaque Config.sramFuse : (die : Nat) → BitVec 8
/-- A result of a special function that the interval arithmetic of the model could not decide: a free value. -/
opaque Config.freeSpecial : (op : Nat) → (arg : Word) → Word
/-- The value of something the manual leaves open at one moment; `n` is State.fresh. -/
opaque Config.freeWord : (n : Nat) → BitVec 64

/-- The rank of a lane in an order that the manual leaves open (R276, R445); `n` is State.fresh. A free value. -/
opaque Config.laneRank : (n lane : Nat) → Nat

/-- What happens to the package by itself in a cycle, counted from reset: free values, since the manual says what follows of each and
not when one comes. An error in the stored copy of a sector, or in the L2 way that holds it (R245, R251): the sector, 0 for a single bit, 1
for one that cannot be corrected and 2 + t for the tag t, and the way. -/
opaque Config.upset : (cycle : Nat) → Option (Nat × Nat × Option L2Way)
/-- An uncorrectable error in a register row: the wave slot, lane and row (R248). -/
opaque Config.rowUpset : (cycle : Nat) → Option (Nat × Nat × Nat)
/-- An uncorrectable error in a scratchpad sector: the crew and the sector (R248). -/
opaque Config.scratchUpset : (cycle : Nat) → Option (Nat × Nat)
/-- A write of another head to a shared CXL range: the address and the byte (R63). -/
opaque Config.otherHead : (cycle : Nat) → Option (Nat × Byte)
/-- A CXL device finds a sector poisoned, and reports it with its reads (R64). -/
opaque Config.devicePoison : (cycle : Nat) → Option Nat

/-- The samples of the monitors in each microsecond of %gtime (R18). A free value. -/
opaque Config.monitorSample : (microsecond : Nat) → MonitorReadings

/-- Whether a copy engine takes its next command, or ends its copy, at a cycle: the manual times neither. A free value. -/
opaque Config.engineReady : (cycle engine : Nat) → Bool

/-- Which of the ports that reach a peer carries a block of 256 bytes (R68): the manual names a hash and not which. A free value. -/
opaque Config.ubnorHash : (block : Nat) → Nat
/-- The link of an Ubnor port goes down or comes up at a cycle: the registers of its own capability are not given (R36). A free value. -/
opaque Config.ubnorLink : (cycle : Nat) → Option (Nat × Bool)

/-- What partner trains on a port at a cycle: true for a CXL device (R61). A free value. -/
opaque Config.cxlPartner : (port cycle : Nat) → Bool

/-- The magic of a boot image (R22). -/
def Config.bootMagic : DWord := 0x4E524F4339534541#64

end Sys2Proof
end

