-- ==== Sys2Proof/Machine/State.lean ====
section
/-!
DEFINITION. The state of the package as plain data, its reasons to stop, and the state right after package reset.
INVENTORY.md lists each field with the rule that names it.
-/

namespace Sys2Proof.Machine

/-- Reasons a step stops the machine. Every exception of the manual is a next state, so the list is short. -/
inductive Fault where
  /-- Raised by no step of this model: the manual gives every step of the table an effect. Safe. -/
  | unused
deriving DecidableEq, Repr

/-- Reasons the model has no meaning for a step. -/
inductive Refusal where
  /-- Raised by an arm of exec that has no meaning yet. Safe: nothing is claimed of such a step. -/
  | notModelled (mnemonic : String)
deriving DecidableEq, Repr

/-- A finite map from Nat: pairs with rising keys; a key that is not listed reads as a default that the reader names. -/
abbrev SMap (α : Type) := List (Nat × α)

/-- A register lane: 32 data bits and the X bit (R186, R314). -/
structure Reg where
  val : Word
  x : Bool
deriving DecidableEq, Repr

/-- Where a result lands: a physical row of a lane, a scalar register, a predicate of a lane (R205). -/
inductive Dst where
  | v (lane row : Nat)
  | s (n : Nat)
  | p (lane i : Nat)
deriving DecidableEq, Repr

/-- A fixed-latency result on its way: it lands at the start of cycle `land` (R204, R205). `lanes` are the threads that issued its
instruction (R206). -/
structure Fly where
  land : Nat
  dst : Dst
  val : Reg
  lanes : BitVec 32
deriving DecidableEq, Repr

/-- A scoreboarded result (R207): the marked destinations, the values known so far, and how many lanes are still to
come. It lands once `waiting` is 0. -/
structure Pend where
  serial : Nat
  marks : List Dst
  writes : List (Dst × Reg)
  waiting : Nat
deriving DecidableEq, Repr

/-- A convergence register (07, R195); `offset` is the block offset that the last signer read (R480), `barred` a core on which its
complete instruction does not issue again (R233). -/
structure KReg where
  set : BitVec 32
  signed : BitVec 32
  spc : SlotAddr
  offset : Word
  barred : Option Nat
deriving DecidableEq, Repr

/-- A matrix instruction in the array (R484): its number, by which TIMING_DETECTION names it (R227), the accumulators it will write,
the %mstat flags it will set, the cycle at which the array is free again (R485), and the convergence register as it was when the
instruction issued, which R233 restores. -/
structure MatJob where
  serial : Nat
  k : Nat
  before : KReg
  writes : List (Dst × Reg)
  flags : BitVec 3
  busyUntil : Nat
deriving DecidableEq, Repr

/-- Memory scopes (R282), in the order of the SCOPE field. -/
inductive Scope where
  | wv | cr | cl | dv | sy
deriving DecidableEq, Repr

/-- What an access through a buffer record does (R94, R440 to R446, R465, R468, R492). -/
inductive AccessKind where
  | load (sx : Bool)
  | store
  | atom (aop : BitVec 4)
  | wait
  | doorbell
  | spill
  | fill
deriving DecidableEq, Repr

/-- A global access: what it does, its size in bytes, its order and scope (R438). -/
structure Access where
  kind : AccessKind
  size : Nat
  acq : Bool
  rel : Bool
  scope : Scope
deriving DecidableEq, Repr

/-- A page that something waits for (R95, R102): its space, address and access, and the CODE of the answer once it has
come. -/
structure PageWait where
  pasid : BitVec 20
  va : SlotAddr
  rd : Bool
  wr : Bool
  ex : Bool
  perm : Bool
  answer : Option (BitVec 2)
deriving DecidableEq, Repr

/-- A lane held in the operand log (R213): its data take at most 256 bits, those of a window image 1152 (R212). -/
structure LogLane where
  lane : Nat
  va : SlotAddr
  data : BitVec 1152
  page : PageWait
deriving DecidableEq, Repr

/-- An operand-log entry (R213): the access that its instruction makes, the 96-bit word with the literal words after it, and its PC.
Entries past the fourth wait outside the log (R214). -/
structure LogEntry where
  access : Access
  word : BitVec 96
  literals : List (Option Word)
  pc : SlotAddr
  serial : Nat
  lanes : List LogLane
deriving DecidableEq, Repr

/-- A trap that a thread takes before its next issue (R216, R490). `later` marks one whose addresses are those at which
the thread would next issue (R215, R249, R386), `again` one that another cause waits behind. -/
structure PTrap where
  later : Bool
  cause : Byte
  tval : DWord
  tpc : SlotAddr
  res : SlotAddr
  again : Bool := false
deriving DecidableEq, Repr

/-- The steps of SYSC at which a lane can wait, with the header word at offset 8 and the ticket where they are known
(R128). -/
inductive SyscPhase where
  | start
  | checked (hdr : DWord)
  | claiming (hdr : DWord)
  | ringFull (hdr ticket : DWord)
  | claimed (hdr ticket : DWord)
  | filled (hdr ticket : DWord) (entry : Nat)
  | published
deriving DecidableEq, Repr

/-- A call of SYSC in progress (R128, R388). `line` is the line it is registered on while parked, `spilled` when the wake
table was full, `page` the page request it waits on, `behind` the address of an access that waits for a line of the operand log
(R214), `got` answers of accesses that left the package in this step. -/
structure Sysc where
  phase : SyscPhase
  cva : SlotAddr
  nr : Word
  args : List DWord
  serial : Nat
  line : Option Nat
  spilled : Bool
  page : Option PageWait
  behind : Option Nat
  got : List (Nat × DWord)
  kick : Bool
deriving DecidableEq, Repr

/-- Why a thread is blocked, with what its completion needs (R190, R221). -/
inductive Block where
  /-- An instruction fetch waits on its page request (R95); `transfer` is the target and the shift of the transfer whose
  target line it is, 0 where there is no call (R354). -/
  | fetch (page : PageWait) (transfer : Option (SlotAddr × Nat))
  /-- It signed convergence register `k` (R196). -/
  | signed (k : Nat)
  /-- LDE or STF waits on F of its line (R443). -/
  | fullEmpty (store : Bool) (offset size : Nat) (data : BitVec 128) (serial : Nat)
  /-- WAIT (R465). `spilled` when the wake table was full; `kick` after a wake or re-read is due. -/
  | wait (va : SlotAddr) (pa : Nat) (w64 : Bool) (value : DWord) (deadline : Option DWord) (scope : Scope)
      (serial : Nat) (spilled kick : Bool)
  /-- SYSC (R128, R388). -/
  | sysc (y : Sysc)
  /-- BWAIT up to a batch (R454). -/
  | bwait (batch : Word)
  /-- SEAL waits for the batch that was the oldest sealed one when it issued (R454). -/
  | sealing (serial : Nat) (oldest : Word)
  /-- GWAIT on a gate (R453). -/
  | gate (offset serial : Nat)
  /-- A barrier: its index, whether the arrival is still to be made, whether a departure follows (R451). -/
  | barrier (index : Nat) (arrive depart : Bool)
  /-- PUSH on a full queue (R456). -/
  | push (queue : Nat) (cmd : List Word) (pf pe : Nat) (serial : Nat)
  /-- WSPILL or WFILL held in the operand log (R492), or an access that waits for a log entry (R214). -/
  | image
  /-- A doorbell waits for room in the proxy (R57). -/
  | doorbell (port : Nat) (pa : Nat) (data : DWord) (size : Nat)
deriving DecidableEq, Repr

/-- A release fence of a thread: its scope, and the core on which it was performed (R283, R286). -/
structure ReleaseFence where
  scope : Scope
  core : Nat
deriving DecidableEq, Repr

/-- A thread: one lane of a wave (00 Terms, R148, R221, R488). `bad` are its physical rows with an uncorrectable error (R248). `checked` holds from a checked entry (ENTRY, TRAPV) until the
thread issues: its slot must have TGT = 1 (R354); `returned` after RET or TRET: its slot must have LIT = 0. -/
structure Thread where
  pc : SlotAddr
  mr : SlotAddr
  checked : Bool
  returned : Bool
  parked : Bool
  exited : Bool
  killed : Bool
  block : Option Block
  wb : BitVec 24
  rf : BitVec 24
  regs : SMap Reg
  preds : BitVec 7
  draw : Word
  trapMode : Bool
  ptrap : Option PTrap
  tpc : SlotAddr
  tcause : Byte
  tval : DWord
  wt : BitVec 24
  res : SlotAddr
  tpred : BitVec 7
  spoff : Word
  ts : SMap Reg
  clkSample : DWord
  gtimeSample : DWord
  batch : Word
  copies : List Word
  ap : SMap Nat
  tsig : BitVec 2
  fences : List ReleaseFence
  bad : List Nat
  starve : Nat
  issued : Bool
  wasReady : Bool
  since : Nat
  hold : Nat
deriving DecidableEq, Repr

/-- The role of a wave (R199). -/
inductive Role where
  | a | l | e
deriving DecidableEq, Repr

/-- A bundle: its lanes, and whether it has issued since the regroup that formed it (R191, R192). -/
structure Bundle where
  lanes : BitVec 32
  issued : Bool
deriving DecidableEq, Repr

/-- A wave in its slot (R185, R186, R221). `setNow` are the flags of %wstat (bits 0 to 4) and %mstat (5 to 7) set in this cycle, which
SREG does not clear in it (R392). `regrouped` is the cycle of its last regroup (R192), `touched` are the blocks of 32 rows
written since its crew's checkpoint (R240). -/
structure Wave where
  live : Bool
  launch : Nat
  crew : Nat
  wid : Nat
  threads : SMap Thread
  sregs : SMap Reg
  kregs : SMap KReg
  tile : Nat
  role : Role
  wstat : BitVec 5
  mstat : BitVec 3
  setNow : BitVec 8
  log : List LogEntry
  window : Option Nat
  bundles : List Bundle
  regroupDue : Bool
  regrouped : Nat
  fly : List Fly
  pend : List Pend
  mat : List MatJob
  touched : List Nat
deriving DecidableEq, Repr

/-- The states of a scratchpad page (R257). -/
inductive PageState where
  | zero | pinned | backed
deriving DecidableEq, Repr

/-- A scratchpad page; `writeback` while its released frame is still to be written to the slot (R259), `frame` the core whose frame it
holds, or still finds untaken after its release, with the contents it had; `dirty` the 128-byte lines changed since it was pinned, `marks` whether its F bits changed. -/
structure Page where
  state : PageState
  writeback : Bool
  frame : Option Nat
  dirty : List Nat
  marks : Bool
deriving DecidableEq, Repr

/-- A task whose descriptor the engine has read, once (R172, R174): its VA and its 64 bytes. -/
structure Task where
  va : SlotAddr
  body : BitVec 512
deriving DecidableEq, Repr

/-- A task lane (06, R182): its task and whether it has ended. -/
structure TaskLane where
  task : Task
  lane : Nat
  ended : Bool
deriving DecidableEq, Repr

/-- The heads of the release sequences that a byte of memory is in (R286): who released it and at which scope. A thread is
named by its core (R282, R283), its wave and its lane; another agent has core 256. -/
structure ReleaseTag where
  core : Nat
  wave : Nat
  lane : Nat
  scope : Scope
deriving DecidableEq, Repr

/-- The checkpoint of a crew (R239): context of its waves, scratchpad bytes, F bits, and the release tags of the window (R307). -/
structure Checkpoint where
  waves : SMap Wave
  bytes : SMap Byte
  poisoned : SMap Bool
  fbits : SMap Bool
  pages : SMap Page
  tags : SMap (List ReleaseTag)
deriving DecidableEq, Repr

/-- A crew from its placement until it ends (R144, R154, R221, R256 to R262, R239 to R243, R450). `area` is its log area (R240), of
which each vault has 18; `rollbackDue` names the thread
whose poison or mismatch asks for a rollback; `logged` are the scratchpad lines written since the checkpoint (R240); `heldTags` are
the release tags of the held bytes (R286, R307). -/
structure Crew where
  live : Bool
  launch : Nat
  number : Nat
  resident : Bool
  core : Nat
  slots : List Nat
  saved : SMap Wave
  spw : Nat
  bytes : SMap Byte
  poisoned : SMap Bool
  fbits : SMap Bool
  pages : SMap Page
  slot : Option Nat
  area : Option Nat
  cp : Nat
  ckpt : Option Checkpoint
  held : SMap Byte
  heldTags : SMap (List ReleaseTag)
  eligible : Bool
  rollbacks : Nat
  rollbackDue : Option DWord
  ckptDue : Option Nat
  stopping : Bool
  tasks : List TaskLane
  logged : List Nat
deriving DecidableEq, Repr

/-- A launch record after its checks (R137). -/
structure LaunchRec where
  entry : SlotAddr
  trapv : SlotAddr
  w : Nat
  stackr : Nat
  creww : Nat
  ncrew : Nat
  spw : Nat
  prio : Nat
  part : Nat
  prot : Bool
  rbk : Bool
  cores : Bool
  strict : Bool
  pasid : BitVec 20
  gtab : DWord
  sysr : DWord
  argp : DWord
  rngkey : DWord
  donew : DWord
  aev0 : DWord
  aval0 : DWord
  aev1 : DWord
  aval1 : DWord
  slots : List (BitVec 128)
  consts : List Word
deriving DecidableEq, Repr

/-- The states of a launch (R151). -/
inductive LState where
  | waitEv | ready | active | done | faulted
deriving DecidableEq, Repr

/-- An accepted launch (R140 to R151). A task wave is held as a launch of its own with `task` set (R181, R184); `late` is the time at
which an instance of a Thyme entry is withdrawn (R165), `lines` are the lines on which it waits for its after-event words (R151);
`cancelled` while its operations in flight complete (R143). -/
structure Launch where
  tag : DWord
  record : LaunchRec
  argp : DWord
  state : LState
  accepted : Nat
  ready : Nat
  nextCrew : Nat
  doneCrews : Nat
  groups : SMap (List Nat)
  cps : SMap Nat
  thyme : Option Nat
  late : Option DWord
  lines : List Nat
  task : Option Nat
  cancelled : Bool
  ended : Bool
deriving DecidableEq, Repr

/-- Who pushed a command: crew, wave of the crew, lane (R454). -/
structure Pusher where
  crew : Nat
  wid : Nat
  lane : Nat
deriving DecidableEq, Repr

/-- A command in an engine queue (R140, R456); `released` marks a task that the engine itself posts (R176). -/
structure QCmd where
  words : List Word
  pasid : BitVec 20
  pusher : Option Pusher
  batch : Word
  released : Bool := false
deriving DecidableEq, Repr

/-- A copy that an engine runs (R457 to R461); `sent` is the tag of its result record while that is under way to a domain peer. -/
structure CopyJob where
  cmd : QCmd
  status : Nat
  final : Word
  doneb : Nat
  sent : Option Nat
deriving DecidableEq, Repr

/-- A copy engine: its running copy, and the STATUS and final check value of the command before (R459). -/
structure CopyEngine where
  job : Option CopyJob
  previous : Option (Nat × Word)
deriving DecidableEq, Repr

/-- An armed FLIP (R463). -/
structure Flip where
  engine : Nat
  bit : Nat
  offset : Nat
deriving DecidableEq, Repr

/-- An unanswered page request, inside the hub (`rtag` none) or in the ring (R102 to R104). -/
structure PageReq where
  rtag : Option (BitVec 16)
  pri : Bool
  pasid : BitVec 20
  pv : Bool
  va : BitVec 64
  rd : Bool
  wr : Bool
  ex : Bool
  perm : Bool
  priv : Bool
  last : Bool
  who : BitVec 16
  prg : BitVec 9
  cnt : Nat
  port : Nat
deriving DecidableEq, Repr

/-- A record for the failure queue that waits in the hub (R131, R132), and the launch that it ends, if any. -/
structure Record where
  kind : Byte
  sub : Byte
  pasid : BitVec 20
  pv : Bool
  addr : DWord
  who : DWord
  launch : Option Nat
deriving DecidableEq, Repr

/-- Who made a request that left the package: a device thread, an endpoint behind a root port, a Loam hart, or an engine for a word
of a space, whose failure is a record of kind 0x0D with this SUB (R132, R149). -/
inductive Requester where
  | thread
  | endpoint (port : Nat) (rid : BitVec 16)
  | hart (h : Nat)
  | word (sub : Nat) (pasid : BitVec 20) (va : Nat)
deriving DecidableEq, Repr

/-- A request that has left the package and is not answered (R46, R70, R73, R76). `port` is none for a domain peer, `sent` is the
time at which it left; `waveKey`, `lane` and `serial` are those of a device thread, and `skip` is the first register of its
destination that this event fills (R277). `held` is the address and the data of a request that waits for a tag of its port (R41). -/
structure Outstanding where
  tag : Nat
  who : Requester
  sent : DWord
  port : Option Nat
  waveKey : Nat
  lane : Nat
  serial : Nat
  skip : Nat
  access : Access
  pasid : BitVec 20
  va : Nat
  pa : Nat
  held : Option (Nat × Nat) := none
deriving DecidableEq, Repr

/-- A translation that an endpoint holds (R90, R98): its port and requester, the space, the page and where it lies, of 2^`bits` bytes, and
the access granted. -/
structure AtsGrant where
  port : Nat
  rid : BitVec 16
  pasid : BitVec 20
  va : Nat
  pa : Nat
  bits : Nat
  rd : Bool
  wr : Bool
deriving DecidableEq, Repr

/-- A command of the table engine that invalidates (R90): its port and RESULT so far, and what it still waits for: endpoints, requests
that have left the package by their tags, and crews with translated stores that are not performed. -/
structure FlushWait where
  hart : Nat
  since : DWord
  result : Nat
  rids : List (BitVec 16)
  tags : List Nat
  crews : List Nat
deriving DecidableEq, Repr

/-- A resize under way (R91): its table, and whether the migration holds. -/
structure Resize where
  desc : BitVec 52
  size : Nat
  held : Bool
deriving DecidableEq, Repr

/-- A doorbell in the proxy (R54 to R57): its address on the link and in the package, data and size, and for its record the wave
slot, crew, space and WHO that rang it. -/
structure Doorbell where
  addr : Nat
  pa : Nat
  data : DWord
  size : Nat
  waveKey : Nat
  crew : Nat
  pasid : BitVec 20
  who : DWord
deriving DecidableEq, Repr

/-- An HDM decoder of a CXL port (R61): base and size of its range, over how many ports at which granularity it interleaves, and
the place of this port among them. -/
structure Decoder where
  on : Bool
  base : Nat
  size : Nat
  ways : Nat
  grain : Nat
  pos : Nat
deriving DecidableEq, Repr

/-- A capture that waits for earlier posted writes of its requester (R52): root port, requester ID, capture entry, data, and the bus
address of its record. -/
structure HeldCapture where
  port : Nat
  rid : BitVec 16
  entry : Nat
  data : Nat
  bus : Nat
deriving DecidableEq, Repr

/-- A root port (02): its link, whether it trained as a CXL port (R61), DPC, AER, Hot-Plug and PME status, Link Disable (R36),
the doorbells that its proxy holds, oldest first (R57), and the BAR sizes of a bridge in force (R133). -/
structure Port where
  up : Bool
  cxl : Bool
  dpc : Bool
  aer : Bool
  hotplug : Bool
  pme : Bool
  disabled : Bool
  aerCount : Nat
  doorbells : List Doorbell
  barSizes : Nat × Nat
deriving DecidableEq, Repr

/-- What the last Loam access of a hart gave (R106, R107). -/
inductive LoamResult where
  | none
  | value (v : DWord)
  | stored
  | scFailed
  | pageFault (op : LoamOp)
  | guestPageFault (op : LoamOp)
  | accessFault (op : LoamOp)
  | amoAccessFault (op : LoamOp)
  | misaligned (op : LoamOp)
  | illegal (op : LoamOp)
  | done
deriving DecidableEq, Repr

/-- An interrupt file of the AIA (R114): pending and enabled identities, eidelivery and eithreshold. -/
structure IntFile where
  pending : List Nat
  enabled : List Nat
  delivery : Nat
  threshold : Nat
deriving DecidableEq, Repr

/-- A Loam hart (R80, R100, R101, R105, R106, R114, R116, R122): in service, the address at which it enters firmware, the translation
registers, sstatus and vsstatus, VGEIN of hstatus, the timers of Sstc, reservation line, MTIP, interrupt files (0 is M, 1 is S, 2 to 8
are guest files), whether a FENCE stands before its next stores, the stall of WRS: none, or its end, and the release of the hart
that waits for the acknowledgement of its stores to domain peers (R73). -/
structure Hart where
  inService : Bool
  entry : Option DWord
  satp : DWord
  vsatp : DWord
  hgatp : DWord
  sstatus : DWord
  vsstatus : DWord
  vgein : BitVec 6
  stimecmp : DWord
  vstimecmp : DWord
  reserved : Option Nat
  mtip : Bool
  files : SMap IntFile
  fenced : Bool
  stall : Option (Option DWord)
  waits : Option Instr
  result : LoamResult
deriving DecidableEq, Repr

/-- An APLIC domain in MSI delivery mode (R115): domaincfg, sourcecfg and target by source, pending and enabled sources, the sources
whose input was asserted when last seen, genmsi. -/
structure Aplic where
  config : Word
  sources : SMap Word
  targets : SMap Word
  pending : List Nat
  enabled : List Nat
  high : List Nat
  genmsi : Word
deriving DecidableEq, Repr

/-- Why a core left service (R231). -/
inductive LeaveCause where
  | inService | automatic | requested | cluster
deriving DecidableEq, Repr

/-- What the rules keep for a core beside its hub registers (R203, R222 to R238, R353). `lines` are the fetched and checked
lines of its instruction cache: space, line address, and the 64 bytes. `relaxTo` is the step a relax goes to and when its supply
settles; windows are counted from `windowStart`; `testedAt` is the end of the last in-field test. -/
structure CoreState where
  lines : List (BitVec 20 × Nat × List Byte)
  quietRun : Nat
  raised : Bool
  highAtZero : Bool
  detections : SMap Nat
  relaxTo : Option (BitVec 4 × DWord)
  windowStart : DWord
  testedAt : DWord
  cause : LeaveCause
  wayBack : Bool
  iftDue : Bool
  testRetry : DWord
  quarantinedAt : List DWord
  owners : SMap Nat
deriving DecidableEq, Repr

/-- An open or closed gather of a task queue (R178, R179): entry, tasks, lines of their tiles, and when the
first one joined. -/
structure Gather where
  entry : SlotAddr
  tasks : List Task
  lines : Nat
  since : DWord
deriving DecidableEq, Repr

/-- A task queue (06): binding record, queued descriptors, the head once it has been read (R174), open gathers, formed waves with their launches, released tasks that
wait (R177), and the waves placed in this round (R184). -/
structure TaskQueue where
  binding : Option LaunchRec
  queued : List SlotAddr
  head : Option Task
  gathers : List Gather
  formed : List (Nat × Gather)
  released : List SlotAddr
  round : Nat
deriving DecidableEq, Repr

/-- A Thyme entry (R162 to R167); `spent` when its single slot has been taken. -/
structure Thyme where
  start : DWord
  period : DWord
  recva : SlotAddr
  maxlate : BitVec 32
  rule : BitVec 2
  valid : Bool
  state : BitVec 2
  next : DWord
  runs : BitVec 32
  miss : BitVec 32
  tag : DWord
  pasid : BitVec 20
  instLaunch : Option Nat
  held : Option DWord
  slotTime : DWord
  spent : Bool
deriving DecidableEq, Repr

/-- An L2 slice (R250 to R253): the profile in force, a flush in progress, the disabled ways of its sets, and when a way last
had a corrected error. -/
structure Slice where
  inService : Bool
  retired : Bool
  prof : BitVec 2
  flushing : Option (BitVec 2)
  ways : SMap (BitVec 16)
  corrected : SMap DWord
deriving DecidableEq, Repr

/-- A service request in progress (R255): the unit and its index. -/
inductive ServiceReq where
  | coreOut (n : Nat)
  | coreBack (n : Nat)
  | clusterOut (n : Nat)
  | clusterBack (n : Nat)
deriving DecidableEq, Repr

/-- A swap in progress between two partitions (R159); `saved` once the first is swapped out and the second still comes in. -/
structure Swap where
  fromPart : Nat
  toPart : Nat
  saved : Bool
deriving DecidableEq, Repr

/-- The power controller (R13 to R20): duties and HBM request rates (by stack) in eighths, the duty under the heat-flux limit,
the last readings, PWR_CTL as it is in force; the number of the last 10 µs step; since when power and HBM power have been below
95 % of their limits, or were last raised; of each cluster the numbers of its last 10 µs and 100 µs steps. -/
structure Power where
  powerDuty : Nat
  thermalDuty : SMap Nat
  fluxDuty : SMap Nat
  hbmRate : SMap Nat
  readings : MonitorReadings
  control : Nat
  stepped : Nat
  calm : Option DWord
  hbmCalm : Option DWord
  thermalSteps : SMap (Nat × Nat)
deriving DecidableEq, Repr

/-- The boot block (R21 to R35): pins sampled, HDM range found, the header as phase 3 read it, phase-3 results, the verified
blocks that the boot cache holds, the hash of the header as read, endpoint ID. -/
structure Boot where
  pins : BitVec 4
  hdm : Option (BitVec 52)
  header : List Byte
  headerOk : Option Bool
  clustersOk : Option Bool
  hbmOk : Option Bool
  verified : List (Nat × List Byte)
  measured : BitVec 512
  safe : Bool
  eid : Byte
deriving DecidableEq, Repr

/-- The attributes of a posted write: EP where its data is poisoned (R249), and Relaxed
Ordering or No Snoop, clear for a doorbell (R55) and not stated by the manual for any other write. -/
structure PostedAttr where
  ep : Bool
  relaxed : Option Bool
deriving DecidableEq, Repr

/-- A capture entry that is being rewritten (R53): the word and the requester ID that are in force, and which parts of the entry the
rewriting has written: bit 0 the low and bit 1 the high half of the word, bit 2 the requester ID. -/
structure CaptureOld where
  word : Nat
  rid : Nat
  parts : Nat
deriving DecidableEq, Repr

/-- Something that left the package: what a device outside can see of a step. -/
inductive OutMsg where
  /-- A posted write to a PCIe address, or to a partner's bus address through a bridge (R47, R55, R133), with its attributes. -/
  | posted (addr : Nat) (data : List Byte) (attr : PostedAttr)
  /-- A request to a PCIe endpoint, a bridge partner or a domain peer, which will be answered under its tag (R46, R71). -/
  | request (tag addr size : Nat) (kind : AccessKind) (data : BitVec 256)
  /-- A completion to an endpoint: Success with data, with EP where it is poisoned (R249), or Unsupported Request (R60, R99). -/
  | completion (rid : BitVec 16) (ok : Bool) (data : List Byte) (ep : Bool)
  /-- An ATS completion: grant and page size code (R98). -/
  | ats (rid : BitVec 16) (rd wr ex : Bool) (pa : Nat) (sizeCode : Nat)
  /-- A PRG response (R104). -/
  | prg (rid : BitVec 16) (prg : BitVec 9) (code : Nat)
  /-- An ATS Invalidation Request to an endpoint (R90). -/
  | invalidate (rid : BitVec 16) (pasid : BitVec 20)
  /-- A TLP with an ECRC (R41, R43). -/
  | ecrc (tlp : OutMsg)
  /-- A write or an addition that an engine makes at a domain peer (R71); the poison of the data goes with it (R249). -/
  | peer (pa : Nat) (add : Bool) (data : List Byte) (poisoned : Bool)
  /-- An answer to a domain peer: data with its poison, or a refusal (R69). -/
  | peerReply (id : Byte) (ok : Bool) (data : List Byte) (poisoned : Bool)
  /-- A configuration request below a root port (R42, R113): the offset in ECAM, and the data of a write. -/
  | config (offset : Nat) (write : Option (List Byte))
  /-- An NTB access completed (R59), or PTM time (R161), or a configuration read (R113). -/
  | reply (data : DWord)
  /-- A management reply (R33, R34). -/
  | management (request : Nat) (data : BitVec 512)
deriving DecidableEq, Repr

/-- What is wrong with the stored copy of a sector (R244, R245): an error of one bit, one that the code cannot correct, or a tag. -/
inductive StoredError where
  | single
  | uncorrectable
  | tag (t : BitVec 6)
deriving DecidableEq, Repr

/-- A sector whose stored copy has an error: which, and the L2 way that holds it, none where it lies in its memory. -/
structure Upset where
  error : StoredError
  way : Option L2Way
deriving DecidableEq, Repr

/-- The operand latch of a quarter (R203): the bundle it serves, and its operands, oldest first, with how many issues of
that bundle each still serves. A latched value is the register's own whenever it is used, so it is not kept twice. -/
structure Latch where
  slot : Nat
  lanes : BitVec 32
  entries : List (Operand × Nat)
deriving DecidableEq, Repr

/-- The bundle that issues: its core, slot and lanes, and the PC they share. -/
structure Issue where
  core : Nat
  slot : Nat
  lanes : BitVec 32
  pc : SlotAddr
deriving DecidableEq, Repr

/-- The package. -/
structure State where
  -- memory
  mem : List Host.Cell
  poisoned : SMap Bool
  upsets : SMap Upset
  releases : SMap (List ReleaseTag)
  -- hub MMIO
  hub : SMap DWord
  -- cores, crews, launches
  waves : SMap Wave
  crews : SMap Crew
  launches : SMap Launch
  cores : SMap CoreState
  gens : SMap Word
  residents : SMap Bool
  swaps : List Swap
  residentSince : SMap DWord
  -- engines
  queues : SMap (List QCmd)
  engines : SMap CopyEngine
  flips : List Flip
  thyme : SMap Thyme
  tqs : SMap TaskQueue
  requests : List PageReq
  nextRtag : BitVec 16
  failures : List Record
  tableResize : List Resize
  flushWait : Option FlushWait
  tableWaiting : List (Nat × DWord)
  resizeDone : Nat
  -- links
  ports : SMap Port
  portHeld : SMap Nat
  outstanding : List Outstanding
  nextTag : Nat
  ubnorNarrow : List Nat
  ubnorDown : List Nat
  atsHolders : List AtsGrant
  distrusted : List (BitVec 16)
  cfg : SMap Word
  heldCaptures : List HeldCapture
  captureOld : SMap CaptureOld
  -- system
  fenced : BitVec 64
  harts : SMap Hart
  aplics : SMap Aplic
  slices : SMap Slice
  power : Power
  boot : Boot
  service : Option ServiceReq
  -- time
  cycle : Nat
  busy : SMap Nat
  latches : SMap Latch
  gtime : DWord
  subNs : Nat
  slewLeft : Int
  slewAcc : Nat
  sourceSeen : DWord
  -- the model's own
  cur : Issue
  serial : Nat
  reseeds : SMap Nat
  fresh : Nat
  scrub : SMap Nat
  inputs : List Instr
  out : List OutMsg
deriving DecidableEq, Repr

/-- Package reset (R23, R5): phase 1, no partition, no launch, no wave; every hub register at the Reset of its row (an offset
that `hub` does not list reads so); memory with nothing listed; the clocks at 0. -/
def State.reset : State where
  mem := []
  poisoned := []
  upsets := []
  releases := []
  hub := []
  waves := []
  crews := []
  launches := []
  cores := []
  gens := []
  residents := []
  swaps := []
  residentSince := []
  queues := []
  engines := []
  flips := []
  thyme := []
  tqs := []
  requests := []
  nextRtag := 0
  failures := []
  tableResize := []
  flushWait := none
  tableWaiting := []
  resizeDone := 0
  ports := []
  portHeld := []
  outstanding := []
  nextTag := 0
  ubnorNarrow := []
  atsHolders := []
  distrusted := []
  cfg := []
  heldCaptures := []
  captureOld := []
  ubnorDown := []
  fenced := 0
  harts := []
  aplics := []
  slices := []
  power :=
    { powerDuty := 8, thermalDuty := [], fluxDuty := [], hbmRate := []
      readings := { power50us := 0, power100ms := 0, hbmPower := 0, clusterTemp := [], clusterFlux := [], process := [],
                    supplies := [], hbmTemp := [], hubTemp := 0 }
      control := 95 + 3200 * 2 ^ 8 + 3600 * 2 ^ 20, stepped := 0, calm := none, hbmCalm := none, thermalSteps := [] }
  boot := { pins := 0, hdm := none, header := [], headerOk := none, clustersOk := none, hbmOk := none, verified := [], measured := 0,
            safe := false, eid := 0 }
  service := none
  cycle := 0
  busy := []
  latches := []
  gtime := 0
  subNs := 0
  slewLeft := 0
  slewAcc := 0
  sourceSeen := 0
  cur := { core := 0, slot := 0, lanes := 0, pc := 0 }
  serial := 0
  reseeds := []
  scrub := []
  fresh := 0
  inputs := []
  out := []

end Sys2Proof.Machine
end

