-- ==== Sys2Proof/Machine/Base.lean ====
section
/-!
DEFINITION. Finite maps in canonical form, memory as bytes (R2), and named access to the parts of State. An absent wave,
crew or launch reads as a blank one.
-/

namespace Sys2Proof.Machine

/-- The value at key `k`, or `d` where none is listed. -/
def SMap.get {α : Type} (m : SMap α) (k : Nat) (d : α) : α :=
  match m with
  | [] => d
  | (j, a) :: t => if j = k then a else SMap.get t k d

/-- The value at key `k`, if one is listed. -/
def SMap.find {α : Type} (m : SMap α) (k : Nat) : Option α :=
  match m with
  | [] => none
  | (j, a) :: t => if j = k then some a else SMap.find t k

/-- The map without key `k`. -/
def SMap.erase {α : Type} (m : SMap α) (k : Nat) : SMap α := m.filter (fun p => p.1 != k)

/-- Puts `k` before the first greater key. -/
def SMap.insert {α : Type} (m : SMap α) (k : Nat) (v : α) : SMap α :=
  match m with
  | [] => [(k, v)]
  | (j, a) :: t => if k < j then (k, v) :: (j, a) :: t else (j, a) :: SMap.insert t k v

/-- Writes `v` at `k`; a key that holds the default `d` is not listed. -/
def SMap.set {α : Type} [DecidableEq α] (m : SMap α) (k : Nat) (v d : α) : SMap α :=
  if v = d then m.erase k else (m.erase k).insert k v

/-- Writes `v` at `k`, whatever it is. -/
def SMap.put {α : Type} (m : SMap α) (k : Nat) (v : α) : SMap α := (m.erase k).insert k v

/-- Keys strictly rising. -/
def SMap.sorted {α : Type} (m : SMap α) : Bool :=
  match m with
  | [] => true
  | (j, _) :: t => t.all (fun p => j < p.1) && SMap.sorted t

/-- What a byte of memory that nothing has written reads as (a choice of the model: the manual gives no contents). -/
def freshByte : Byte := 0

/-- Memory in canonical form: addresses strictly rising, no byte listed that an unlisted address reads as. -/
def Memory.wf (m : List Host.Cell) : Bool := SMap.sorted m && m.all (fun p => p.2 != freshByte)

/-- One byte of memory. -/
def State.byte (s : State) (a : Nat) : Byte := SMap.get s.mem a freshByte

/-- Writes one byte of memory, its poison and its release tags untouched. -/
def State.setByte (s : State) (a : Nat) (b : Byte) : State := { s with mem := SMap.set s.mem a b freshByte }

/-- `n` bytes from address `a`. -/
def State.bytes (s : State) (a n : Nat) : List Byte := (List.range n).map (fun i => s.byte (a + i))

/-- Writes bytes from address `a` up. -/
def State.setBytes (s : State) (a : Nat) (bs : List Byte) : State :=
  match bs with
  | [] => s
  | b :: t => (s.setByte a b).setBytes (a + 1) t

/-- A little-endian number of `n` bytes (R2). -/
def State.readNat (s : State) (a n : Nat) : Nat := leNat (s.bytes a n)
def State.read32 (s : State) (a : Nat) : Word := BitVec.ofNat 32 (s.readNat a 4)
def State.read64 (s : State) (a : Nat) : DWord := BitVec.ofNat 64 (s.readNat a 8)
def State.writeNat (s : State) (a n v : Nat) : State := s.setBytes a (leBytes v n)

/-- The bits [hi:lo] of a number. -/
def field (v hi lo : Nat) : Nat := (v >>> lo) % 2 ^ (hi + 1 - lo)

/-- A value with bits [hi:lo] replaced. -/
def setField (v hi lo x : Nat) : Nat :=
  v - ((field v hi lo) <<< lo) + ((x % 2 ^ (hi + 1 - lo)) <<< lo)

def CoreState.blank : CoreState :=
  { lines := [], quietRun := 0, raised := false, highAtZero := false, detections := [], relaxTo := none, windowStart := 0, testedAt := 0,
    cause := .inService, wayBack := false, iftDue := false, testRetry := 0, quarantinedAt := [], owners := [] }

/-- A thread with nothing in it: PC 0, no meeting register (R148). -/
def Thread.blank : Thread :=
  { pc := 0, mr := BitVec.allOnes 57, checked := false, returned := false, parked := false, exited := false, killed := false, block := none, wb := 0, rf := 0,
    regs := [], preds := 0, draw := 0, trapMode := false, ptrap := none, tpc := 0, tcause := 0, tval := 0, wt := 0,
    res := 0, tpred := 0, spoff := 0, ts := [], clkSample := 0, gtimeSample := 0, batch := 0, copies := [], ap := [],
    tsig := 0, fences := [], bad := [], starve := 0, issued := false, wasReady := false,
    since := 0, hold := 0 }

def KReg.blank : KReg := ⟨0, 0, 0, 0, none⟩
def Reg.zero : Reg := ⟨0, false⟩

def Wave.blank : Wave :=
  { live := false, launch := 0, crew := 0, wid := 0, threads := [], sregs := [], kregs := [], tile := 32, role := .a,
    wstat := 0, mstat := 0, setNow := 0, log := [], window := none, bundles := [], regroupDue := false, regrouped := 0, fly := [],
    pend := [], mat := [], touched := [] }

def Crew.blank : Crew :=
  { live := false, launch := 0, number := 0, resident := false, core := 0, slots := [], saved := [], spw := 0,
    bytes := [], poisoned := [], fbits := [], pages := [], slot := none, area := none, cp := 0, ckpt := none, held := [], heldTags := [],
    eligible := false, rollbacks := 0, rollbackDue := none, ckptDue := none, stopping := false, tasks := [], logged := [] }

def LaunchRec.blank : LaunchRec :=
  { entry := 0, trapv := 0, w := 16, stackr := 0, creww := 1, ncrew := 1, spw := 0, prio := 0, part := 0, prot := false,
    rbk := false, cores := false, strict := false, pasid := 0, gtab := 0, sysr := 0, argp := 0, rngkey := 0, donew := 0,
    aev0 := 0, aval0 := 0, aev1 := 0, aval1 := 0, slots := [], consts := [] }

def Launch.blank : Launch :=
  { tag := 0, record := .blank, argp := 0, state := .done, accepted := 0, ready := 0, nextCrew := 0, doneCrews := 0,
    groups := [], cps := [], thyme := none, late := none, lines := [], task := none, cancelled := false, ended := true }

def Port.blank : Port :=
  { up := false, cxl := false, dpc := false, aer := false, hotplug := false, pme := false, disabled := false, aerCount := 0
    doorbells := [], barSizes := (21, 21) }
def IntFile.blank : IntFile := { pending := [], enabled := [], delivery := 0, threshold := 0 }
def Hart.blank : Hart :=
  { inService := true, entry := none, satp := 0, vsatp := 0, hgatp := 0, sstatus := 0, vsstatus := 0, vgein := 0, stimecmp := 0, vstimecmp := 0
    reserved := none, mtip := false, files := [], fenced := false, stall := none, waits := none, result := .none }
def Aplic.blank : Aplic :=
  { config := 0, sources := [], targets := [], pending := [], enabled := [], high := [], genmsi := 0 }
def Slice.blank : Slice := { inService := true, retired := false, prof := 0, flushing := none, ways := [], corrected := [] }
def TaskQueue.blank : TaskQueue :=
  { binding := none, queued := [], head := none, gathers := [], formed := [], released := [], round := 0 }
def Thyme.blank : Thyme :=
  { start := 0, period := 0, recva := 0, maxlate := 0, rule := 0, valid := false, state := 0, next := 0, runs := 0,
    miss := 0, tag := 0, pasid := 0, instLaunch := none, held := none, slotTime := 0, spent := false }
def CopyEngine.blank : CopyEngine := { job := none, previous := none }

/-- The key of the wave in a wave slot (R185). -/
def waveKey (core slot : Nat) : Nat := 64 * core + slot
def keyCore (k : Nat) : Nat := k / 64
def keySlot (k : Nat) : Nat := k % 64

def State.wave (s : State) (k : Nat) : Wave := SMap.get s.waves k .blank
def State.setWave (s : State) (k : Nat) (w : Wave) : State := { s with waves := SMap.put s.waves k w }
def Wave.thread (w : Wave) (l : Nat) : Thread := SMap.get w.threads l .blank
def Wave.setThread (w : Wave) (l : Nat) (t : Thread) : Wave := { w with threads := SMap.put w.threads l t }
def State.thread (s : State) (k l : Nat) : Thread := (s.wave k).thread l
def State.setThread (s : State) (k l : Nat) (t : Thread) : State := s.setWave k ((s.wave k).setThread l t)
def State.modThread (s : State) (k l : Nat) (g : Thread → Thread) : State := s.setThread k l (g (s.thread k l))
def State.modWave (s : State) (k : Nat) (g : Wave → Wave) : State := s.setWave k (g (s.wave k))

def State.crew (s : State) (c : Nat) : Crew := SMap.get s.crews c .blank
def State.setCrew (s : State) (c : Nat) (x : Crew) : State := { s with crews := SMap.put s.crews c x }
def State.modCrew (s : State) (c : Nat) (g : Crew → Crew) : State := s.setCrew c (g (s.crew c))
def State.launchAt (s : State) (n : Nat) : Launch := SMap.get s.launches n .blank
def State.setLaunch (s : State) (n : Nat) (x : Launch) : State := { s with launches := SMap.put s.launches n x }
def State.modLaunch (s : State) (n : Nat) (g : Launch → Launch) : State := s.setLaunch n (g (s.launchAt n))
def State.coreAt (s : State) (c : Nat) : CoreState := SMap.get s.cores c .blank
def State.modCore (s : State) (c : Nat) (g : CoreState → CoreState) : State :=
  { s with cores := SMap.set s.cores c (g (s.coreAt c)) .blank }
def State.portAt (s : State) (p : Nat) : Port := SMap.get s.ports p .blank
def State.modPort (s : State) (p : Nat) (g : Port → Port) : State :=
  { s with ports := SMap.set s.ports p (g (s.portAt p)) .blank }
def State.hartAt (s : State) (h : Nat) : Hart := SMap.get s.harts h .blank
def State.modHart (s : State) (h : Nat) (g : Hart → Hart) : State :=
  { s with harts := SMap.set s.harts h (g (s.hartAt h)) .blank }
def State.aplicAt (s : State) (d : Nat) : Aplic := SMap.get s.aplics d .blank
def State.modAplic (s : State) (d : Nat) (g : Aplic → Aplic) : State :=
  { s with aplics := SMap.set s.aplics d (g (s.aplicAt d)) .blank }
def State.sliceAt (s : State) (n : Nat) : Slice := SMap.get s.slices n .blank
def State.modSlice (s : State) (n : Nat) (g : Slice → Slice) : State :=
  { s with slices := SMap.set s.slices n (g (s.sliceAt n)) .blank }
def State.tqAt (s : State) (q : Nat) : TaskQueue := SMap.get s.tqs q .blank
def State.modTq (s : State) (q : Nat) (g : TaskQueue → TaskQueue) : State :=
  { s with tqs := SMap.set s.tqs q (g (s.tqAt q)) .blank }
def State.thymeAt (s : State) (i : Nat) : Thyme := SMap.get s.thyme i .blank
def State.modThyme (s : State) (i : Nat) (g : Thyme → Thyme) : State :=
  { s with thyme := SMap.set s.thyme i (g (s.thymeAt i)) .blank }
def State.engineAt (s : State) (e : Nat) : CopyEngine := SMap.get s.engines e .blank
def State.modEngine (s : State) (e : Nat) (g : CopyEngine → CopyEngine) : State :=
  { s with engines := SMap.set s.engines e (g (s.engineAt e)) .blank }
def State.queueAt (s : State) (q : Nat) : List QCmd := SMap.get s.queues q []
def State.setQueue (s : State) (q : Nat) (l : List QCmd) : State := { s with queues := SMap.set s.queues q l [] }

/-- The launch of the wave in a slot, and its record. -/
def State.launchOf (s : State) (k : Nat) : Launch := s.launchAt (s.wave k).launch
def State.recOf (s : State) (k : Nat) : LaunchRec := (s.launchOf k).record

/-- Something leaves the package. -/
def State.emit (s : State) (m : OutMsg) : State := { s with out := s.out ++ [m] }

/-- A step that this step makes due, before any other. -/
def State.due (s : State) (i : Instr) : State := { s with inputs := i :: s.inputs }

/-- The lanes of a mask, ascending. -/
def lanesOf (m : BitVec 32) : List Nat := (List.range 32).filter (fun l => m.getLsbD l)
/-- The mask of a list of lanes. -/
def maskOf (ls : List Nat) : BitVec 32 := ls.foldl (fun m l => m ||| BitVec.ofNat 32 (2 ^ l)) 0

/-- Sign extension of the low `n` bits of a number. -/
def sextNat (v n : Nat) : Int :=
  let u := v % 2 ^ n
  if u < 2 ^ (n - 1) then u else (u : Int) - 2 ^ n

/-- The number of an integer modulo 2^n. -/
def wrapNat (v : Int) (n : Nat) : Nat := (v % (2 ^ n : Int)).toNat

end Sys2Proof.Machine
end

