-- ==== Sys2Proof/Machine/Hub.lean ====
section
/-!
DEFINITION. The hub MMIO registers (files 01 to 09 and 16): offsets, reset values, and which bits are RW, RW1C, a count
that any nonzero write clears, or read-only (R5, R6). A register is an aligned doubleword; State.hub lists those that
differ from their reset value.
-/

namespace Sys2Proof.Machine

/-- A hub register: its reset value, the mask of RW bits, the mask of single-bit RW1C fields, the RW1C counts as (hi, lo),
and whether only machine mode writes it (R527). -/
structure HubReg where
  reset : Nat
  rw : Nat
  w1c : Nat
  counts : List (Nat × Nat)
  machine : Bool
deriving DecidableEq, Repr

/-- The mask of bits [hi:lo]. -/
def bitsMask (hi lo : Nat) : Nat := (2 ^ (hi + 1 - lo) - 1) <<< lo

def HubReg.ro (reset : Nat) : HubReg := ⟨reset, 0, 0, [], false⟩
def HubReg.rws (reset rw : Nat) (machine : Bool) : HubReg := ⟨reset, rw, 0, [], machine⟩

namespace Off
def bootStatus : Nat := 0x0
def bootCtl : Nat := 0x8
def clusterAvail : Nat := 0x10
def pwrCtl : Nat := 0x100
def pwrStat : Nat := 0x108
def portCfg (g : Nat) : Nat := 0x1000 + 0x40 * g
def msixCapBase : Nat := 0x1800
def ubnorId : Nat := 0x2000
def ubnorRoute (p : Nat) : Nat := 0x2800 + 8 * p
def ubnorExp (w : Nat) : Nat := 0x3000 + 16 * w
def xltPdir : Nat := 0x4000
def prqCfg : Nat := 0x4100
def prqTail : Nat := 0x4108
def prqHead : Nat := 0x4110
def prqResp : Nat := 0x4118
def faultQ : Nat := 0x4200
def failQ : Nat := 0x4300
def xltDefp (p : Nat) : Nat := 0x4400 + 8 * p
def updPort (h : Nat) : Nat := 0x4800 + 0x40 * h
def tblAck : Nat := 0x4C00
def wakePort : Nat := 0x5000
def wakeStat : Nat := 0x5008
def mtimecmp (h : Nat) : Nat := 0x5100 + 8 * h
def gtimeNow : Nat := 0x5200
def gtimeRate : Nat := 0x5208
def gtimeSlew : Nat := 0x5210
def gtimeSet : Nat := 0x5218
def tsrc : Nat := 0x5300
def loamPma (i : Nat) : Nat := 0x5400 + 16 * i
def part (n : Nat) : Nat := 0x7000 + 0x40 * n
def vshadow : Nat := 0x7400
def spback (n : Nat) : Nat := 0x7800 + 0x20 * n
def thyme (i : Nat) : Nat := 0x8000 + 0x40 * i
def tq (q : Nat) : Nat := 0x9000 + 0x40 * q
def service : Nat := 0xA000
def l2rel (x : Nat) : Nat := 0xB000 + 0x20 * x
def srail (d : Nat) : Nat := 0xB800 + 8 * d
def hbmEcc (k : Nat) : Nat := 0xC000 + 0x40 * k
def errinj : Nat := 0xD000
def capture (n : Nat) : Nat := 0x10000 + 16 * n
def push (h : Nat) : Nat := 0x20000 + 0x1000 * h
def margin (n : Nat) : Nat := 0x30000 + 0x40 * n
def ntbWin (g : Nat) : Nat := 0x40000 + 0x200 * g
end Off

/-- The registers of one PCIe NTB window block (R133). -/
def ntbReg (r : Nat) : Option HubReg :=
  if r == 0 then some (.rws (21 + 21 * 256) (bitsMask 5 0 + bitsMask 13 8) false)
  else if 0x10 ≤ r && r < 0x90 then
    some (if r % 16 == 0 then .rws 0 (1 + bitsMask 56 12) false else .rws 0 (bitsMask 19 0) false)
  else if r == 0x100 || r == 0x108 then some (.rws 0 (bitsMask 51 12) false)
  else if r == 0x110 then some (.rws 0 (bitsMask 63 12) false)
  else none

/-- The registers below 0x4000 (files 01 and 02). -/
def hubLow (o : Nat) : Option HubReg :=
  if o == Off.bootStatus then some (.ro (1 + 2 ^ 17))
  else if o == Off.bootCtl then some (.rws 0 0 true)
  else if o == Off.clusterAvail then some (.ro 0)
  else if o == Off.pwrCtl then some (.rws (95 + 3200 * 2 ^ 8 + 3600 * 2 ^ 20) 0xFFFFFF7F true)
  else if o == Off.pwrStat then some ⟨0, 0, 2 ^ 14, [], false⟩
  else if 0x1000 ≤ o && o < 0x1400 && o % 0x40 == 0 then
    some ⟨5 + 6 * 2 ^ 20, 0xFFFFFF, 2 ^ 24, [], true⟩
  else if o == Off.msixCapBase then some (.rws 0 (bitsMask 63 0) false)
  else if o == Off.ubnorId then some (.rws 0 0x1FF false)
  else if 0x2800 ≤ o && o < 0x3000 then some (.rws 0 (bitsMask 23 0) false)
  else if 0x3000 ≤ o && o < 0x3100 then
    some (.rws 0 (if o % 16 == 0 then bitsMask 42 12 else bitsMask 42 12 + 7) false)
  else none

/-- The registers from 0x4000 to 0x6FFF (files 03 and 04). -/
def hubMid (o : Nat) : Option HubReg :=
  if o == Off.xltPdir then some (.rws 0 (bitsMask 5 0 + bitsMask 51 12) false)
  else if o == Off.prqCfg || o == Off.faultQ || o == Off.failQ then some (.rws 0 (bitsMask 5 0 + bitsMask 51 12) false)
  else if o == Off.prqTail || o == Off.faultQ + 8 || o == Off.failQ + 8 then some ⟨0, 0, 0, [(63, 32)], false⟩
  else if o == Off.prqHead || o == Off.faultQ + 16 || o == Off.failQ + 16 then some (.rws 0 (bitsMask 31 0) false)
  else if o == Off.prqResp || o == Off.tblAck || o == Off.wakePort then some (.ro 0)
  else if 0x4400 ≤ o && o < 0x4600 then some (.rws 0 (bitsMask 20 0) false)
  else if 0x4800 ≤ o && o < 0x4C00 && o % 0x40 < 0x20 then
    some (if o % 0x40 < 0x10 then .rws 0 (bitsMask 63 0) false else .ro 0)
  else if o == Off.wakeStat then some ⟨0, 0, 0, [(63, 32)], false⟩
  else if 0x5100 ≤ o && o < 0x5180 then some (.rws (2 ^ 64 - 1) (bitsMask 63 0) false)
  else if o == Off.gtimeNow then some (.ro 0)
  else if o == Off.gtimeRate then some (.rws 0 (bitsMask 31 0) true)
  else if o == Off.gtimeSlew || o == Off.gtimeSet then some (.rws 0 0 true)
  else if o == Off.tsrc then some (.rws (1500 * 2 ^ 16) (bitsMask 1 0 + bitsMask 31 16) false)
  else if o == Off.tsrc + 8 || o == Off.tsrc + 16 then some (.ro 0)
  else if o == Off.tsrc + 24 then some ⟨0, 0, 1, [], false⟩
  else if 0x5400 ≤ o && o < 0x5500 then
    some (if o % 16 == 0 then .rws (if o == 0x5400 then 4 + 8 else 0) (bitsMask 3 0 + bitsMask 51 12) true
          else .rws 0 (bitsMask 51 12) true)
  else none

/-- The registers from 0x7000 to 0x9FFF (files 05, 06 and 09). -/
def hubSched (o : Nat) : Option HubReg :=
  if 0x7000 ≤ o && o < 0x7400 then
    match o % 0x40 with
    | 0 => some (.rws 0 (bitsMask 63 0) true)
    | 8 => some ⟨256 * 2 ^ 24 + 0xFFFF * 2 ^ 36, bitsMask 20 0 + bitsMask 59 24, 2 ^ 21, [], true⟩
    | 0x10 => some (.ro 0)
    | 0x18 => some (.ro 0)
    | _ => none
  else if o == Off.vshadow then some (.rws 10 (bitsMask 4 0) true)
  else if 0x7800 ≤ o && o < 0x7A00 then
    match o % 0x20 with
    | 0 => some (.rws 0 (bitsMask 51 20) true)
    | 8 => some (.rws 0 (bitsMask 51 10) true)
    | 0x10 => some (.rws 0 (bitsMask 15 0) true)
    | _ => none
  else if 0x8000 ≤ o && o < 0x9000 then some (.ro 0)
  else if 0x9000 ≤ o && o < 0xA000 then
    match o % 0x40 with
    | 0 => some (.rws 0 (bitsMask 56 0) true)
    | 8 => some ⟨2 ^ 22, bitsMask 20 0 + bitsMask 25 22, 2 ^ 21, [], true⟩
    | 0x10 => some (.ro 0)
    | 0x18 => some (.ro 0)
    | 0x20 => some (.ro 0)
    | _ => none
  else none

/-- The registers from 0xA000 up (files 08, 16, 02, 04). -/
def hubHigh (o : Nat) : Option HubReg :=
  if o == Off.service then some (.rws 0 (bitsMask 2 0 + bitsMask 15 8) true)
  else if o == Off.service + 8 then some (.ro 0)
  else if o == Off.service + 16 then some (.rws 24 (bitsMask 15 0) true)
  else if 0xA020 ≤ o && o < 0xA040 then some (.ro 0)
  else if 0xB000 ≤ o && o < 0xB800 then
    match o % 0x20 with
    | 0 => some (.rws 0 (bitsMask 1 0) true)
    | 8 => some (.rws 0 (bitsMask 11 0) true)
    | 0x10 => some (.rws 0 (bitsMask 15 0) true)
    | _ => some ⟨0, 0, 0, [(31, 0), (63, 32)], true⟩
  else if 0xB800 ≤ o && o < 0xB820 then
    some (.rws ((Config.sramFuse ((o - 0xB800) / 8)).toNat * 2 ^ 8) (bitsMask 7 0) false)
  else if 0xC000 ≤ o && o < 0xC200 then
    match o % 0x40 with
    | 0 => some ⟨0, 0, 0, [(31, 0), (63, 32)], false⟩
    | 8 => some (.ro 0)
    | 0x10 => some (.rws 12 (bitsMask 7 0) false)
    | _ => none
  else if o == Off.errinj then some (.rws 0 (bitsMask 20 0) true)
  else if 0x10000 ≤ o && o < 0x20000 then
    some (if o % 16 == 0 then .rws 0 (bitsMask 51 0) true else ⟨0, bitsMask 15 0, 0, [(63, 32)], true⟩)
  else if 0x20000 ≤ o && o < 0x30000 then
    let r := o % 0x1000
    if r < 0x40 then some (.rws 0 (bitsMask 63 0) false)
    else if r == 0x40 then some (.rws 0 (bitsMask 11 0) false)
    else if r == 0x48 then some (.rws 0 (bitsMask 19 0) false)
    else if r == 0x50 || r == 0x58 then some (.ro 0)
    else none
  else if 0x30000 ≤ o && o < 0x34000 then
    match o % 0x40 with
    | 0 => some (.rws ((Config.marginFuse ((o - 0x30000) / 0x40)).toNat + 3 * 2 ^ 8 + 4 * 2 ^ 12 + 64 * 2 ^ 16 + 6 * 2 ^ 32)
                  (bitsMask 3 0 + bitsMask 36 8) true)
    | 8 => some (.ro 0)
    | 0x10 => some ⟨0, 0, 0, [(31, 0), (63, 32)], true⟩
    | 0x18 => some ⟨0, 0, 0, [(31, 16)], true⟩
    | _ => none
  else if 0x40000 ≤ o && o < 0x42000 then ntbReg (o % 0x200)
  else none

/-- The register at an aligned offset; none where the manual names no register (reads 0, writes ignored, R6). -/
def hubReg (o : Nat) : Option HubReg :=
  if o < 0x4000 then hubLow o else if o < 0x7000 then hubMid o else if o < 0xA000 then hubSched o else hubHigh o

/-- The stored value of a register. -/
def State.hubGet (s : State) (o : Nat) : Nat :=
  match SMap.find s.hub o with
  | some v => v.toNat
  | none => match hubReg o with | some r => r.reset | none => 0

/-- The hub sets a register (device side). -/
def State.hubPut (s : State) (o v : Nat) : State := { s with hub := SMap.put s.hub o (BitVec.ofNat 64 v) }

/-- The hub sets one field of a register. -/
def State.hubSetField (s : State) (o hi lo v : Nat) : State := s.hubPut o (setField (s.hubGet o) hi lo v)

/-- A field of a register. -/
def State.hubField (s : State) (o hi lo : Nat) : Nat := field (s.hubGet o) hi lo

/-- A saturating count in a field goes up by `n`. -/
def State.hubCount (s : State) (o hi lo n : Nat) : State :=
  s.hubSetField o hi lo (min (2 ^ (hi + 1 - lo) - 1) (s.hubField o hi lo + n))

/-- The mask of the bytes that a write covers. -/
def byteMask (bytes : Byte) : Nat :=
  (List.range 8).foldl (fun m i => if bytes.getLsbD i then m + 0xFF * 2 ^ (8 * i) else m) 0

/-- What a register holds after a write by field type (R5): RW bits take the data, a 1 clears an RW1C bit, and any nonzero
value clears a count. `mask` names the bits that the write covers. -/
def HubReg.written (r : HubReg) (old data mask : Nat) : Nat :=
  let rw := r.rw &&& mask
  let v := (old &&& ((2 ^ 64 - 1) ^^^ rw)) ||| (data &&& rw)
  let v := v &&& ((2 ^ 64 - 1) ^^^ (data &&& r.w1c &&& mask))
  r.counts.foldl (fun v (hi, lo) => if field (data &&& mask) hi lo != 0 then setField v hi lo 0 else v) v

end Sys2Proof.Machine
end

