-- ==== Sys2Proof/Machine/Xlate.lean ====
section
/-!
DEFINITION. Physical memory with poison (R77, R244 to R249), records of the fault queue (R130 to R132), page entries,
lookups and translation (R79 to R96), page requests (R102), and the wake of a line (R120, R122).
-/

namespace Sys2Proof.Machine

/-- The regions of the physical address map (R77). -/
inductive Region where
  | hbm | vault | hubMmio | pcie | cxl | domain | unassigned
deriving DecidableEq, Repr

/-- The region of a physical address (R77). -/
def regionOf (pa : Nat) : Region :=
  if pa < 0x8000000000 then .hbm
  else if pa < 0x8080000000 then .vault
  else if pa < 0x80000000000 then .unassigned
  else if pa < 0x80010000000 then .hubMmio
  else if pa < 0xC0000000000 then .unassigned
  else if pa < 0x100000000000 then .pcie
  else if pa < 0x8000000000000 then .cxl
  else if pa < 0x10000000000000 then .domain
  else .unassigned

/-- The word of configuration space at byte `r` of the header of root port `p` (R113). -/
def portCfgAt (p r : Nat) : Nat := (p / 4 * 2 ^ 15 + p % 4 * 2 ^ 12 + r) / 4

/-- Where decoder `i` of a CXL port stands in its configuration space. PRESUMED, notes/assumptions/68.md. -/
def decoderAt (p i : Nat) : Nat := portCfgAt p (0xE00 + 0x20 * i)

/-- HDM decoder `i` of a root port (R61), from its words: base, size, then a control word with the granularity in bits [3:0] (0 for
256 bytes, 4 for 4 KiB), log2 of the ports in [7:4], commit in [9] and the place of this port in [23:16]. -/
def State.decoder (s : State) (p i : Nat) : Decoder :=
  let w := fun (j : Nat) => (SMap.get s.cfg (decoderAt p i + j) 0).toNat
  { on := (w 4).testBit 9 && field (w 4) 7 4 ≤ 4 && (field (w 4) 3 0 == 0 || field (w 4) 3 0 == 4)
    base := w 0 + w 1 * 2 ^ 32, size := w 2 + w 3 * 2 ^ 32, ways := 2 ^ field (w 4) 7 4
    grain := if field (w 4) 3 0 = 0 then 256 else 4096, pos := field (w 4) 23 16 }

/-- The words of a decoder are written. -/
def State.setDecoder (s : State) (p i : Nat) (d : Decoder) : State :=
  let control := (if d.grain = 256 then 0 else 4) + Nat.log2 d.ways * 2 ^ 4 + d.on.toNat * 2 ^ 9 + d.pos * 2 ^ 16
  let words := [d.base, d.base / 2 ^ 32, d.size, d.size / 2 ^ 32, control]
  { s with cfg := (words.zipIdx).foldl (fun m e => SMap.set m (decoderAt p i + e.2) (BitVec.ofNat 32 e.1) 0) s.cfg }

/-- The decoder places this address at its port (R61): the granules of its range go round the ports. -/
def Decoder.holds (d : Decoder) (pa : Nat) : Bool :=
  d.on && d.base ≤ pa && pa < d.base + d.size && (pa - d.base) / d.grain % d.ways == d.pos

/-- The CXL port that carries an HDM address: trained for CXL, with a decoder that places the address there (R61, R77). -/
def State.hdmPort (s : State) (pa : Nat) : Option Nat :=
  (List.range 64).find? fun p => (s.portAt p).up && (s.portAt p).cxl && (List.range 8).any fun i => (s.decoder p i).holds pa

/-- The region of an address as the package is now: the vault of a fenced cluster is not mapped (R27), and an HDM range is where
the decoders place it; what neither maps counts as unassigned (R77, R78; notes/assumptions/68.md). -/
def State.regionAt (s : State) (pa : Nat) : Region :=
  match regionOf pa with
  | .vault => if s.fenced.getLsbD ((pa - 0x8000000000) / 2 ^ 25) then .unassigned else .vault
  | .cxl => if (s.hdmPort pa).isSome then .cxl else .unassigned
  | r => r

/-- The base of hub MMIO (R77). -/
def hubBase : Nat := 0x80000000000

/-- The memory types a region allows (R77). -/
def Region.allows : Region → Nat → Bool
  | .hbm, 0 => true
  | .vault, 1 => true
  | .hubMmio, 5 | .hubMmio, 6 | .pcie, 5 | .pcie, 6 => true
  | .cxl, 2 | .cxl, 3 | .cxl, 4 => true
  | .domain, 7 => true
  | _, _ => false

/-! ### Check values (R244 to R251) -/

/-- fold(PA) of a sector: its address in chunks of six bits (R244). -/
def foldPa (sector : Nat) : BitVec 6 := (List.range 8).foldl (fun t i => t ^^^ BitVec.ofNat 6 (sector >>> (6 * i))) 0

/-- The tag that stands with a sector (R244). The code of the check value is not written out: the manual gives none, only what reading
it finds (R245). -/
def sectorTag (sector : Nat) (poisoned : Bool) : BitVec 6 := if poisoned then foldPa sector ^^^ 0x2A else foldPa sector

/-- What a reader finds of a stored copy with an error (R245). -/
inductive Found where
  | good | corrected | poisoned | bad
deriving DecidableEq, Repr

def StoredError.found (e : StoredError) (sector : Nat) : Found :=
  match e with
  | .single => .corrected
  | .uncorrectable => .bad
  | .tag t => if t = sectorTag sector false then .good else if t = sectorTag sector true then .poisoned else .bad

/-- A sector reads as poisoned: by its tag, or because its stored copy decodes so (R245). -/
def State.isPoisoned (s : State) (sector : Nat) : Bool :=
  SMap.get s.poisoned sector false ||
    (match SMap.find s.upsets sector with
     | some u => u.error.found sector == .poisoned || u.error.found sector == .bad
     | none => false)

/-- A new check value for a sector, good or poisoned. -/
def State.setPoison (s : State) (sector : Nat) (p : Bool) : State :=
  { s with poisoned := SMap.set s.poisoned sector p false, upsets := s.upsets.erase sector }

/-- Ways of a set that hold lines: under DECTED and BOTH the check values take two of the sixteen, which the model takes to be the last
two (R250, R251; notes/assumptions/66.md). -/
def waysEnabled (prof : BitVec 2) (m : BitVec 16) : Nat :=
  ((List.range (if prof = 2 || prof = 3 then 14 else 16)).filter (fun i => !m.getLsbD i)).length

/-- The lines of some ways leave them, written back with any poison (R251). -/
def State.leaveWays (s : State) (which : L2Way → Bool) : State :=
  (s.upsets.filter fun e => (Upset.way e.2).any which).foldl (fun s e => s.setPoison e.1 (s.isPoisoned e.1)) s

/-- The disabled ways of a set change: their lines are written back; with fewer than 2 enabled the slice retires with all its
lines (R251, R253). -/
def State.setWays (s : State) (slice set : Nat) (m : BitVec 16) : State :=
  let retires := (s.sliceAt slice).retired || waysEnabled (s.sliceAt slice).prof m < 2
  (s.leaveWays fun w => w.slice.val == slice && (retires || (w.set.val == set && m.getLsbD w.way.val))).modSlice slice fun x =>
    { x with ways := SMap.set x.ways set m 0
             retired := retires
             inService := x.inService && 2 ≤ waysEnabled x.prof m }

/-- A profile under which ways are disabled (R250). -/
def Slice.wdis (x : Slice) : Bool := x.prof == 1 || x.prof == 3

/-- An error in a line of an L2 way (R251): an uncorrectable one, or the second corrected one within 24 h, disables the way. -/
def State.wayError (s : State) (w : L2Way) (corrected : Bool) : State :=
  let x := s.sliceAt w.slice
  let key := w.set.val * 16 + w.way.val
  let second := match SMap.find x.corrected key with
    | some t => s.gtime.toNat - t.toNat ≤ 24 * 3600 * 10 ^ 9
    | none => false
  let s := s.modSlice w.slice fun y => { y with corrected := if corrected then SMap.put y.corrected key s.gtime else y.corrected }
  if x.wdis && (!corrected || second) then
    s.setWays w.slice w.set (SMap.get x.ways w.set 0 ||| BitVec.ofNat 16 (2 ^ w.way.val))
  else s

/-- An error found in a sector (R245): counted for the slice of its L2 way, or for its HBM stack, which keeps the address of one that
is not corrected; other memory has no counter (R253, R254). -/
def State.errorFound (s : State) (stack sector : Nat) (way : Option L2Way) (corrected : Bool) : State :=
  let hi := if corrected then 31 else 63
  let lo := if corrected then 0 else 32
  match way with
  | some w => (s.hubCount (Off.l2rel w.slice + 0x18) hi lo 1).wayError w corrected
  | none =>
    if 8 ≤ stack then s
    else
      let s := s.hubCount (Off.hbmEcc stack) hi lo 1
      if corrected then s else s.hubPut (Off.hbmEcc stack + 8) (sector * 32)

/-- A reader decodes a sector (R245). Stack s of the HBM lies at s × 64 GiB (R77). -/
def State.decodeSector (s : State) (sector : Nat) : State :=
  match SMap.find s.upsets sector with
  | none => s
  | some u =>
    match u.error.found sector with
    | .corrected => ({ s with upsets := s.upsets.erase sector } : State).errorFound (sector / 2 ^ 31) sector u.way true
    | .bad => s.errorFound (sector / 2 ^ 31) sector u.way false
    | _ => s

/-- A merge into a sector decodes it first, and makes a new check value over the whole (R246). -/
def State.mergeSector (s : State) (sector : Nat) : State :=
  if (SMap.find s.upsets sector).isSome then (s.decodeSector sector).setPoison sector (s.isPoisoned sector) else s


/-- The 32-byte sectors that [a, a + n) touches (R244). -/
def sectorsOf (a n : Nat) : List Nat :=
  (List.range ((a + n - 1) / 32 + 1 - a / 32)).map (fun i => a / 32 + i)

/-- A reader decodes the sectors of [a, a + n) (R245). -/
def State.decoded (s : State) (a n : Nat) : State :=
  if s.upsets.isEmpty then s else (sectorsOf a n).foldl (fun s c => s.decodeSector c) s

/-- Whether a read of [a, a + n) meets poison (R245, R249). -/
def State.poisonIn (s : State) (a n : Nat) : Bool := (sectorsOf a n).any s.isPoisoned

/-- What a walk reads at [a, a + n). Poison in it reads as 0, no directory entry, table or page: the manual does not say what a walk makes
of it (notes/assumptions/66.md). -/
def State.walkNat (s : State) (a n : Nat) : Nat := if s.poisonIn a n then 0 else s.readNat a n

/-- A store ends the reservations of its line, and the stall of a WRS on it (R122). -/
def State.endReservations (s : State) (line : Nat) : State :=
  (List.range 16).foldl
    (fun s h => if (s.hartAt h).reserved = some line then s.modHart h (fun x => { x with reserved := none, stall := none }) else s) s

/-- A write to memory by any agent: bytes, the poison of a sector that the write replaces whole (R246), and the
reservations of its lines (R122). -/
def State.memWrite (s : State) (a : Nat) (bs : List Byte) : State :=
  let n := bs.length
  let s := s.setBytes a bs
  let s := (sectorsOf a n).foldl
    (fun s c => if a ≤ 32 * c && 32 * c + 32 ≤ a + n then s.setPoison c false else s.mergeSector c) s
  if n = 0 then s
  else (List.range ((a + n - 1) / 64 + 1 - a / 64)).foldl (fun s i => s.endReservations (a / 64 + i)) s

/-- The release tags of [a, a + n) after a write: those that `keep` lets continue, then the new ones (R286). -/
def State.tagBytes (s : State) (a n : Nat) (keep : ReleaseTag → Bool) (new : List ReleaseTag) : State :=
  let one := fun (m : SMap (List ReleaseTag)) (i : Nat) =>
    SMap.set m (a + i) ((SMap.get m (a + i) []).filter keep ++ new) []
  { s with releases := (List.range n).foldl one s.releases }

/-- A write by an agent that continues no release sequence of another (R286): the tags of the bytes end. -/
def State.agentWrite (s : State) (a : Nat) (bs : List Byte) : State :=
  (s.memWrite a bs).tagBytes a bs.length (fun _ => false) []

/-- The tag of a release at SY scope by the engines of the hub (256), which DV includes, or by a Loam hart, an endpoint, the
capture logic or a peer (257), which only SY includes (R282). -/
def engineTag : ReleaseTag := ⟨256, 0, 0, .sy⟩
def outsideTag : ReleaseTag := ⟨257, 0, 0, .sy⟩

/-- The queue takes no record now (R130). `q` is the base of its registers. -/
def State.queueFull (s : State) (q : Nat) : Bool :=
  let loge := s.hubField q 4 0
  let used := (s.hubField (q + 8) 31 0 + 2 ^ 32 - s.hubField (q + 16) 31 0) % 2 ^ 32
  !(6 ≤ loge && loge ≤ 16) || s.hubField q 5 5 == 0 || used == 2 ^ loge

/-- Appends a 32-byte entry to a ring and counts it in TAIL (R103, R130). -/
def State.ringAppend (s : State) (q : Nat) (bytes : List Byte) : State :=
  let tail := s.hubField (q + 8) 31 0
  let base := s.hubField q 51 12 * 4096
  let s := s.agentWrite (base + (tail % 2 ^ s.hubField q 4 0) * 32) bytes
  s.hubSetField (q + 8) 31 0 (tail + 1)

/-- The 32 bytes of a record (R132). -/
def Record.bytes (r : Record) (gtime : DWord) : List Byte :=
  leBytes (r.kind.toNat + r.sub.toNat * 2 ^ 8 + r.pasid.toNat * 2 ^ 16 + r.pv.toNat * 2 ^ 36) 8 ++
    leBytes r.addr.toNat 8 ++ leBytes r.who.toNat 8 ++ leBytes gtime.toNat 8

/-- A record for the fault queue: appended, or dropped and counted when the queue is full (R131). -/
def State.faultRecord (s : State) (r : Record) : State :=
  if s.queueFull Off.faultQ then s.hubCount (Off.faultQ + 8) 63 32 1
  else s.ringAppend Off.faultQ (r.bytes s.gtime)

/-- WHO of a device thread (R132). -/
def whoThread (core slot lane : Nat) : DWord := BitVec.ofNat 64 (core + slot * 2 ^ 8 + lane * 2 ^ 14)

def mkRecord (kind sub : Nat) (pasid : Option (BitVec 20)) (addr : Nat) (who : DWord) : Record :=
  { kind := BitVec.ofNat 8 kind, sub := BitVec.ofNat 8 sub, pasid := pasid.getD 0, pv := pasid.isSome,
    addr := BitVec.ofNat 64 addr, who := who, launch := none }

/-- log2 of the page size of a size code (R81). -/
def pageShift (z : Nat) : Nat := match z with | 0 => 12 | 1 => 16 | 2 => 21 | _ => 30

/-- A page entry (R83), as its 128 bits. -/
abbrev PageEntry := Nat

def entryV (e : PageEntry) : Bool := field e 0 0 == 1
def entryMt (e : PageEntry) : Nat := field e 12 10
def entryPpn (e : PageEntry) : Nat := field e 55 16
def entryVtag (e : PageEntry) : Nat := field e 108 64

/-- [lo, hi) meets the vault shadow, the top MIB of every vault (R156). -/
def State.inShadow (s : State) (lo hi : Nat) : Bool :=
  let mib := s.hubField Off.vshadow 4 0 * 2 ^ 20
  let size := 32 * 2 ^ 20
  (List.range 64).any fun v =>
    let top := 0x8000000000 + v * size + size
    lo < top && top - mib < hi

/-- An entry of a size-`z` table is well formed (R83). -/
def State.entryWf (s : State) (z : Nat) (e : PageEntry) : Bool :=
  let pa := entryPpn e * 4096
  let low := pageShift z - 12
  field e 15 13 == 0 && field e 63 56 == 0 && field e 127 112 == 0 &&
    (regionOf pa).allows (entryMt e) && (field e 8 8 == 0 || entryMt e == 5 || entryMt e == 6) &&
    entryPpn e % 2 ^ low == 0 && entryVtag e % 2 ^ low == 0 &&
    !(entryMt e == 1 && s.inShadow pa (pa + 2 ^ pageShift z))

/-- CUR, NEW and MPTR of a size, from the space descriptor (R81). -/
def State.descCur (s : State) (desc z : Nat) : Nat := s.walkNat (desc + 0x18 * z) 8
def State.descNew (s : State) (desc z : Nat) : Nat := s.walkNat (desc + 0x18 * z + 8) 8
def State.descMptr (s : State) (desc z : Nat) : Nat := s.walkNat (desc + 0x18 * z + 16) 8

def tableLogn (t : Nat) : Nat := field t 4 0
def tableEn (t : Nat) : Bool := field t 5 5 == 1
def tableBase (t : Nat) : Nat := field t 51 12 * 4096
def lognOk (n : Nat) : Bool := 4 ≤ n && n ≤ 24

/-- The multipliers of the hash (R84). -/
def hashMul (w : Nat) : Nat :=
  match w with
  | 0 => 0x8F3A6C51D29E04B7
  | 1 => 0xC61DE8753BA09F4D
  | _ => 0xB5E240976D1CA3F1

/-- The candidate bucket of way `w` (R84). -/
def bucketHash (w v n : Nat) : Nat := (v * hashMul w % 2 ^ 64) >>> (64 - n)

/-- The address of bucket `b` of way `w` of a table. -/
def bucketAddr (t w b : Nat) : Nat := tableBase t + (w * 2 ^ tableLogn t + b) * 64

/-- The bucket that a lookup of `va` probes in way `w` of size `z` (R85), also where it lies. -/
def State.probeBucket (s : State) (desc z w va : Nat) : Nat :=
  let cur := s.descCur desc z
  let new := s.descNew desc z
  let v := (va % 2 ^ 57) >>> pageShift z
  let i := bucketHash w v (tableLogn cur)
  if tableEn new && i < field (s.descMptr desc z) 24 0 then bucketAddr new w (bucketHash w v (tableLogn new))
  else bucketAddr cur w i

/-- The addresses of the twelve entries that a lookup of one size reads (R85). -/
def State.probeSlots (s : State) (desc z va : Nat) : List Nat :=
  (List.range 3).flatMap fun w => (List.range 4).map fun j => s.probeBucket desc z w va + 16 * j

def State.entryAt (s : State) (a : Nat) : PageEntry := s.walkNat a 16

/-- The entry at `a` names the page of `va` in the size-`z` table. -/
def entryNames (z va : Nat) (e : PageEntry) : Bool :=
  entryV e && entryVtag e == (va % 2 ^ 57 / 2 ^ pageShift z) * 2 ^ (pageShift z - 12)

/-- What a lookup finds: the hits as (size, address), smallest size first, and the record subs that it sends (R81, R83,
R85). -/
def State.lookup (s : State) (desc va : Nat) : List (Nat × Nat) × List Nat :=
  let perSize := (List.range 4).map fun z =>
    let cur := s.descCur desc z
    if !tableEn cur then ([], [])
    else if !lognOk (tableLogn cur) then ([], [1])
    else
      let named := (s.probeSlots desc z va).filter (fun a => entryNames z va (s.entryAt a))
      let good := named.filter (fun a => s.entryWf z (s.entryAt a))
      let bad := named.any (fun a => !s.entryWf z (s.entryAt a))
      (good.map (fun a => (z, a)), if bad then [2] else [])
  let hits := perSize.flatMap (·.1)
  let subs := perSize.flatMap (·.2)
  (hits, subs ++ if hits.length > 1 then [3] else [])

/-- The hits of the smallest size. -/
def smallestHits (hits : List (Nat × Nat)) : List (Nat × Nat) :=
  match hits with
  | [] => []
  | (z, _) :: _ => hits.filter (fun h => h.1 == z)

/-- The hit that a lookup takes: of the smallest size, and among several of that size any one of them, a free choice (R85). -/
def State.pickHit (s : State) (hits : List (Nat × Nat)) : Option (Nat × Nat) :=
  let same := smallestHits hits
  if same.length ≤ 1 then same.head? else same[(Config.freeWord s.fresh).toNat % same.length]?

/-- A free choice among hits has been used. -/
def State.picked (s : State) (hits : List (Nat × Nat)) : State :=
  if (smallestHits hits).length ≤ 1 then s else { s with fresh := s.fresh + 1 }

/-- The space descriptor of a PASID (R82). -/
def State.spaceOf (s : State) (pasid : Nat) : Option Nat :=
  if s.hubField Off.xltPdir 5 5 == 0 || pasid ≥ 2 ^ s.hubField Off.xltPdir 4 0 then none
  else
    let e := s.walkNat (s.hubField Off.xltPdir 51 12 * 4096 + 8 * pasid) 8
    if field e 0 0 == 1 then some (field e 51 7 * 128) else none

/-- A walk decodes what it reads (R245): the directory entry of the space where it goes by one, the tables of the descriptor, and the
entries that the lookup probes. -/
def State.walkDecoded (s : State) (pasid : Option (BitVec 20)) (desc va : Nat) : State :=
  if s.upsets.isEmpty then s
  else
    let s := match pasid with
      | some p => s.decoded (s.hubField Off.xltPdir 51 12 * 4096 + 8 * p.toNat) 8
      | none => s
    let s := s.decoded desc 0x60
    ((List.range 4).filter fun z => tableEn (s.descCur desc z) && lognOk (tableLogn (s.descCur desc z))).foldl (fun s z =>
      (s.probeSlots desc z va).foldl (fun s a => s.decoded a 16) s) s

/-- The permissions an access needs (R94). -/
structure Need where
  rd : Bool
  wr : Bool
  ex : Bool
  db : Bool
deriving DecidableEq, Repr

def Need.read : Need := ⟨true, false, false, false⟩
def Need.write : Need := ⟨false, true, false, false⟩
def Need.both : Need := ⟨true, true, false, false⟩
def Need.fetch : Need := ⟨false, false, true, false⟩
def Need.doorbell : Need := ⟨false, true, false, true⟩

/-- What becomes of a translation (R95). -/
inductive Xlat where
  | ok (pa : Nat) (mt : Nat)
  | absent
  | denied (soft : Bool)
deriving DecidableEq, Repr

/-- The records of a lookup (R132, kind 0x04). -/
def State.tableRecords (s : State) (pasid : Option (BitVec 20)) (va : Nat) (subs : List Nat) : State :=
  subs.foldl (fun s k => s.faultRecord (mkRecord 4 k pasid va 0)) s

/-- The engine sets A, and DT on a write (R92). -/
def State.markUsed (s : State) (a : Nat) (wr : Bool) : State :=
  let e := s.entryAt a
  let e' := (e ||| 0x40) ||| (if wr then 0x80 else 0)
  if e' = e then s else s.agentWrite a (leBytes e' 16)

/-- Translates `va` in the space whose descriptor is `desc`, checks the permission, and marks the entry (R85, R92, R94). -/
def State.translateIn (s : State) (desc : Nat) (pasid : Option (BitVec 20)) (va : Nat) (need : Need) : State × Xlat :=
  let s := s.walkDecoded pasid desc va
  let r := s.lookup desc va
  let s := s.tableRecords pasid va r.2
  match s.pickHit r.1 with
  | none => (s, .absent)
  | some (z, a) =>
    let s := s.picked r.1
    let e := s.entryAt a
    if (need.rd && field e 1 1 == 0) || (need.wr && field e 2 2 == 0) || (need.ex && field e 3 3 == 0) ||
        (need.db && field e 8 8 == 0) then
      (s, .denied (field e 9 9 == 1))
    else
      (s.markUsed a need.wr, .ok (entryPpn e * 4096 + va % 2 ^ pageShift z) (entryMt e))

/-- Translation in the space of a PASID; a PASID without a space, and an address past the space, has no page. -/
def State.translate (s : State) (pasid : BitVec 20) (va : Nat) (need : Need) : State × Xlat :=
  match s.spaceOf pasid.toNat with
  | none => (s, .absent)
  | some desc => if va < 2 ^ 57 then s.translateIn desc (some pasid) va need else (s, .absent)

/-- The pieces of [va, va + n) that lie in one 4 KiB page each. -/
def pagePieces (va n : Nat) : List (Nat × Nat) :=
  if n = 0 then []
  else (List.range ((va + n - 1) / 4096 + 1 - va / 4096)).map fun i =>
    let lo := max va ((va / 4096 + i) * 4096)
    let hi := min (va + n) ((va / 4096 + i + 1) * 4096)
    (lo, hi - lo)

/-- The export window that admits an inbound access of this package (R69). `bit` is 0 read, 1 write, 2 atomic. The limit names the
last page of the window, as that of LOAM_PMA does: the manual only says that it is a limit (notes/assumptions/66.md). -/
def State.exported (s : State) (offset n bit : Nat) : Bool :=
  (List.range 16).any fun w =>
    let base := s.hubField (Off.ubnorExp w) 42 12
    let limit := s.hubField (Off.ubnorExp w + 8) 42 12
    s.hubField (Off.ubnorExp w + 8) bit bit == 1 && base ≤ offset / 4096 && (offset + n - 1) / 4096 ≤ limit

/-- The place of [pa, pa + n) in this package's memory: its own domain window stands for the offset when an export window
allows the access (R66, R69). -/
def State.localPa (s : State) (pa n bit : Nat) : Option Nat :=
  match s.regionAt pa with
  | .hbm | .vault | .cxl => some pa
  | .domain =>
    let o := field pa 42 0
    if field pa 50 43 == s.hubField Off.ubnorId 7 0 && s.exported o n bit &&
        (s.regionAt o == .hbm || s.regionAt o == .vault) then some o else none
  | _ => none

/-- A physical address in the domain window of another package (R66). -/
def State.isPeer (s : State) (pa : Nat) : Bool :=
  regionOf pa == .domain && field pa 50 43 != s.hubField Off.ubnorId 7 0

/-- An access of this package to its own ID that no export window allows leaves the record of the target (R66, R69). -/
def State.ownRefused (s : State) (pa n bit : Nat) : State :=
  if regionOf pa == .domain && !s.isPeer pa && !s.exported (field pa 42 0) n bit then
    s.faultRecord (mkRecord 0x0A (bit + 1) none (field pa 42 0) (BitVec.ofNat 64 (s.hubField Off.ubnorId 7 0)))
  else s

/-- The Ubnor port that carries a domain address: one of the ports of the peer's route, the same for a block of 256 bytes (R68). -/
def State.ubnorPort (s : State) (pa : Nat) : Nat :=
  let ports := (List.range 24).filter (s.hubField (Off.ubnorRoute (field pa 50 43)) 23 0).testBit
  ports.getD (Config.ubnorHash (field pa 42 8) % ports.length) 0

/-- A peer of the domain window can be reached: the window is enabled, its route has a port, and the link of the port that carries the
address is not down (R36, R67, R68). -/
def State.peerReachable (s : State) (pa : Nat) : Bool :=
  s.hubField Off.ubnorId 8 8 == 1 && s.hubField (Off.ubnorRoute (field pa 50 43)) 23 0 != 0 &&
    (s.ubnorDown.isEmpty || !s.ubnorDown.contains (s.ubnorPort pa))

/-- A TLP as it leaves a root port: with an ECRC where the lane group generates it (R41, R43). -/
def State.tlp (s : State) (p : Nat) (m : OutMsg) : OutMsg :=
  if s.hubField (Off.portCfg (p / 4)) 18 18 == 1 then .ecrc m else m

/-- A TLP leaves a root port. -/
def State.emitTlp (s : State) (p : Nat) (m : OutMsg) : State := s.emit (s.tlp p m)

/-- A request as it leaves: a TLP at a root port, or a packet to a domain peer. -/
def State.emitRequest (s : State) (o : Outstanding) (a data : Nat) : State :=
  let m := OutMsg.request o.tag a o.access.size o.access.kind (BitVec.ofNat 256 data)
  match o.port with
  | some p => s.emitTlp p m
  | none => s.emit m

/-- All 4096 tags of a root port are in use (R41). -/
def State.tagsFull (s : State) (port : Option Nat) : Bool :=
  port.isSome && 4096 ≤ (s.outstanding.filter fun o => o.port == port && o.held.isNone).length

/-- A request leaves under its tag, and is outstanding until it is answered (R46, R70); one without a free tag waits at its port (R41). -/
def State.request (s : State) (o : Outstanding) (a data : Nat) : State :=
  let t : State := { s with nextTag := s.nextTag + 1 }
  if s.tagsFull o.port then { t with outstanding := s.outstanding ++ [{ o with held := some (a, data) }] }
  else ({ t with outstanding := s.outstanding ++ [o] } : State).emitRequest o a data

/-- An access of size `n` with no order of its own. -/
def plainAccess (kind : AccessKind) (n : Nat) : Access := { kind := kind, size := n, acq := false, rel := false, scope := .sy }

/-- The space and the address of the word that an engine asked for. -/
def Requester.space (who : Requester) : BitVec 20 × Nat := match who with | .word _ pasid va => (pasid, va) | _ => (0, 0)

/-- The request of an agent that is no device thread. -/
def State.agentRequest (s : State) (who : Requester) (port : Option Nat) (kind : AccessKind) (n pa a data : Nat) : State :=
  s.request { tag := s.nextTag, who := who, sent := s.gtime, port := port, waveKey := 2 ^ 20, lane := 0, serial := 0, skip := 0
              access := plainAccess kind n, pasid := who.space.1, va := who.space.2, pa := pa } a data

/-- What becomes of a word that an engine writes: it is written and its line is woken, its write is under way to another package or an
endpoint, or it cannot be written. -/
inductive WordOut where
  | written (line : Nat)
  | sent
  | failed
deriving DecidableEq, Repr

/-- An engine writes bytes that lie in one page, as a release at SY scope where `rel`; `who` waits for the answer of a peer. -/
def State.vaPut (s : State) (who : Requester) (pasid : BitVec 20) (va : Nat) (bs : List Byte) (rel : Bool) : State × WordOut :=
  match s.translate pasid va .write with
  | (s, .ok pa mt) =>
    match (if mt = 4 then none else s.localPa pa bs.length 1) with
    | some a => ((s.memWrite a bs).tagBytes a bs.length (fun _ => false) (if rel then [engineTag] else []), .written (a / 64))
    | none =>
      if s.isPeer pa && s.peerReachable pa then (s.agentRequest who none .store bs.length pa pa (leNat bs), .sent)
      else (if mt = 4 then s else s.ownRefused pa bs.length 1, .failed)
  | (s, _) => (s, .failed)

/-- An engine adds to a 64-bit word, such as DONEW (R149, R300): an RMW release at SY scope, so release sequences go on. -/
def State.vaAdd (s : State) (who : Requester) (pasid : BitVec 20) (va n : Nat) : State × WordOut :=
  match s.translate pasid va .both with
  | (s, .ok pa mt) =>
    if mt == 3 || mt == 4 then (s, .failed)
    else
      match s.localPa pa 8 2 with
      | some a =>
        ((s.memWrite a (leBytes ((s.readNat a 8 + n) % 2 ^ 64) 8)).tagBytes a 8 (fun _ => true) [engineTag], .written (a / 64))
      | none =>
        if s.isPeer pa && s.peerReachable pa then (s.agentRequest who none (.atom 0) 8 pa pa n, .sent)
        else (s.ownRefused pa 8 2, .failed)
  | (s, _) => (s, .failed)

/-- The page request that equals this fault, if one is unanswered (R102). -/
def PageReq.same (r : PageReq) (w : PageWait) : Bool :=
  !r.pri && r.pasid == w.pasid && r.va.toNat / 4096 == w.va.toNat / 4096 && r.rd == w.rd && r.wr == w.wr &&
    r.ex == w.ex && r.perm == w.perm

/-- A device fault asks for its page: it merges with an equal unanswered request, or waits in the hub (R95, R102). -/
def State.pageFault (s : State) (w : PageWait) (core slot : Nat) : State :=
  if s.requests.any (·.same w) then
    { s with requests := s.requests.map fun r =>
        if r.same w && r.rtag.isNone then { r with cnt := min 0xFFFF (r.cnt + 1) } else r }
  else
    { s with requests := s.requests ++
        [{ rtag := none, pri := false, pasid := w.pasid, pv := true, va := BitVec.ofNat 64 (w.va.toNat / 4096 * 4096),
           rd := w.rd, wr := w.wr, ex := w.ex, perm := w.perm, priv := false, last := true,
           who := BitVec.ofNat 16 (core + slot * 2 ^ 8), prg := 0, cnt := 0, port := 0 }] }

/-- What a fault of `va` waits for. -/
def pageWait (pasid : BitVec 20) (va : Nat) (need : Need) (perm : Bool) : PageWait :=
  { pasid := pasid, va := BitVec.ofNat 57 va, rd := need.rd, wr := need.wr, ex := need.ex, perm := perm, answer := none }

/-- A block that a wake of line `line` makes read its word again (R120). -/
def Block.woken (b : Block) (line : Nat) : Block :=
  match b with
  | .wait va pa w64 v d sc n spilled _ => if pa / 64 = line then .wait va pa w64 v d sc n spilled true else b
  | .sysc y => if y.line = some line then .sysc { y with kick := true } else b
  | _ => b

/-- The launch engine is to read again the after-event words of some launches in WAIT_EV (R151). -/
def State.rereadEvents (s : State) (which : Launch → Bool) : State :=
  (s.launches.filter fun e => e.2.state == .waitEv && !e.2.ended && which e.2).foldr (fun e s => s.due (.afterEventSatisfied e.1)) s

/-- A wake posted for a line (R120, R122): every waiter of the line reads its word again, and reservations of it end. -/
def State.wakeLine (s : State) (line : Nat) : State :=
  let s := (s.endReservations line).rereadEvents fun l => l.lines.contains line
  { s with waves := s.waves.map fun (k, w) =>
      (k, { w with threads := w.threads.map fun (l, t) =>
              (l, { t with block := t.block.map (·.woken line) }) }) }

/-- An event word of an engine, or a task status word, that cannot be written: the record of kind 0x0D (R132, R149, R180, R461). -/
def State.wordFailed (s : State) (sub : Nat) (pasid : BitVec 20) (va : Nat) : State :=
  s.faultRecord (mkRecord 0x0D sub (some pasid) va 0)

/-- What follows the write of a word by an engine: a wake of its line, or the record of its failure. -/
def State.wordEnd (r : State × WordOut) (sub : Nat) (pasid : BitVec 20) (va : Nat) (wake : Bool) : State :=
  match r.2 with
  | .written line => if wake then r.1.wakeLine line else r.1
  | .sent => r.1
  | .failed => r.1.wordFailed sub pasid va

end Sys2Proof.Machine
end

