-- ==== Sys2Proof/Machine/Ops.lean ====
section
/-!
DEFINITION. The shared operations of the core: time, fetch lines, registers and the landing of results (R204 to R208),
taking a trap and returning from one (R216 to R218, R490, R491), and the end of an issue (R187, R193).
-/

namespace Sys2Proof.Machine

/-! ### Time (R3, R118) -/

/-- The parts of a nanosecond in State.subNs: 5 * 2^32 make one, and a cycle of 0.4 ns adds 2 * (2^32 + RATE). -/
def nsUnit : Nat := 5 * 2 ^ 32

/-- One cycle: %gtime follows RATE, and every 5000 cycles the slew moves by at most 1 ns (500 ns per ms), never back; open
pre-emption-free windows count the cycle (R155). -/
def State.tick1 (s : State) : State :=
  let rate := sextNat (s.hubField Off.gtimeRate 31 0) 32
  let sub := s.subNs + (2 * (2 ^ 32 + rate)).toNat
  let acc := s.slewAcc + 1
  let up := if acc ≥ 5000 && s.slewLeft > 0 then 1 else 0
  let back := acc ≥ 5000 && s.slewLeft < 0 && sub ≥ nsUnit
  let ns := (if sub ≥ nsUnit && !back then 1 else 0) + up
  { s with
    cycle := s.cycle + 1
    waves := s.waves.map (fun e => (e.1, { e.2 with window := e.2.window.map (· + 1), setNow := 0 }))
    gtime := s.gtime + BitVec.ofNat 64 ns
    subNs := if sub ≥ nsUnit then sub - nsUnit else sub
    slewLeft := if up = 1 then s.slewLeft - 1 else if back then s.slewLeft + 1 else s.slewLeft
    slewAcc := if s.slewLeft = 0 then 0 else if up = 1 || back then 0 else acc }

/-- `n` cycles. -/
def State.tick (s : State) (n : Nat) : State :=
  match n with
  | 0 => s
  | k + 1 => (s.tick1).tick k

/-! ### Fetch lines (R350 to R354) -/

/-- The checked line at byte address `va` in a core's instruction cache. -/
def State.cachedLine (s : State) (core : Nat) (pasid : BitVec 20) (va : Nat) : Option Line :=
  ((s.coreAt core).lines.find? (fun e => e.1 == pasid && e.2.1 == va)).map (fun e => lineOf e.2.2)

/-- A line passes the checks of R353. -/
def lineOk (l : Line) : Bool := lineParityOk l && lineStructureOk l

/-- A line as memory holds it now, without effect: what the fall-through search reads of a line that is not cached. None where it
cannot be read or fails its checks. -/
def State.peekLine (s : State) (pasid : BitVec 20) (va : Nat) : Option Line :=
  match s.spaceOf pasid.toNat with
  | none => none
  | some desc =>
    match s.pickHit (s.lookup desc va).1 with
    | none => none
    | some (z, a) =>
      let e := s.entryAt a
      if field e 3 3 == 0 then none
      else (s.localPa (entryPpn e * 4096 + va % 2 ^ pageShift z) 64 0).map (fun pa => (lineOf (s.bytes pa 64), s.poisonIn pa 64)) |>.bind
        fun l => if l.2 || !lineOk l.1 then none else some l.1

/-- The line of slot `t`, cached or as memory holds it. -/
def State.lineOfSlot (s : State) (core : Nat) (pasid : BitVec 20) (t : Nat) : Option Line :=
  (s.cachedLine core pasid (lineByte t)).or (s.peekLine pasid (lineByte t))

/-- The first slot from `i` up in the line that is not literal. -/
def firstInLine (l : Line) (i : Nat) : Option Nat := (List.range 5).find? (fun j => i ≤ j && !lineLit l j)

/-- The next non-literal slot at or above slot `i` of a line, through at most `fuel` lines. At a line that cannot be read the search
stops, and goes on when the line has been fetched (R352, State.fetchThread). -/
def State.searchSlot (s : State) (core : Nat) (pasid : BitVec 20) (line i fuel : Nat) : Nat :=
  match fuel with
  | 0 => 5 * line + i
  | k + 1 =>
    match s.lineOfSlot core pasid (5 * line) with
    | none => 5 * line + i
    | some l =>
      match firstInLine l i with
      | some j => 5 * line + j
      | none => s.searchSlot core pasid (line + 1) 0 k

/-- The fall-through of slot address `t` (R352). -/
def State.fallThrough (s : State) (core : Nat) (pasid : BitVec 20) (t : SlotAddr) : SlotAddr :=
  BitVec.ofNat 57 (s.searchSlot core pasid ((t.toNat + 1) / 5) ((t.toNat + 1) % 5) 8)

/-- One past the last slot address (R355). -/
def slotLimit : Nat := 5 * 2 ^ 51

/-! ### The issuing bundle and its operands -/

/-- What an issuing instruction works on: the state, the wave in the slot, and its launch record. -/
structure Ctx where
  s : State
  core : Nat
  slot : Nat
  k : Nat
  w : Wave
  launch : Launch
  lr : LaunchRec

/-- The bundle named by State.cur. -/
def State.ctx (s : State) : Ctx :=
  let k := waveKey s.cur.core s.cur.slot
  let w := s.wave k
  let l := s.launchAt w.launch
  { s := s, core := s.cur.core, slot := s.cur.slot, k := k, w := w, launch := l, lr := l.record }

/-- The rows of a thread's register stack (R186). -/
def LaunchRec.rows (r : LaunchRec) : Nat := r.w + 16 * r.stackr

/-- The physical row of logical row `n` (R208). -/
def LaunchRec.phys (r : LaunchRec) (n : Nat) : Nat := n % r.rows

/-- A physical row as it is read: one with an uncorrectable error reads as 0 with X = 1 (R248, R249). -/
def Thread.row (t : Thread) (p : Nat) : Reg := if t.bad.contains p then ⟨0, true⟩ else SMap.get t.regs p .zero

/-- A physical row is written. -/
def Thread.setRow (t : Thread) (p : Nat) (r : Reg) : Thread :=
  { t with regs := SMap.set t.regs p r .zero, bad := t.bad.filter (· != p) }

/-- A v register of a thread, as its landed contents are (R208). -/
def Thread.v (t : Thread) (r : LaunchRec) (n : Nat) : Reg := t.row (r.phys (t.wb.toNat + n))

def Wave.sreg (w : Wave) (n : Nat) : Reg := SMap.get w.sregs n .zero

/-- p0 to p6 and p7, which reads true (R339). -/
def Thread.pred (t : Thread) (i : Nat) : Bool := i == 7 || t.preds.getLsbD i

def Thread.setPred (t : Thread) (i : Nat) (b : Bool) : Thread :=
  if i < 7 then
    { t with preds := if b then t.preds ||| BitVec.ofNat 7 (2 ^ i) else t.preds &&& ~~~ (BitVec.ofNat 7 (2 ^ i)) }
  else t

/-- A guard is true for a thread (R339). -/
def guardHolds (g : Guard) (t : Thread) : Bool := t.pred g.pred.toNat != g.neg

/-- The role code (R344). -/
def Role.code : Role → Nat
  | .a => 0 | .l => 1 | .e => 2

/-- %mstat: the sticky flags, then KSET and KSIG (R346). -/
def Wave.mstatWord (w : Wave) : Word :=
  let bit := fun (g : KReg → Bool) lo =>
    (List.range 8).foldl (fun n j => if g (SMap.get w.kregs j .blank) then n + 2 ^ (lo + j) else n) 0
  BitVec.ofNat 32 (w.mstat.toNat + bit (fun r => r.set != 0) 8 + bit (fun r => r.signed != 0) 16)

/-- The visible lane (R220, R344). -/
def LaunchRec.visible (r : LaunchRec) (lane : Nat) : Nat := if r.prot then lane / 2 else lane

def hi32 (v : DWord) : Word := v.extractLsb' 32 32
def lo32 (v : DWord) : Word := v.extractLsb' 0 32

/-- A special operand in a lane (R344). In a task wave, %crew and %wid read 0, %ncrew and %cwaves 1 (R182). -/
def Ctx.special (c : Ctx) (lane : Nat) (r : SpecialReg) : Word :=
  let t := c.w.thread lane
  let n := fun (x : Nat) => BitVec.ofNat 32 x
  match r with
  | .lane => n (c.lr.visible lane)
  | .wid => n c.w.wid
  | .tid => n (c.w.wid * 32 + c.lr.visible lane)
  | .crew => n (c.s.crew c.w.crew).number
  | .ncrew => n c.lr.ncrew
  | .cwaves => n c.lr.creww
  | .core => n c.core
  | .quarter => n (c.slot / 16)
  | .clk => n c.s.cycle
  | .clkh => hi32 t.clkSample
  | .gtime => lo32 c.s.gtime
  | .gtimeh => hi32 t.gtimeSample
  | .rndc => t.draw
  | .tilew => n c.w.tile
  | .role => n c.w.role.code
  | .batch => t.batch
  | .wstat => c.w.wstat.setWidth 32
  | .mstat => c.w.mstatWord
  | .tcause => t.tcause.setWidth 32
  | .tpc => t.tpc.setWidth 32
  | .tpch => (t.tpc.extractLsb' 32 25).setWidth 32
  | .tval => lo32 t.tval
  | .tvalh => hi32 t.tval

/-- The high word of a pair of special operands (R342): for %clk and %gtime, that of the sample which the same read
takes. -/
def Ctx.specialHigh (c : Ctx) (lane : Nat) (r : SpecialReg) : Word :=
  match r with
  | .clk => BitVec.ofNat 32 (c.s.cycle / 2 ^ 32)
  | .gtime => hi32 c.s.gtime
  | .tpc => c.special lane .tpch
  | .tval => c.special lane .tvalh
  | _ => 0

/-- Register `i` of the group that an operand names, in a lane, at issue (R341, R342, R204). -/
def Ctx.reg (c : Ctx) (lane : Nat) (o : Operand) (i : Nat) : Reg :=
  match o with
  | .v n => (c.w.thread lane).v c.lr (n.val + i)
  | .s n => c.w.sreg (n.val + i)
  | .c n => ⟨c.lr.consts.getD (n.val + i) 0, false⟩
  | .special r => ⟨if i = 0 then c.special lane r else c.specialHigh lane r, false⟩
  | .z => .zero

/-- Operand B as register `i` of its 32-bit or 64-bit operand (R348); an immediate has X = 0. -/
def Ctx.regB (c : Ctx) (lane : Nat) (b : SrcB) (i : Nat) : Reg :=
  match b with
  | .reg o => c.reg lane o i
  | .int20 v => ⟨((v.signExtend 64).extractLsb' (32 * i) 32), false⟩
  | .f20 v => ⟨v ++ 0#12, false⟩
  | .word _ w => ⟨((w.signExtend 64).extractLsb' (32 * i) 32), false⟩
  | .pair _ lo hi => ⟨if i = 0 then lo else hi, false⟩

/-- Operand B where SHR and the other unsigned uses need the plain 32-bit word. -/
def Ctx.b32 (c : Ctx) (lane : Nat) (f : Fields) : Reg := c.regB lane f.b 0
def Ctx.a32 (c : Ctx) (lane : Nat) (f : Fields) : Reg := c.reg lane f.a 0
def Ctx.c32 (c : Ctx) (lane : Nat) (f : Fields) : Reg := c.reg lane f.c 0

/-- A 64-bit operand as one value (R342). -/
def Ctx.pair (c : Ctx) (lane : Nat) (o : Operand) : DWord := (c.reg lane o 1).val ++ (c.reg lane o 0).val

/-- Where register `i` of a destination lies; none for z (R205, R208). -/
def Ctx.dst (c : Ctx) (lane : Nat) (o : Operand) (i : Nat) : Option Dst :=
  match o with
  | .v n => some (.v lane (c.lr.phys ((c.w.thread lane).wb.toNat + n.val + i)))
  | .s n => some (.s (n.val + i))
  | _ => none

/-- The writes of a destination group. -/
def Ctx.put (c : Ctx) (lane : Nat) (o : Operand) (vals : List Reg) : List (Dst × Reg) :=
  ((List.range vals.length).zip vals).filterMap (fun (i, r) => (c.dst lane o i).map (fun d => (d, r)))

/-- The write of a predicate; index 7 writes none (R358). -/
def putPred (lane i : Nat) (b : Bool) : List (Dst × Reg) :=
  if i < 7 then [(.p lane i, ⟨if b then 1 else 0, false⟩)] else []

/-- Both guards of a lane are true, as far as the instruction takes guards (R339, R340). -/
def Ctx.executes (c : Ctx) (f : Fields) (lane : Nat) : Bool :=
  guardHolds f.g0 (c.w.thread lane) && guardHolds f.g1 (c.w.thread lane)

/-- The active lanes of the bundle, and those that execute (R339). -/
def Ctx.active (c : Ctx) : List Nat := lanesOf c.s.cur.lanes
def Ctx.executing (c : Ctx) (f : Fields) : List Nat := c.active.filter (c.executes f)

/-- The primary of a lane pair in a protected launch; every lane of another launch is its own (R220). -/
def Ctx.primary (c : Ctx) (lane : Nat) : Bool := !c.lr.prot || lane % 2 == 0

/-! ### Results (R204 to R207) -/

/-- A row is written: its block of 32 rows enters the undo log (R240). -/
def Wave.touch (w : Wave) (row : Nat) : Wave :=
  { w with touched := if w.touched.contains (row / 32) then w.touched else w.touched ++ [row / 32] }

/-- A result lands in its register or predicate. -/
def Wave.land (w : Wave) (d : Dst) (r : Reg) : Wave :=
  match d with
  | .v lane row => (w.setThread lane ((w.thread lane).setRow row r)).touch row
  | .s n => { w with sregs := SMap.set w.sregs n r .zero }
  | .p lane i => w.setThread lane ((w.thread lane).setPred i (r.val != 0))

def Wave.landAll (w : Wave) (ws : List (Dst × Reg)) : Wave := ws.foldl (fun w (d, r) => w.land d r) w

/-- The cycle at which a result for `d` lands: not before an earlier one of the same destination (R205). -/
def Wave.landing (w : Wave) (d : Dst) (cycle : Nat) : Nat :=
  w.fly.foldl (fun n x => if x.dst = d then max n x.land else n) cycle

/-- Fixed-latency results leave the pipeline at `cycle` or, behind an earlier write, later (R204, R205). -/
def Wave.launchResults (w : Wave) (lanes : BitVec 32) (cycle : Nat) (ws : List (Dst × Reg)) : Wave :=
  ws.foldl (fun w (d, r) => { w with fly := w.fly ++ [{ land := w.landing d cycle, dst := d, val := r, lanes := lanes }] }) w

/-- The results that are due land, in issue order (R205). -/
def Wave.landDue (w : Wave) (cycle : Nat) : Wave :=
  let due := w.fly.filter (fun x => x.land ≤ cycle)
  { w.landAll (due.map fun x => (x.dst, x.val)) with fly := w.fly.filter (fun x => !(x.land ≤ cycle)) }

/-- Every result in flight lands (R221: before a context is saved). -/
def Wave.landEvery (w : Wave) : Wave := { w.landAll (w.fly.map fun x => (x.dst, x.val)) with fly := [] }

def State.landFixed (s : State) : State := { s with waves := s.waves.map (fun (k, w) => (k, w.landDue s.cycle)) }

/-- Results of latency `lat` of the instruction that issues in this cycle. -/
def State.writeFixed (s : State) (k lat : Nat) (ws : List (Dst × Reg)) : State :=
  s.modWave k (fun w => w.launchResults s.cur.lanes (s.cycle + lat) ws)

/-- Scoreboarded results whose values are known: they land at a VARIABLE_LATENCY_RESULT (R207). -/
def State.writeVar (s : State) (k : Nat) (ws : List (Dst × Reg)) : State :=
  if ws = [] then s
  else
    { s.modWave k (fun w => { w with pend := w.pend ++
        [{ serial := s.serial, marks := ws.map (·.1), writes := ws, waiting := 0 }] }) with serial := s.serial + 1 }

/-- A scoreboarded result, some of whose values are still to come. Answers its serial. -/
def State.pendOpen (s : State) (k : Nat) (marks : List Dst) (ws : List (Dst × Reg)) (waiting : Nat) : State × Nat :=
  ({ s.modWave k (fun w => { w with pend := w.pend ++
      [{ serial := s.serial, marks := marks, writes := ws, waiting := waiting }] }) with serial := s.serial + 1 },
   s.serial)

/-- Values for a scoreboarded result arrive from `n` of its lanes; the destinations in `free` leave the pending state
without a value. -/
def State.pendArrive (s : State) (k serial n : Nat) (ws : List (Dst × Reg)) : State :=
  s.modWave k fun w => { w with pend := w.pend.map fun p =>
    if p.serial = serial then { p with writes := p.writes ++ ws, waiting := p.waiting - n } else p }

/-- A destination that keeps its value with X = 1 (R215, R388). -/
def Wave.withX (w : Wave) (d : Dst) : Dst × Reg :=
  (d, match d with
      | .v lane row => { (w.thread lane).row row with x := true }
      | .s n => { w.sreg n with x := true }
      | .p lane i => ⟨if (w.thread lane).pred i then 1 else 0, false⟩)

/-- Destinations of `n` lanes of a scoreboarded result are refused: they leave the pending state now, and keep their values with
X = 1 (R215). -/
def State.pendRefuse (s : State) (k serial n : Nat) (ds : List Dst) : State :=
  s.modWave k fun w =>
    { w.landAll (ds.map w.withX) with pend := w.pend.map fun p =>
        if p.serial = serial then { p with marks := p.marks.filter fun d => !ds.contains d, waiting := p.waiting - n } else p }

/-- Fixed-latency results that a thread has issued and that are still in flight (R206, R490). -/
def Wave.inFlight (w : Wave) (lane : Nat) : List Fly := w.fly.filter fun x => x.lanes.getLsbD lane

/-! ### Threads that end, traps (R197, R216 to R218, R490) -/

/-- A visible lane leaves SET and SIGNED of every convergence register (R197, R220). -/
def Wave.leaveSets (w : Wave) (lane : Nat) : Wave :=
  { w with kregs := w.kregs.map fun (j, r) =>
      (j, { r with set := r.set &&& ~~~ (maskOf [lane]), signed := r.signed &&& ~~~ (maskOf [lane]) }) }

/-- The lane belongs to no bundle (R193). -/
def Wave.unbundle (w : Wave) (lane : Nat) : Wave :=
  { w with bundles := w.bundles.map (fun b => { b with lanes := b.lanes &&& ~~~ (maskOf [lane]) }) }

/-- A thread ends: it counts as exited for parking and convergence (R189, R197, R384). When it was the last of its wave,
an open pre-emption-free window closes. -/
def State.endThread (s : State) (k lane : Nat) (killed : Bool) : State :=
  s.modWave k fun w =>
    let t := w.thread lane
    let w := (w.setThread lane { t with exited := true, killed := killed || t.killed, block := none, parked := false,
                                        ptrap := none }).leaveSets ((s.recOf k).visible lane) |>.unbundle lane
    if w.threads.all (fun e => e.2.exited) then { w with window := none } else w

/-- A failure record goes to the hub's buffer, from which FAILURE_RECORD_APPEND takes it (R131). -/
def State.failureRecord (s : State) (r : Record) : State := { s with failures := s.failures ++ [r] }

/-- The task of a lane (R182). -/
def Crew.taskOf (x : Crew) (lane : Nat) : Option TaskLane := x.tasks.find? (fun t => t.lane == lane)

/-- Word `i` of a task's descriptor (R172). -/
def Task.word (t : Task) (i : Nat) : Nat := (t.body.extractLsb' (64 * i) 64).toNat

/-- The status word of a task, at the STVA of its descriptor, where it has one (R172, R180, R183). -/
def State.taskStatus (s : State) (pasid : BitVec 20) (t : Task) (status : Nat) : State :=
  let stva := field (t.word 7) 56 0
  if stva = 0 then s
  else
    State.wordEnd (if stva % 8 = 0 then s.vaPut (.word 2 pasid stva) pasid stva (leBytes status 8) true else (s, .failed)) 2 pasid
      stva true

/-- A task fails (R183): its status word, FAILED, and a failure record of kind 0x41. -/
def State.taskFail (s : State) (queue : Nat) (pasid : BitVec 20) (t : Task) (sub : Nat) (who : DWord) : State :=
  let s := s.taskStatus pasid t (3 + sub * 256)
  let s := s.hubCount (Off.tq queue + 0x18) 63 32 1
  s.failureRecord (mkRecord 0x41 sub (some pasid) t.va.toNat who)

/-- A fault of a launch that this step brings; where several threads bring one, that of the lowest lane counts (R132). -/
def State.faultDue (s : State) (launch sub : Nat) (pc : SlotAddr) (who : DWord) : State :=
  if s.inputs.any (fun i => match i with | .launchFault n _ _ _ => n == launch | _ => false) then s
  else s.due (.launchFault launch (BitVec.ofNat 8 sub) (pc.setWidth 64) who)

/-- The thread cannot take its trap: it is killed, and its launch faults, or its task fails (R182, R216, R218). -/
def State.killThread (s : State) (k lane : Nat) (launchSub taskSub : Nat) (pc : SlotAddr) : State :=
  let w := s.wave k
  let l := s.launchAt w.launch
  let who := whoThread (keyCore k) (keySlot k) (l.record.visible lane)
  match l.task with
  | some q =>
    let x := s.crew w.crew
    let s := s.endThread k lane true
    let tl := l.record.visible lane
    match x.taskOf tl with
    | some t =>
      if t.ended then s
      else
        (s.setCrew w.crew { x with tasks := x.tasks.map fun e => if e.lane == tl then { e with ended := true } else e
          }).taskFail q l.record.pasid t.task taskSub who
    | none => s
  | none =>
    (s.endThread k lane true).faultDue w.launch launchSub pc who

/-- The quarter of a wave slot, numbered over the package (R185). -/
def quarterOf (k : Nat) : Nat := 4 * keyCore k + keySlot k / 16

/-- The operand latch of the quarter of a wave is emptied (R203). -/
def State.dropLatch (s : State) (k : Nat) : State := { s with latches := SMap.erase s.latches (quarterOf k) }

/-- TAKING A TRAP (R216, R490). In trap mode it is a double fault (R218). With TRAPV = 0 the launch or task fails. The
thread enters trap mode with its cause, value, address and resume address, saves its predicates, and goes to TRAPV; where another
cause waits, that one is a double fault then. -/
def State.enterTrap (s : State) (k lane : Nat) (p : PTrap) : State :=
  let lr := s.recOf k
  let t := s.thread k lane
  let tpc := if p.later then t.pc else p.tpc
  let res := if p.later then t.pc else p.res
  if t.exited then s
  else if t.trapMode then s.killThread k lane 9 7 tpc
  else
    let s := (s.dropLatch k).modWave k fun w =>
      (w.setThread lane
        { t with
          trapMode := true, ptrap := none, parked := false, block := none
          tpc := tpc, tcause := p.cause, tval := p.tval, res := res, tpred := t.preds
          pc := lr.trapv, checked := true, returned := false, since := s.cycle }).unbundle lane
    if lr.trapv = 0 then s.killThread k lane 8 6 tpc else if p.again then s.killThread k lane 9 7 tpc else s

/-- A thread raises a trap: it enters before its next issue, once its fixed-latency results have landed (R490), at once when none is
in flight and its instruction issues now. Until then the trap waits in the thread, whose TRAP_ENTRY is due. -/
def State.raiseTrap (s : State) (k lane : Nat) (p : PTrap) : State :=
  let t := s.thread k lane
  if t.exited then s
  else if t.trapMode || (t.block.isNone && (s.wave k).inFlight lane = []) then s.enterTrap k lane p
  else s.modWave k fun w => (w.setThread lane { t with ptrap := some p, block := none, parked := false }).unbundle lane

/-- A trap of the issuing instruction itself: %tpc and the resume address are its slot. -/
def trapHere (cause : Nat) (tval : DWord) (pc : SlotAddr) : PTrap :=
  { later := false, cause := BitVec.ofNat 8 cause, tval := tval, tpc := pc, res := pc }

/-- A trap that a thread takes when it would next issue (R215, R249), by its TRAP_ENTRY: a parked or blocked thread keeps waiting with
it. Behind one that waits already it is a trap in trap mode (R218). -/
def State.trapLater (s : State) (k lane cause : Nat) (tval : DWord) : State :=
  let t := s.thread k lane
  let p : PTrap := { later := true, cause := BitVec.ofNat 8 cause, tval := tval, tpc := t.pc, res := t.pc }
  if t.exited then s
  else if t.ptrap.isSome then s.modThread k lane fun t => { t with ptrap := t.ptrap.map fun q => { q with again := true } }
  else if t.trapMode then s.enterTrap k lane p
  else s.modWave k fun w => (w.setThread lane { t with ptrap := some p }).unbundle lane

/-! ### Program counters and bundles (R187, R193) -/

/-- A thread goes to `pc`, and parks there when that is its meeting register, outside trap mode (R187, R189). -/
def Thread.goTo (t : Thread) (pc : SlotAddr) : Thread :=
  { t with pc := pc, parked := !t.trapMode && pc == t.mr, checked := false, returned := false }

/-- RETURNING FROM A TRAP (R387, R491): predicates and pc come back, trap mode ends; a window still below RF is a new
underflow, taken before the next issue. -/
def State.trapReturn (s : State) (k lane : Nat) : State :=
  let t := s.thread k lane
  let t' := { ({ t with preds := t.tpred, trapMode := false }).goTo t.res with returned := true }
  if t.wb.toNat < t.rf.toNat then
    (s.setThread k lane { t' with wt := t.wb, parked := false }).raiseTrap k lane
      { later := false, cause := 8, tval := BitVec.ofNat 64 ((t.rf.toNat - 32 * (t.wb.toNat / 32)) / 32), tpc := t.res, res := t.res }
  else s.setThread k lane t'

/-- A lane can issue: not ended, not parked, not blocked, no trap waiting (R190, R216). -/
def Thread.eligible (t : Thread) : Bool := !t.exited && !t.parked && t.block.isNone && t.ptrap.isNone

/-- The lanes of a list by the key (trap mode, PC), with the key. -/
def groupLanes (w : Wave) (ls : List Nat) : List ((Bool × SlotAddr) × List Nat) :=
  ls.foldl (fun gs l =>
    let key := ((w.thread l).trapMode, (w.thread l).pc)
    if gs.any (fun g => g.1 == key) then gs.map (fun g => if g.1 == key then (g.1, g.2 ++ [l]) else g)
    else gs ++ [(key, [l])]) []

/-- A set of lanes takes the lowest free bundle index, while the wave holds fewer than four bundles (R193). -/
def addBundle (bs : List Bundle) (ls : List Nat) : List Bundle :=
  match bs.findIdx? (fun b => b.lanes == 0) with
  | some i => bs.set i { lanes := maskOf ls, issued := true }
  | none => if bs.length < 4 then bs ++ [{ lanes := maskOf ls, issued := true }] else bs

/-- Eligible lanes that are in no bundle become bundles, those at one place together (R193). -/
def State.bundleNew (s : State) (k : Nat) (ls : List Nat) : State :=
  s.modWave k fun w =>
    let free := ls.filter fun l => (w.thread l).eligible && !w.bundles.any (fun b => b.lanes.getLsbD l)
    { w with bundles := ((groupLanes w free).map (·.2)).foldl addBundle w.bundles }

/-- The set of lanes that stays in its bundle: the largest, a tie going to the fall-through `next`, or under BRX (`next`
none) to the lowest PC (R193). -/
def keptGroup (groups : List ((Bool × SlotAddr) × List Nat)) (next : Option SlotAddr) : List Nat :=
  let better := fun (x y : (Bool × SlotAddr) × List Nat) =>
    y.2.length < x.2.length || (x.2.length == y.2.length &&
      (match next with
       | some n => x.1.2 == n && y.1.2 != n || (y.1.2 != n && x.1.2 < y.1.2)
       | none => x.1.2 < y.1.2))
  match groups with
  | [] => []
  | g :: gs => (gs.foldl (fun b x => if better x b then x else b) g).2

/-- The index of the bundle that holds some of these lanes and no other. -/
def Wave.bundleIndex (w : Wave) (lanes : BitVec 32) : Option Nat :=
  w.bundles.findIdx? (fun b => b.lanes != 0 && (b.lanes &&& ~~~ lanes) == 0)

/-- After an issue: the lanes that are still in the bundle and can issue split by PC, one set staying; the other sets, and
the lanes that have just trapped, become new bundles (R193). -/
def Wave.rebundle (w : Wave) (lanes : BitVec 32) (next : Option SlotAddr) : Wave :=
  let old := (lanesOf lanes).filter (fun l => (w.thread l).eligible)
  let idx := w.bundleIndex lanes
  let mine := match idx with | some i => (w.bundles.getD i ⟨0, false⟩).lanes | none => 0
  let groups := groupLanes w (old.filter (fun l => mine.getLsbD l))
  let left := groupLanes w (old.filter (fun l => !mine.getLsbD l))
  let keep := keptGroup groups next
  let bs := match idx with
    | some i => w.bundles.set i { lanes := maskOf keep, issued := true }
    | none => w.bundles
  { w with bundles := (((groups.filter (fun g => g.2 != keep)) ++ left).map (·.2)).foldl addBundle bs }

/-- Bookkeeping of an issue for the threads of the bundle (R192, R200, R206). -/
def Thread.issuedAt (t : Thread) (cycle : Nat) : Thread := { t with issued := true, since := cycle }

/-- S = 1 holds a thread until its fixed-latency results have landed (R206). -/
def Wave.holdLane (w : Wave) (lane : Nat) : Wave :=
  w.setThread lane { w.thread lane with
    hold := (w.inFlight lane).foldl (fun n x => max n x.land) (w.thread lane).hold }

/-- The lanes of the bundle whose operands name %clk or %gtime take their samples (R344, R392). -/
def fieldsRead (f : Fields) (r : SpecialReg) : Bool :=
  f.a == .special r || f.b.operand == .special r || f.c == .special r || f.e == .special r || f.d == .special r

def Thread.sample (t : Thread) (f : Fields) (cycle : Nat) (gtime : DWord) : Thread :=
  { t with
    clkSample := if fieldsRead f .clk then BitVec.ofNat 64 cycle else t.clkSample
    gtimeSample := if fieldsRead f .gtime then gtime else t.gtimeSample }

/-- The v operand whose value HOLD latches (R203). -/
def latchedBy (f : Fields) : Option Operand :=
  let o := match f.hold.toNat with
    | 1 => f.a
    | 2 => f.b.operand
    | 3 => f.c
    | 4 => f.e
    | _ => .z
  match o with
  | .v _ => some o
  | _ => none

/-- The operand latch after an issue of a bundle (R203): an issue of another bundle empties it, an entry serves two issues, and
three entries fit. A bundle may have lost lanes since, and `left` are those that it has after the issue. -/
def Latch.issued (x : Option Latch) (slot : Nat) (lanes left : BitVec 32) (o : Option Operand) : Latch :=
  let old := match x with
    | some h => if h.slot == slot && lanes != 0 && lanes &&& ~~~ h.lanes == 0 then h.entries else []
    | none => []
  let kept := (old.map (fun e => (e.1, e.2 - 1))).filter (fun e => e.2 != 0)
  let all := kept ++ (o.map (fun v => (v, 2))).toList
  { slot := slot, lanes := left, entries := all.drop (all.length - 3) }

/-- The core is DRAINING (R231): every instruction issues in a safe slot. -/
def State.draining (s : State) (core : Nat) : Bool := s.hubField (Off.margin core + 8) 9 8 == 1

/-- The end of an issue: samples of the lanes that performed it, the S marker, bundles, the operand latch, which an entry of a trap has
emptied (R203), and the cycles for which the quarter's port is taken, three for a safe slot (R185, R225, R231). -/
def State.finishIssue (s : State) (f : Fields) (performed : List Nat) (trapped : Bool) (next : Option SlotAddr) (cycles : Nat) : State :=
  let k := waveKey s.cur.core s.cur.slot
  let at_ := (s.wave k).bundleIndex s.cur.lanes
  let s := s.modWave k fun w =>
    let w := performed.foldl (fun w l => w.setThread l ((w.thread l).sample f s.cycle s.gtime)) w
    let w := (lanesOf s.cur.lanes).foldl (fun w l => w.setThread l ((w.thread l).issuedAt s.cycle)) w
    let w := if f.sw then (lanesOf s.cur.lanes).foldl (fun w l => w.holdLane l) w else w
    w.rebundle s.cur.lanes next
  let q := quarterOf k
  { s with busy := SMap.set s.busy q (s.cycle + if s.draining s.cur.core then 3 else cycles) 0
           latches := if trapped then s.latches.erase q
             else
               let left := match at_ with | some i => ((s.wave k).bundles.getD i ⟨0, false⟩).lanes | none => 0
               SMap.put s.latches q (.issued (SMap.find s.latches q) s.cur.slot s.cur.lanes left (latchedBy f)) }

/-- The rows that a used operand names are resident (R208, R211); only trap mode can miss. -/
def Ctx.resident (c : Ctx) (lane : Nat) (o : Operand) (count : Nat) : Bool :=
  match o with
  | .v n =>
    let t := c.w.thread lane
    t.rf.toNat ≤ t.wb.toNat + n.val && t.wb.toNat + n.val + count ≤ t.rf.toNat + c.lr.rows
  | _ => true

/-- What decoding needs of the issuing bundle. -/
def Ctx.decodeCtx (c : Ctx) (lits : List (Option Word)) : DecodeCtx :=
  { trapMode := (lanesOf c.s.cur.lanes).any (fun l => (c.w.thread l).trapMode), window := c.lr.w, prot := c.lr.prot,
    slots := c.lr.slots, lits := lits }

/-- Every v operand of the instruction is resident in the lane. -/
def Ctx.operandsResident (c : Ctx) (o : Op) (f : Fields) (lane : Nat) : Bool :=
  let rr := o.roles f.mod f.b.isImm (c.decodeCtx [])
  (!rr.d.used || c.resident lane f.d rr.d.count) && (!rr.a.used || c.resident lane f.a rr.a.count) &&
    (f.b.isImm || !rr.b.used || c.resident lane f.b.operand rr.b.count) &&
    (!rr.c.used || c.resident lane f.c rr.c.count) && (!rr.e.used || c.resident lane f.e rr.e.count)

/-- The fall-through of the issuing instruction. -/
def Ctx.next (c : Ctx) : SlotAddr := c.s.fallThrough c.core c.lr.pasid c.s.cur.pc

/-- A trap of the issuing instruction; a lockstep mismatch of an RBK launch rolls the crew back instead (R236). -/
def State.raiseFor (s : State) (c : Ctx) (lane : Nat) (p : PTrap) : State :=
  if p.cause == 0x10 && c.lr.rbk then
    s.modCrew c.w.crew
      (fun x => { x with rollbackDue := x.rollbackDue.or (some (whoThread c.core c.slot (c.lr.visible lane))) })
  else s.raiseTrap c.k lane p

/-- A lane of a pair that mismatches takes cause 0x10 (R236), in place of a trap that this instruction has given it. -/
def State.mismatch (s : State) (c : Ctx) (lane : Nat) : State :=
  let p := trapHere 0x10 0 s.cur.pc
  let old := c.w.thread lane
  let t := s.thread c.k lane
  if c.lr.rbk then s.raiseFor c lane p
  else if t.trapMode && !old.trapMode then
    s.modThread c.k lane fun t => { t with tcause := p.cause, tval := p.tval, tpc := p.tpc, res := p.res }
  else if t.ptrap.isSome && old.ptrap.isNone then s.modThread c.k lane fun t => { t with ptrap := some p }
  else s.raiseFor c lane p

/-- A primary and its shadow whose PCs differ after an instruction are a lockstep mismatch (R220, R235). -/
def State.comparePair (s : State) (c : Ctx) (lane : Nat) : State :=
  let a := s.thread c.k lane
  let b := s.thread c.k (lane + 1)
  if a.pc == b.pc && a.exited == b.exited && a.trapMode == b.trapMode && a.ptrap.isSome == b.ptrap.isSome then s
  else (s.mismatch c lane).mismatch c (lane + 1)

/-- The physical rows that an operand names in a lane. -/
def Ctx.rows (c : Ctx) (count : Nat) (o : Operand) (lane : Nat) : List Nat :=
  match o with
  | .v n => (List.range count).map fun i => c.lr.phys ((c.w.thread lane).wb.toNat + n.val + i)
  | _ => []

/-- The physical rows that an instruction reads in a lane: its source operands, the link of RET (R210), the image of WSPILL (R211).
A lane that signs reads no v register: the array reads B and D at issue (R480). -/
def Ctx.rowsRead (c : Ctx) (o : Op) (f : Fields) (lane : Nat) : List Nat :=
  let rr := o.roles f.mod f.b.isImm (c.decodeCtx [])
  let t := c.w.thread lane
  let rows := fun (r : FieldRole) (o : Operand) => if r.used && !r.dest then c.rows r.count o lane else []
  let b := match o with
    | .mma | .mmq | .mms => []
    | _ => rows rr.b f.b.operand
  let hidden := match o with
    | .ret => [c.lr.phys t.wb.toNat, c.lr.phys (t.wb.toNat + 1)]
    | .wspill => (List.range 32).map fun j => c.lr.phys (t.rf.toNat + j)
    | _ => []
  rows rr.d f.d ++ rows rr.a f.a ++ b ++ rows rr.c f.c ++ rows rr.e f.e ++ hidden

/-- A thread consumes poison (R249): its crew rolls back, or it traps before its next issue. -/
def State.consume (s : State) (k lane va : Nat) : State :=
  if (s.recOf k).rbk then
    s.modCrew (s.wave k).crew
      (fun x => { x with rollbackDue := x.rollbackDue.or (some (whoThread (keyCore k) (keySlot k) ((s.recOf k).visible lane))) })
  else s.trapLater k lane 0x11 (BitVec.ofNat 64 va)

/-- A lane reads rows with an uncorrectable error (R248, R249): each reads as 0 with X = 1, and is consumed once. That a row holds that
afterwards is the model's choice (notes/assumptions/12.md). In a protected launch the pair consumes. -/
def State.readBad (s : State) (k lane : Nat) (rows : List Nat) : State :=
  let hit := rows.filter (s.thread k lane).bad.contains
  if hit.isEmpty then s
  else
    let pair := if (s.recOf k).prot then [lane / 2 * 2, lane / 2 * 2 + 1] else [lane]
    pair.foldl (fun s l => s.consume k l 0) (s.modThread k lane fun t => hit.foldl (fun t p => t.setRow p ⟨0, true⟩) t)

/-- Lanes that read bad rows of other lanes consume their poison (R248, R249). -/
def State.consumeOthers (s : State) (c : Ctx) (ls : List Nat) (source : Nat → Nat) (o : Operand) (n : Nat) : State :=
  ls.foldl (fun s l =>
    let other := source l
    if other ≠ l && (c.rows n o other).any (c.w.thread other).bad.contains then
      (s.modThread c.k l (·.goTo c.next)).consume c.k l 0
    else s) s

/-- This instruction has given the lane a trap of its own. -/
def State.trappedHere (s : State) (c : Ctx) (lane : Nat) : Bool :=
  let t := s.thread c.k lane
  let old := c.w.thread lane
  (t.trapMode && !old.trapMode && t.tpc == s.cur.pc) || (t.ptrap.any (!·.later) && old.ptrap.isNone)

/-- THE ISSUE OF AN INSTRUCTION. Executing lanes that fail `check` trap and do nothing else; `body` performs the others;
then every lane of the bundle that has not trapped, ended, blocked or been given a PC by `body` (`jumps`) falls through. -/
def State.issue (s : State) (o : Op) (f : Fields) (check : Ctx → Nat → Option PTrap) (body : Ctx → List Nat → State → State)
    (jumps : Bool := false) (cycles : Nat := 1) : State :=
  let c := s.ctx
  let ex := if o.wholeWave then c.active else c.executing f
  let verdict := fun l =>
    if !c.operandsResident o f l then some (trapHere 8 0 s.cur.pc) else check c l
  let bad := ex.filterMap (fun l => (verdict l).map (fun p => (l, p)))
  let good := ex.filter (fun l => (verdict l).isNone)
  let next := c.next
  let s := body c good s
  let stay := fun l => bad.any (fun b => b.1 == l) || (jumps && good.contains l)
  let s := c.active.foldl (fun s l =>
    let t := s.thread c.k l
    if stay l || t.exited || t.block.isSome || t.ptrap.isSome || (t.trapMode != (c.w.thread l).trapMode) then s
    else s.setThread c.k l (t.goTo next)) s
  let s := (good.filter fun l => !(c.w.thread l).bad.isEmpty).foldl (fun s l => s.readBad c.k l (c.rowsRead o f l)) s
  let s := bad.foldl (fun s (l, p) => s.raiseFor c l p) s
  let s := if c.lr.prot then (c.active.filter (fun l => l % 2 == 0)).foldl (fun s l => s.comparePair c l) s else s
  let entered := c.active.any fun l => (s.thread c.k l).trapMode && !(c.w.thread l).trapMode
  s.finishIssue f (good.filter fun l => !s.trappedHere c l) entered (if o == .brx then none else some next) cycles

def noCheck (_ : Ctx) (_ : Nat) : Option PTrap := none

/-- The check of an action that leaves the core, with the comparison of a protected pair before it: execution, and the
words of `sig`, must agree (R235). -/
def Ctx.paired (c : Ctx) (f : Fields) (check : Ctx → Nat → Option PTrap) (sig : Ctx → Nat → List Nat) (lane : Nat) :
    Option PTrap :=
  let other := if lane % 2 = 0 then lane + 1 else lane - 1
  if !c.lr.prot then check c lane
  else
    let mine := check c lane
    let theirs := check c other
    if !((c.active.contains other) && c.executes f other) || mine != theirs || (mine.isNone && sig c lane != sig c other) then
      some (trapHere 0x10 0 c.s.cur.pc)
    else mine

/-- The issue of an action that leaves the core, compared in a protected launch; `body` acts once per visible lane. -/
def State.issuePaired (s : State) (o : Op) (f : Fields) (check : Ctx → Nat → Option PTrap) (sig : Ctx → Nat → List Nat)
    (body : Ctx → List Nat → State → State) (jumps : Bool := false) (cycles : Nat := 1) : State :=
  s.issue o f (fun c l => c.paired f check sig l) (fun c ls s => body c (ls.filter c.primary) s) jumps cycles

/-- The lanes that receive the result of a visible lane: the pair in a protected launch. -/
def LaunchRec.mirror (r : LaunchRec) (lane : Nat) : List Nat := if r.prot then [lane, lane + 1] else [lane]

/-- An instruction that only computes results of fixed latency (R204). -/
def State.alu (s : State) (o : Op) (f : Fields) (lat : Nat) (g : Ctx → Nat → List (Dst × Reg)) : State :=
  s.issue o f noCheck (fun c ls s => s.writeFixed c.k lat (ls.flatMap (g c)))

/-- An instruction that only computes results of variable latency (R207). -/
def State.aluVar (s : State) (o : Op) (f : Fields) (g : Ctx → Nat → List (Dst × Reg)) : State :=
  s.issue o f noCheck (fun c ls s => s.writeVar c.k (ls.flatMap (g c)))

/-- A sticky flag of %wstat (R345). -/
def State.setWstat (s : State) (k bit : Nat) : State :=
  s.modWave k (fun w => { w with wstat := w.wstat ||| BitVec.ofNat 5 (2 ^ bit), setNow := w.setNow ||| BitVec.ofNat 8 (2 ^ bit) })

end Sys2Proof.Machine
end

