-- ==== Sys2Proof/Machine/Operands.lean ====
section
/-!
DEFINITION. The operand forms (R341, R342, R347, R348): 32-bit operands, 64-bit pairs and groups, with the X bit that a
result takes from its sources (R314).
-/

namespace Sys2Proof.Machine

/-- An operand value of `w` bits with its X. -/
structure Opnd (w : Nat) where
  val : BitVec w
  x : Bool
deriving DecidableEq, Repr

def Reg.opnd (r : Reg) : Opnd 32 := ⟨r.val, r.x⟩

/-- Source A as a pair (R342): X is that of either register. -/
def Ctx.pairOf (c : Ctx) (lane : Nat) (o : Operand) : Opnd 64 :=
  ⟨c.pair lane o, (c.reg lane o 0).x || (c.reg lane o 1).x⟩

/-- Source B as a pair, or an immediate of 64 bits (R348). -/
def Ctx.pairB (c : Ctx) (lane : Nat) (b : SrcB) : Opnd 64 :=
  ⟨(c.regB lane b 1).val ++ (c.regB lane b 0).val, (c.regB lane b 0).x || (c.regB lane b 1).x⟩

/-- A result of one register. -/
def Ctx.put32 (c : Ctx) (lane : Nat) (o : Operand) (v : Word) (x : Bool) : List (Dst × Reg) := c.put lane o [⟨v, x⟩]

/-- A result of a pair: both registers take the X of the result. -/
def Ctx.put64 (c : Ctx) (lane : Nat) (o : Operand) (v : DWord) (x : Bool) : List (Dst × Reg) :=
  c.put lane o [⟨lo32 v, x⟩, ⟨hi32 v, x⟩]

/-- The registers of a group. -/
def Ctx.group (c : Ctx) (lane : Nat) (o : Operand) (n : Nat) : List Reg := (List.range n).map (c.reg lane o)

/-- A group as one little-endian number (R2). -/
def groupNat (rs : List Reg) : Nat := rs.foldr (fun r n => r.val.toNat + 2 ^ 32 * n) 0

/-- A number as the registers of a group, X = 0. -/
def natGroup (v n : Nat) : List Reg := (List.range n).map fun i => ⟨BitVec.ofNat 32 (v >>> (32 * i)), false⟩

/-- A bit vector read signed or unsigned. -/
def BitVec.asInt {w : Nat} (v : BitVec w) (unsigned : Bool) : Int := if unsigned then v.toNat else v.toInt

/-- MOD bit `i` of the instruction. -/
def modBit (f : Fields) (i : Nat) : Bool := f.mod.getLsbD i
def modField (f : Fields) (lo n : Nat) : Nat := modBits f.mod lo n

end Sys2Proof.Machine
end

