-- ==== Sys2Proof/Machine/Scratch.lean ====
section
/-!
DEFINITION. The scratchpad window of a crew: pages, backing slots, refill and write-back, full/empty bits, gate credits
(09_memory_hierarchy.md, R256 to R264).
-/

namespace Sys2Proof.Machine

/-- A page that nothing has touched is ZERO (R257). -/
def Page.fresh : Page := { state := .zero, writeback := false, frame := none, dirty := [], marks := false }
def Crew.page (x : Crew) (p : Nat) : Page := SMap.get x.pages p .fresh

/-- The backing slot of a crew: its data and its F bits (R258). -/
def State.slotData (s : State) (x : Crew) : Nat :=
  (s.hubField (Off.spback (s.launchAt x.launch).record.part) 51 20 + x.slot.getD 0) * 2 ^ 20
def State.slotF (s : State) (x : Crew) : Nat :=
  (s.hubField (Off.spback (s.launchAt x.launch).record.part + 8) 51 10 + x.slot.getD 0) * 1024

/-- The page's current contents lie in its backing slot: BACKED, its write-back made (R257, R259). -/
def Crew.inSlot (x : Crew) (p : Nat) : Bool := (x.page p).state == .backed && !(x.page p).writeback

/-- A byte of the window, wherever its page is. -/
def State.spByte (s : State) (c o : Nat) : Byte :=
  let x := s.crew c
  if x.inSlot (o / 4096) then s.byte (s.slotData x + o) else SMap.get x.bytes o 0

def State.spBytes (s : State) (c o n : Nat) : List Byte := (List.range n).map (fun i => s.spByte c (o + i))

/-- F of a window line (R258, R262). -/
def State.spFull (s : State) (c line : Nat) : Bool :=
  let x := s.crew c
  if x.inSlot (line / 32) then (s.byte (s.slotF x + line / 8)).getLsbD (line % 8) else SMap.get x.fbits line false

def State.setSpFull (s : State) (c line : Nat) (b : Bool) : State :=
  let x := s.crew c
  if x.inSlot (line / 32) then
    let a := s.slotF x + line / 8
    let bit := BitVec.ofNat 8 (2 ^ (line % 8))
    s.agentWrite a [if b then s.byte a ||| bit else s.byte a &&& ~~~ bit]
  else
    let y := { x with
      fbits := SMap.set x.fbits line b false
      logged := if x.ckpt.isNone || x.logged.contains line then x.logged else x.logged ++ [line] }
    s.setCrew c { y with pages := SMap.set y.pages (line / 32) { y.page (line / 32) with marks := true } .fresh }

/-- Whether a read of [o, o + n) meets poison (R248, R249). -/
def State.spPoisonIn (s : State) (c o n : Nat) : Bool :=
  let x := s.crew c
  if x.inSlot (o / 4096) then s.poisonIn (s.slotData x + o) n
  else (sectorsOf o n).any (fun k => SMap.get x.poisoned k false)

/-- The map without the keys in [lo, hi). -/
def SMap.without {α : Type} (m : SMap α) (lo hi : Nat) : SMap α := m.filter (fun p => !(lo ≤ p.1 && p.1 < hi))

def Crew.setPage (x : Crew) (p : Nat) (g : Page) : Crew := { x with pages := SMap.set x.pages p g .fresh }

/-- The key of a scratchpad byte among the release tags (R276: each byte is a location). -/
def spKey (c o : Nat) : Nat := 2 ^ 60 + c * 2 ^ 21 + o

/-- A page that lies in its slot alone. -/
def Page.stored : Page := { state := .backed, writeback := false, frame := none, dirty := [], marks := false }

/-- A page on a frame of a core, with the lines that count as changed. -/
def Page.onFrame (core : Nat) (dirty : List Nat) (marks : Bool) : Page :=
  { state := .pinned, writeback := false, frame := some core, dirty := dirty, marks := marks }

/-- A page that its slot and an untaken frame of a core hold alike. -/
def Page.kept (core : Option Nat) : Page := { Page.stored with frame := core }

/-- The released frame of a page is written to its slot: the lines that have changed with their poison, and the F bits where one has
(R259). The frame keeps its contents until it is taken. -/
def State.writeback (s : State) (c p : Nat) : State :=
  let x := s.crew c
  let g := x.page p
  if g.state == .backed && g.writeback then
    let d := s.slotData x + 4096 * p
    let fs := (List.range 4).map fun i =>
      BitVec.ofNat 8 ((List.range 8).foldl (fun n j => if s.spFull c (32 * p + 8 * i + j) then n + 2 ^ j else n) 0)
    let line := fun (s : State) (l : Nat) =>
      let s := s.agentWrite (d + 128 * l) ((List.range 128).map fun i => SMap.get x.bytes (4096 * p + 128 * l + i) 0)
      (List.range 4).foldl (fun s i => s.setPoison (d / 32 + 4 * l + i) (SMap.get x.poisoned (128 * p + 4 * l + i) false)) s
    let s := g.dirty.foldl line s
    let s := if g.marks then s.agentWrite (s.slotF x + 4 * p) fs else s
    s.setCrew c (x.setPage p (.kept g.frame))
  else s

/-- The frame of a page that its slot holds is taken, or is not to be used again (R259). -/
def State.dropFrame (s : State) (c p : Nat) : State :=
  let x := s.crew c
  if x.inSlot p then
    s.setCrew c { x.setPage p .stored with
      bytes := SMap.without x.bytes (4096 * p) (4096 * p + 4096)
      poisoned := SMap.without x.poisoned (128 * p) (128 * p + 128)
      fbits := SMap.without x.fbits (32 * p) (32 * p + 32) }
  else s

/-- The frames of a core that pages hold or have left untaken, as crew and page. -/
def State.framesHeld (s : State) (core : Nat) : List (Nat × Nat) :=
  s.crews.flatMap fun e =>
    if Crew.live e.2 then ((Crew.pages e.2).filter fun p => Page.frame p.2 == some core).map fun p => (e.1, p.1) else []

/-- A frame of the core is made free where none of its 256 is (R259): an untaken one whose write-back is complete is taken, else the
first write-back is waited for. Which one is taken is open (notes/assumptions/54.md). -/
def State.takeFrame (s : State) (core : Nat) : State :=
  let fs := s.framesHeld core
  if fs.length < 256 then s
  else
    match fs.find? fun f => (s.crew f.1).inSlot f.2 with
    | some f => s.dropFrame f.1 f.2
    | none =>
      match fs.find? fun f => ((s.crew f.1).page f.2).state == .backed with
      | some f => (s.writeback f.1 f.2).dropFrame f.1 f.2
      | none => s

/-- A page takes a frame and is refilled from its slot (R260). -/
def State.refill (s : State) (c p : Nat) : State :=
  let x := s.crew c
  let bytes := (List.range 4096).foldl (fun m i => SMap.set m (4096 * p + i) (s.spByte c (4096 * p + i)) 0) x.bytes
  let fs := (List.range 32).foldl (fun m j => SMap.set m (32 * p + j) (s.spFull c (32 * p + j)) false) x.fbits
  let ps := (List.range 128).foldl
    (fun m k => SMap.set m (128 * p + k) (s.isPoisoned (s.slotData x / 32 + 128 * p + k)) false) x.poisoned
  (s.decoded (s.slotData x + 4096 * p) 4096).setCrew c
    { x.setPage p (.onFrame x.core [] false) with bytes := bytes, fbits := fs, poisoned := ps }

/-- A page takes a frame: with zeros, every line counting as changed; or, on the core where its frame is still untaken, that frame
without a refill, a pending write-back being dropped; or another one, refilled after the write-back (R257, R259, R260). -/
def State.pin (s : State) (c p : Nat) : State :=
  let x := s.crew c
  let g := x.page p
  match g.state with
  | .pinned => s
  | .zero =>
    let s := s.takeFrame x.core
    s.setCrew c ((s.crew c).setPage p (.onFrame x.core (List.range 32) true))
  | .backed =>
    if g.frame == some x.core then s.setCrew c (x.setPage p (.onFrame x.core g.dirty g.marks))
    else (((s.writeback c p).dropFrame c p).takeFrame x.core).refill c p

/-- A copy write or a credit is about to reach a page (R257, R261): a ZERO page of a resident crew is pinned, one of
another crew gets zeros in its slot, and a pending write-back is made; a frame that is untaken is not used again (R259). -/
def State.agentReach (s : State) (c p : Nat) : State :=
  let x := s.crew c
  match (x.page p).state with
  | .pinned => s
  | .zero =>
    if x.resident then s.pin c p
    else
      (((s.agentWrite (s.slotData x + 4096 * p) (List.replicate 4096 0)).agentWrite (s.slotF x + 4 * p)
        (List.replicate 4 0)).setCrew c (x.setPage p .stored))
  | .backed => (s.writeback c p).dropFrame c p

/-- A copy is about to read a page: an access, which pins a ZERO page of a resident crew (R257). -/
def State.readReach (s : State) (c p : Nat) : State :=
  let x := s.crew c
  if x.resident && (x.page p).state == .zero then s.pin c p else s

/-- Every page that the crew pins becomes BACKED, its frame to be written back (R257). -/
def Crew.unpin (x : Crew) : Crew :=
  { x with pages := x.pages.map fun (p, g) => (p, if g.state == .pinned then { g with state := .backed, writeback := true } else g) }

/-- The window lines in [o, o + n) have changed: they are to be written back (R259), and the log of an interval holds them (R240). -/
def Crew.changed (x : Crew) (o n : Nat) : Crew :=
  let ls := (List.range ((o + n - 1) / 128 + 1 - o / 128)).map fun i => o / 128 + i
  let x := ls.foldl (fun x l =>
    let g := x.page (l / 32)
    if g.dirty.contains (l % 32) then x else x.setPage (l / 32) { g with dirty := g.dirty ++ [l % 32] }) x
  if x.ckpt.isNone then x else { x with logged := x.logged ++ ls.filter fun l => !x.logged.contains l }

/-- Bytes go into the window where its page is; a whole sector replaces its poison (R246). -/
def State.spPut (s : State) (c o : Nat) (bs : List Byte) : State :=
  let x := s.crew c
  if x.inSlot (o / 4096) then s.agentWrite (s.slotData x + o) bs
  else
    let n := bs.length
    let bytes := ((List.range n).zip bs).foldl (fun m (i, b) => SMap.set m (o + i) b 0) x.bytes
    let ps := (sectorsOf o n).foldl
      (fun m k => if o ≤ 32 * k && 32 * k + 32 ≤ o + n then SMap.set m k false false else m) x.poisoned
    s.setCrew c (Crew.changed { x with bytes := bytes, poisoned := ps } o n)

def State.spSetPoison (s : State) (c sector : Nat) (b : Bool) : State :=
  let x := s.crew c
  if x.inSlot (sector / 128) then s.setPoison (s.slotData x / 32 + sector) b
  else s.setCrew c (Crew.changed { x with poisoned := SMap.set x.poisoned sector b false } (32 * sector) 32)

/-- A thread's write in one page. -/
def State.spStore (s : State) (c o : Nat) (bs : List Byte) : State := (s.pin c (o / 4096)).spPut c o bs

/-- A copy engine's write in one page (R261); it continues no release sequence (R286). -/
def State.spAgentStore (s : State) (c o : Nat) (bs : List Byte) : State :=
  ((s.agentReach c (o / 4096)).spPut c o bs).tagBytes (spKey c o) bs.length (fun _ => false) []

def State.spNat (s : State) (c o n : Nat) : Nat := leNat (s.spBytes c o n)

/-- A credit of `m` bytes on the gate line at `o`, its page reached already (R264). -/
def State.credit (s : State) (c o m : Nat) : State :=
  let old := s.spNat c (o + 4) 4
  let exp := s.spNat c o 4
  let arr := (old + m) % 2 ^ 32
  let s := s.spPut c (o + 4) (leBytes arr 4)
  if old < exp && exp ≤ arr then s.setSpFull c (o / 128) true else s

/-- Bytes of the window. -/
def LaunchRec.window (r : LaunchRec) : Nat := r.spw * 4096

/-- The offset of a scratchpad or gate lane (R436). -/
def Ctx.spOffset (c : Ctx) (lane : Nat) (f : Fields) : Nat := ((c.a32 lane f).val + (c.b32 lane f).val).toNat

/-- The checks of a scratchpad access of `n` bytes, in the order of R256. -/
def Ctx.spCheck (c : Ctx) (o n : Nat) : Option PTrap :=
  if o + n > c.lr.window then some (trapHere 0x0C (BitVec.ofNat 64 o) c.s.cur.pc)
  else if o % n ≠ 0 then some (trapHere 0x0A (BitVec.ofNat 64 o) c.s.cur.pc)
  else none

end Sys2Proof.Machine
end

