-- ==== Sys2Proof/Machine/Mmio.lean ====
section
/-!
DEFINITION. What an address of hub MMIO reads (R527, with the fields that other state supplies), the interrupt files (R114),
configuration space (R113), and the way from a PCIe address to a root port (R39, R46, R58, R133).
-/

namespace Sys2Proof.Machine

/-- The enable bit of a partition (R134). -/
def State.partEn (s : State) (p : Nat) : Bool := s.hubField (Off.part p + 8) 20 20 == 1
def State.partClusters (s : State) (p : Nat) : Nat := s.hubGet (Off.part p)
/-- CLUSTERS AND CLUSTER_AVAIL (R134, R136). -/
def State.partActive (s : State) (p : Nat) : Nat := s.partClusters p &&& s.hubGet Off.clusterAvail
def State.resident (s : State) (p : Nat) : Bool := SMap.get s.residents p false

/-- The partition is one of a swap in progress. -/
def State.swapping (s : State) (p : Nat) : Bool := s.swaps.any fun v => v.fromPart == p || v.toPart == p

/-- PART_CFG.STATE (R134). -/
def State.partState (s : State) (p : Nat) : Nat :=
  if !s.partEn p then 0
  else if s.swaps.any (fun w => w.toPart == p || (w.fromPart == p && !w.saved)) then 3
  else if s.resident p then 1 else 2

/-- The launches of a partition that are accepted and not yet admitted (R134). A formed task wave is no launch. -/
def State.waitingLaunches (s : State) (p : Nat) : Nat :=
  (s.launches.filter fun e => e.2.record.part == p && !e.2.ended && e.2.task.isNone && (e.2.state == .waitEv || e.2.state == .ready)).length

def State.residentCrews (s : State) (p : Nat) : Nat :=
  (s.crews.filter fun e => e.2.live && e.2.resident && (s.launchAt e.2.launch).record.part == p).length

/-- The lines of the wake table that are held: those of the waiters which found a place (R119, R121), and those of the launch engine
for the words of launches in WAIT_EV (R151). -/
def State.wakeLines (s : State) : List Nat :=
  ((s.launches.flatMap fun e => if e.2.state == .waitEv && !e.2.ended then e.2.lines else []) ++ s.waves.flatMap fun e => e.2.threads.filterMap fun t =>
    match t.2.block with
    | some (.wait _ pa _ _ _ _ _ false _) => some (pa / 64)
    | some (.sysc y) => if y.spilled then none else y.line
    | _ => none).eraseDups

/-- A core is in service: IN_SERVICE, in a cluster of CLUSTER_AVAIL (R255). -/
def State.coreInService (s : State) (n : Nat) : Bool :=
  s.hubField (Off.margin n + 8) 9 8 == 0 && (s.hubGet Off.clusterAvail).testBit (n / 4)

def Thyme.read (e : Thyme) (r : Nat) : Nat :=
  match r with
  | 0x00 => e.start.toNat
  | 0x08 => e.period.toNat
  | 0x10 => e.recva.toNat
  | 0x18 => e.maxlate.toNat + e.rule.toNat * 2 ^ 32 + e.valid.toNat * 2 ^ 34 + e.state.toNat * 2 ^ 35
  | 0x20 => e.next.toNat
  | 0x28 => e.runs.toNat + e.miss.toNat * 2 ^ 32
  | 0x30 => e.tag.toNat
  | 0x38 => e.pasid.toNat
  | _ => 0

/-- Quarantines of a core in the last 24 hours of %gtime (R230). -/
def State.quarantines (s : State) (core : Nat) : Nat :=
  ((s.coreAt core).quarantinedAt.filter fun t => s.gtime.toNat - t.toNat ≤ 24 * 3600 * 10 ^ 9).length

/-- An aligned doubleword of the registers: what is stored, with the read-only fields that other state supplies. -/
def State.hubRead (s : State) (o : Nat) : Nat :=
  let v := s.hubGet o
  if o == Off.gtimeNow then s.gtime.toNat
  else if 0x1000 ≤ o && o < 0x1400 && o % 0x40 == 0 then
    match SMap.find s.portHeld ((o - 0x1000) / 0x40) with
    | some held => held + field v 24 24 * 2 ^ 24
    | none => v
  else if o == Off.wakeStat then setField v 13 0 (min 8192 s.wakeLines.length)
  else if o == Off.errinj then setField v 39 32 s.flips.length
  else if 0x7000 ≤ o && o < 0x7400 && o % 0x40 == 0x10 then
    let p := (o - 0x7000) / 0x40
    s.partState p + min 0xFFFF (s.waitingLaunches p) * 2 ^ 16 + s.residentCrews p * 2 ^ 32
  else if 0x7000 ≤ o && o < 0x7400 && o % 0x40 == 0x18 then s.partActive ((o - 0x7000) / 0x40)
  else if 0x7800 ≤ o && o < 0x7A00 && o % 0x20 == 0x10 then
    let p := (o - 0x7800) / 0x20
    setField v 31 16 (s.crews.filter fun e => e.2.live && e.2.slot.isSome &&
      (s.launchAt e.2.launch).record.part == p).length
  else if 0x8000 ≤ o && o < 0x9000 then (s.thymeAt ((o - 0x8000) / 0x40)).read (o % 0x40)
  else if 0x9000 ≤ o && o < 0xA000 && o % 0x40 == 0x10 then
    let q := s.tqAt ((o - 0x9000) / 0x40)
    min 1024 ((s.queueAt (0x100 + (o - 0x9000) / 0x40)).length + q.queued.length) + q.gathers.length * 2 ^ 11
  else if 0x30000 ≤ o && o < 0x34000 && o % 0x40 == 0x18 then
    setField v 7 0 (min 255 (s.quarantines ((o - 0x30000) / 0x40)))
  else if 0xB000 ≤ o && o < 0xB800 && o % 0x20 == 0 then setField v 2 2 (s.sliceAt ((o - 0xB000) / 0x20)).retired.toNat
  else if 0xB000 ≤ o && o < 0xB800 && o % 0x20 == 0x10 then
    (SMap.get (s.sliceAt ((o - 0xB000) / 0x20)).ways (s.hubField (o - 8) 11 0) 0).toNat
  else if o == Off.service + 8 then setField v 0 0 s.service.isSome.toNat
  else if 0xA020 ≤ o && o < 0xA040 then
    (List.range 64).foldl (fun n i => if s.coreInService ((o - 0xA020) * 8 + i) then n + 2 ^ i else n) 0
  else v

/-- The interrupt file whose page holds offset `o`: hart, file, and offset in the page (R114). -/
def imsicAt (o : Nat) : Option (Nat × Nat × Nat) :=
  if 0x100000 ≤ o && o < 0x110000 then some ((o - 0x100000) / 0x1000, 0, o % 0x1000)
  else if 0x200000 ≤ o && o < 0x280000 then
    some ((o - 0x200000) / 0x8000, 1 + (o - 0x200000) % 0x8000 / 0x1000, o % 0x1000)
  else none

/-- An interrupt file of a hart. -/
def Hart.file (h : Hart) (f : Nat) : IntFile := SMap.get h.files f .blank
def State.modFile (s : State) (hart f : Nat) (g : IntFile → IntFile) : State :=
  s.modHart hart fun h => { h with files := SMap.set h.files f (g (h.file f)) .blank }

/-- An identity is made pending in a file (R114). -/
def State.interrupt (s : State) (hart file identity : Nat) : State :=
  if 1 ≤ identity && identity ≤ 2047 then
    s.modFile hart file fun x => { x with pending := x.pending.filter (· != identity) ++ [identity] }
  else s

/-- A number with its `n` bytes in the other order. -/
def swapBytes (v n : Nat) : Nat := leNat (leBytes v n).reverse

/-- A write to the page of an interrupt file, by any agent (R114, R527): an aligned 4-byte write of seteipnum_le, or of
seteipnum_be at offset 4 (PRESUMED from the AIA, notes/assumptions/57.md), makes the identity pending; any other is ignored. -/
def State.imsicWrite (s : State) (o n data : Nat) : State :=
  match imsicAt o with
  | some (h, f, 0) => if n == 4 then s.interrupt h f data else s
  | some (h, f, 4) => if n == 4 then s.interrupt h f (swapBytes data 4) else s
  | _ => s

/-- The byte offset of ECAM in hub MMIO (R113). -/
def ecamBase : Nat := 0x8000000

/-- The lane group and sub-port that the applied layout gives a function of bus 0 (R39, R113): widths in PORT_CFG. -/
def State.subPortPresent (s : State) (p : Nat) : Bool :=
  let w := 4 * (p % 4)
  s.hubField (Off.portCfg (p / 4)) (w + 3) w != 0

/-- The root port that a configuration offset names, if it names one on bus 0 (R113). -/
def cfgPort (o : Nat) : Option Nat :=
  if o / 2 ^ 20 = 0 && o / 2 ^ 15 % 32 < 16 && o / 2 ^ 12 % 8 < 4 then some (4 * (o / 2 ^ 15 % 32) + o / 2 ^ 12 % 8) else none

/-- The root port behind which a bus lies: its secondary and subordinate bus numbers contain it, and its link is up (R113; the bus
number register is PRESUMED, notes/assumptions/9.md). -/
def State.busPort (s : State) (bus : Nat) : Option Nat :=
  (List.range 64).find? fun p =>
    let w := (SMap.get s.cfg (portCfgAt p 0x18) 0).toNat
    s.subPortPresent p && (s.portAt p).up && 1 ≤ field w 15 8 && field w 15 8 ≤ bus && bus ≤ field w 23 16

/-- The status and control bits of a root port that its state supplies to a word of its capabilities: Link Disable, Hot-Plug, PME,
AER and DPC status. The offsets are PRESUMED, notes/assumptions/9.md. -/
def Port.statusBits (p : Port) (r : Nat) : Nat :=
  match r with
  | 0x50 => p.disabled.toNat * 2 ^ 4
  | 0x58 => p.hotplug.toNat * 2 ^ 24
  | 0x60 => p.pme.toNat * 2 ^ 16
  | 0x130 => p.aer.toNat
  | 0x148 => p.dpc.toNat
  | _ => 0

/-- A 32-bit word of the configuration space of bus 0; all ones for an absent function (R113). -/
def State.cfgWord (s : State) (o : Nat) : Nat :=
  match cfgPort o with
  | some p =>
    if s.subPortPresent p then (SMap.get s.cfg (o / 4) 0).toNat ||| (s.portAt p).statusBits (o % 4096 / 4 * 4) else 2 ^ 32 - 1
  | none => 2 ^ 32 - 1

/-- The APLIC domain (0 is M, 1 is S) and the offset in it of an offset in hub MMIO (R115). -/
def aplicPlace (o : Nat) : Option (Nat × Nat) :=
  if 0x300000 ≤ o && o < 0x304000 then some (0, o - 0x300000)
  else if 0x340000 ≤ o && o < 0x344000 then some (1, o - 0x340000)
  else none

/-- Word `k` of a bit array of sources. -/
def sourceWord (ns : List Nat) (k : Nat) : Nat := (List.range 32).foldl (fun v i => if ns.contains (32 * k + i) then v + 2 ^ i else v) 0

/-- A register of an APLIC domain (R115), laid out as the AIA lays it out. PRESUMED, notes/assumptions/69.md. -/
def Aplic.read (x : Aplic) (r : Nat) : Nat :=
  if r = 0 then 0x80000004 + x.config.toNat
  else if r < 0x1000 then (SMap.get x.sources (r / 4) 0).toNat
  else if 0x1C00 ≤ r && r < 0x1C80 then sourceWord x.pending ((r - 0x1C00) / 4)
  else if 0x1D00 ≤ r && r < 0x1D80 then sourceWord x.high ((r - 0x1D00) / 4)
  else if 0x1E00 ≤ r && r < 0x1E80 then sourceWord x.enabled ((r - 0x1E00) / 4)
  else if r = 0x3000 then x.genmsi.toNat
  else if 0x3000 < r && r < 0x4000 then (SMap.get x.targets ((r - 0x3000) / 4) 0).toNat
  else 0

/-- `n` bytes of hub MMIO from offset `o`. -/
def State.mmioBytes (s : State) (o n : Nat) : List Byte :=
  (List.range n).map fun i =>
    let a := o + i
    if ecamBase ≤ a then BitVec.ofNat 8 (s.cfgWord (a - ecamBase) >>> (8 * (a % 4)))
    else if let some (d, r) := aplicPlace a then BitVec.ofNat 8 ((s.aplicAt d).read (r / 4 * 4) >>> (8 * (a % 4)))
    else BitVec.ofNat 8 (s.hubRead (a / 8 * 8) >>> (8 * (a % 8)))

/-- The lane group of a PCIe address (R77). -/
def pcieGroup (pa : Nat) : Nat := (pa - 0xC0000000000) / 2 ^ 38

/-- The prefetchable window of root port `p` in its configuration header (registers 0x24, 0x28 and 0x2C of the PCI-to-PCI
bridge header, and the memory-space enable of the command register). PRESUMED, notes/assumptions/9.md. -/
def State.bridgeWindow (s : State) (p : Nat) : Option (Nat × Nat) :=
  let w := fun r => (SMap.get s.cfg ((p / 4 * 2 ^ 15 + p % 4 * 2 ^ 12 + r) / 4) 0).toNat
  let base := w 0x28 * 2 ^ 32 + field (w 0x24) 15 4 * 2 ^ 20
  let limit := w 0x2C * 2 ^ 32 + field (w 0x24) 31 20 * 2 ^ 20 + 0xFFFFF
  if (w 4).testBit 1 && base ≤ limit then some (base, limit) else none

/-- Where a PCIe address goes: the root port and the address on its link. A bridge port sends its outbound range to the
partner (R133); none where no applied sub-port's window contains the address (R46, R47). -/
def State.pcieRoute (s : State) (pa : Nat) : Option (Nat × Nat) :=
  let g := pcieGroup pa
  if s.hubField (Off.portCfg g) 16 16 == 1 then
    let b := s.hubField (Off.ntbWin g + 0x100) 51 12 * 4096
    let l := s.hubField (Off.ntbWin g + 0x108) 51 12 * 4096 + 4095
    let lo := 0xC0000000000 + g * 2 ^ 38
    if b ≤ pa && pa ≤ l && lo ≤ b && l < lo + 2 ^ 38 then
      some (4 * g, s.hubField (Off.ntbWin g + 0x110) 63 12 * 4096 + (pa - b))
    else none
  else
    ((List.range 4).find? fun k =>
      s.subPortPresent (4 * g + k) &&
        (match s.bridgeWindow (4 * g + k) with
         | some (b, l) => b ≤ pa && pa ≤ l
         | none => false)).map fun k => (4 * g + k, pa)

/-- A port counts a posted write that it drops (R47). -/
def State.dropPosted (s : State) (p : Nat) : State := s.modPort p fun q => { q with aerCount := q.aerCount + 1 }

/-- The largest payload of a TLP of a port: 128 bytes times 2 to the code of its Device Control, at most 512 (R41). The place of that register
is PRESUMED, notes/assumptions/9.md. -/
def State.maxPayload (s : State) (p : Nat) : Nat := 128 * 2 ^ min 2 (field (SMap.get s.cfg (portCfgAt p 0x48) 0).toNat 7 5)

/-- The TLPs of a posted write: of at most `n` bytes each. -/
def payloads (a n : Nat) (bs : List Byte) : List (Nat × List Byte) :=
  if bs.length ≤ n then [(a, bs)]
  else (List.range ((bs.length + n - 1) / n)).map fun i => (a + n * i, (bs.drop (n * i)).take n)

/-- A posted write at root port `p`: dropped and counted while the link is down or DPC has triggered (R47), else it leaves. -/
def State.sendPosted (s : State) (p a : Nat) (bs : List Byte) (ep : Bool) (relaxed : Option Bool) : State :=
  if (s.portAt p).up && !(s.portAt p).dpc then
    (payloads a (s.maxPayload p) bs).foldl (fun s w => s.emitTlp p (.posted w.1 w.2 { ep := ep, relaxed := relaxed })) s
  else s.dropPosted p

/-- A failed access of a device thread (R46, R70, R76, R78): IOERR and a record of kind 0x01. -/
def State.ioError (s : State) (k lane sub pa : Nat) : State :=
  let s := s.setWstat k 3
  let r := s.recOf k
  s.faultRecord (mkRecord 1 sub (some r.pasid) pa (whoThread (keyCore k) (keySlot k) (r.visible lane)))

end Sys2Proof.Machine
end

