-- ==== Sys2Proof/Machine/Flags.lean ====
section
/-!
DEFINITION. The computations that leave a flag behind: carries and borrows, clamps and their inexactness, comparisons
(R400 to R403, R410). In this machine a flag is a predicate or an X bit; the sticky flags are those of R345 and R346.
-/

namespace Sys2Proof.Machine

/-- Clamps an integer to the signed or unsigned range of `w` bits. -/
def clampInt (e : Int) (w : Nat) (unsigned : Bool) : Int :=
  if unsigned then max 0 (min e (2 ^ w - 1)) else max (-(2 ^ (w - 1))) (min e (2 ^ (w - 1) - 1))

/-- The value of an exact integer in `w` bits and whether it was changed: modular, or clamped under SAT (R398). -/
def narrow (w : Nat) (sat unsigned : Bool) (e : Int) : Opnd w :=
  if sat then
    let v := clampInt e w unsigned
    ⟨BitVec.ofInt w v, decide (v ≠ e)⟩
  else ⟨BitVec.ofInt w e, false⟩

/-- The carry of an addition, or the borrow of a subtraction, of the bit patterns (R400). -/
def carryOut {w : Nat} (sub : Bool) (a b : BitVec w) (cin : Bool) : Bool :=
  let c := if cin then 1 else 0
  if sub then decide (a.toNat < b.toNat + c) else decide (2 ^ w ≤ a.toNat + b.toNat + c)

/-- The exact sum or difference (R400). -/
def addExact (sub : Bool) (a b : Int) (cin : Bool) : Int :=
  let c : Int := if cin then 1 else 0
  if sub then a - b - c else a + b + c

/-- The comparison of code CMP (R410): 0 EQ, 1 NE, 2 LT, 3 LE, 4 GT, 5 GE. -/
def compareInt (cmp : Nat) (a b : Int) : Bool :=
  match cmp with
  | 0 => decide (a = b)
  | 1 => decide (a ≠ b)
  | 2 => decide (a < b)
  | 3 => decide (a ≤ b)
  | 4 => decide (a > b)
  | _ => decide (a ≥ b)

/-- Quotient or remainder toward zero with the cases of R402. -/
def divide (rem unsigned : Bool) (a b : Word) : Opnd 32 :=
  if b = 0 then
    ⟨if rem then a else if unsigned then BitVec.allOnes 32 else if a.toInt ≥ 0 then 0x7FFFFFFF else 0x80000000, true⟩
  else if !unsigned && a = 0x80000000 && b = BitVec.allOnes 32 then
    if rem then ⟨0, false⟩ else ⟨0x7FFFFFFF, true⟩
  else
    let x := BitVec.asInt a unsigned
    let y := BitVec.asInt b unsigned
    ⟨BitVec.ofInt 32 (if rem then x.tmod y else x.tdiv y), false⟩

end Sys2Proof.Machine
end

