-- ==== Sys2Proof/Machine/Num.lean ====
section
/-!
DEFINITION. Numbers (11_numbers.md, R311 to R325): formats, exact values, the eight rounding modes, overflow and special
results, integer rounding, staging, and exact sums and products.
-/

namespace Sys2Proof.Machine

/-- A value: NaN, an infinity, or a sign with an exact magnitude n/d (d positive); zero has a sign. -/
inductive Num where
  | nan
  | inf (neg : Bool)
  | fin (neg : Bool) (n d : Nat)
deriving DecidableEq, Repr

/-- A floating format: bits of the trailing significand, exponent bits, the exponent of the smallest subnormal step, the
largest finite magnitude, the canonical NaN, and what its table row of R317 writes for an overflow away from zero. -/
structure FloatFmt where
  m : Nat
  e : Nat
  lo : Int
  maxFin : Nat
  nan : Nat
  ovf : Nat
deriving DecidableEq, Repr

namespace FloatFmt
def f32 : FloatFmt := ⟨23, 8, -149, 0x7F7FFFFF, 0x7FC00000, 0x7F800000⟩
def f16 : FloatFmt := ⟨10, 5, -24, 0x7BFF, 0x7E00, 0x7C00⟩
def b16 : FloatFmt := ⟨7, 8, -133, 0x7F7F, 0x7FC0, 0x7F80⟩
def e5m2 : FloatFmt := ⟨2, 5, -16, 0x7B, 0x7E, 0x7C⟩
def e4m3 : FloatFmt := ⟨3, 4, -9, 0x7E, 0x7F, 0x7F⟩
def e2m1 : FloatFmt := ⟨1, 2, -1, 0x7, 0x0, 0x7⟩
end FloatFmt

/-- Bits of an element. -/
def FloatFmt.width (F : FloatFmt) : Nat := 1 + F.e + F.m

/-- n * 2^u as an exact magnitude. -/
def Num.dyadic (neg : Bool) (n : Nat) (u : Int) : Num :=
  if 0 ≤ u then .fin neg (n * 2 ^ u.toNat) 1 else .fin neg n (2 ^ (-u).toNat)

/-- The value of an encoding (R311). -/
def FloatFmt.value (F : FloatFmt) (code : Nat) : Num :=
  let neg := (code >>> (F.e + F.m)) % 2 == 1
  let mag := code % 2 ^ (F.e + F.m)
  let e := mag >>> F.m
  if F.maxFin < mag then (if F.ovf ≠ F.nan && mag == F.ovf then .inf neg else .nan)
  else if e = 0 then .dyadic neg mag F.lo
  else .dyadic neg (mag % 2 ^ F.m + 2 ^ F.m) (F.lo + e - 1)

/-- The rounding mode in use: its code (R315) and the random byte of the stochastic modes. -/
structure Mode where
  code : Nat
  r : Nat
deriving DecidableEq, Repr

/-- floor(log2 (n/d)) of a positive magnitude. -/
def floorLog2 (n d : Nat) : Int :=
  let e : Int := (Nat.log2 n : Int) - Nat.log2 d
  if 0 ≤ e then (if n < d * 2 ^ e.toNat then e - 1 else e)
  else (if n * 2 ^ (-e).toNat < d then e - 1 else e)

/-- A magnitude on the grid: q * 2^u, whether it is the exact one, and whether it was rounded up in magnitude. -/
structure Grid where
  q : Nat
  u : Int
  exact : Bool
  up : Bool
deriving DecidableEq, Repr

/-- n/d rounded to a multiple of 2^u (R315, R319). -/
def roundAt (m : Mode) (neg : Bool) (n d : Nat) (u : Int) : Grid :=
  let n' := if 0 ≤ u then n else n * 2 ^ (-u).toNat
  let d' := if 0 ≤ u then d * 2 ^ u.toNat else d
  let q := n' / d'
  let rem := n' % d'
  let f := 2 * (rem * 128 / d') + (if rem * 128 % d' = 0 then 0 else 1)
  let up := rem ≠ 0 &&
    (match m.code with
     | 0 => decide (d' < 2 * rem) || (decide (2 * rem = d') && q % 2 == 1)
     | 1 => false
     | 2 => !neg
     | 3 => neg
     | 4 => decide (d' ≤ 2 * rem)
     | 7 => q % 2 == 0
     | _ => decide (256 ≤ f + m.r))
  { q := if up then q + 1 else q, u := u, exact := rem = 0, up := up }

/-- n/d rounded to `p` significand bits with no position below 2^lo (R315). -/
def roundGrid (m : Mode) (neg : Bool) (n d p : Nat) (lo : Int) : Grid :=
  if n = 0 then ⟨0, lo, true, false⟩ else roundAt m neg n d (max (floorLog2 n d - (p - 1 : Nat)) lo)

/-- The magnitude code of q * 2^u, which may lie above the largest finite one. -/
def FloatFmt.magCode (F : FloatFmt) (q : Nat) (u : Int) : Nat :=
  if q < 2 ^ F.m then q
  else if q < 2 ^ (F.m + 1) then ((u - F.lo).toNat + 1) * 2 ^ F.m + (q - 2 ^ F.m)
  else ((u - F.lo).toNat + 2) * 2 ^ F.m

/-- A code with its sign bit. -/
def FloatFmt.signed (F : FloatFmt) (neg : Bool) (mag : Nat) : Nat := mag + if neg then 2 ^ (F.e + F.m) else 0

/-- An overflow is away from zero in this mode (R317). -/
def Mode.away (m : Mode) (neg up : Bool) : Bool :=
  match m.code with
  | 0 | 4 | 7 => true
  | 1 => false
  | 2 => !neg
  | 3 => neg
  | _ => up

/-- A rounded result: its encoding, and inexact (R314). -/
structure Rounded where
  code : Nat
  inx : Bool
deriving DecidableEq, Repr

/-- The result of R316 and R317: a value rounded once to a format. -/
def FloatFmt.round (F : FloatFmt) (m : Mode) (sat : Bool) (v : Num) : Rounded :=
  match v with
  | .nan => ⟨F.nan, true⟩
  | .inf neg =>
    if F == .f32 then ⟨F.signed neg F.ovf, false⟩
    else ⟨F.signed neg (if sat then F.maxFin else F.ovf), true⟩
  | .fin neg n d =>
    let g := roundGrid m neg n d (F.m + 1) F.lo
    let mag := F.magCode g.q g.u
    if F.maxFin < mag then
      ⟨F.signed neg (if m.away neg g.up && !sat then F.ovf else F.maxFin), true⟩
    else ⟨F.signed neg mag, !g.exact⟩

/-- A value rounded to an integer in the mode, exactly (R318). -/
def roundInt (m : Mode) (neg : Bool) (n d : Nat) : Int × Bool :=
  let g := roundAt m neg n d 0
  (if neg then -(g.q : Int) else g.q, g.exact)

/-- A rounding to an integer format of `w` bits, as its low `w` bits (R318). -/
def roundToInt (w : Nat) (unsigned : Bool) (m : Mode) (v : Num) : Int × Bool :=
  match v with
  | .nan => (0, true)
  | .inf neg => (clampInt (if neg then -(2 ^ 64) else 2 ^ 64) w unsigned, true)
  | .fin neg n d =>
    let (i, exact) := roundInt m neg n d
    let c := clampInt i w unsigned
    (c, !exact || decide (c ≠ i))

/-- Staging onto q significand bits with no position below 2^lo, as f32 (R322). -/
def stageAs (q : Nat) (lo : Int) (v : Num) : Rounded :=
  match v with
  | .nan => ⟨FloatFmt.f32.nan, true⟩
  | .inf neg => ⟨FloatFmt.f32.signed neg 0x7F800000, false⟩
  | .fin neg n d =>
    if d * 2 ^ 128 ≤ n then ⟨FloatFmt.f32.signed neg 0x7F7FFFFF, true⟩
    else
      let g := roundGrid ⟨7, 0⟩ neg n d q lo
      match Num.dyadic neg g.q g.u with
      | .fin neg n d => ⟨(FloatFmt.f32.round ⟨1, 0⟩ false (.fin neg n d)).code, !g.exact⟩
      | _ => ⟨0, false⟩

def Num.negate : Num → Num
  | .nan => .nan
  | .inf s => .inf (!s)
  | .fin s n d => .fin (!s) n d

def Num.abs : Num → Num
  | .nan => .nan
  | .inf _ => .inf false
  | .fin _ n d => .fin false n d

def Num.isZero : Num → Bool
  | .fin _ n _ => n == 0
  | _ => false

/-- The exact sum; an exact zero of operands with opposite signs is +0, under RD −0 (R312, R316). -/
def Num.add (a b : Num) (rd : Bool) : Num :=
  match a, b with
  | .nan, _ | _, .nan => .nan
  | .inf s, .inf t => if s == t then .inf s else .nan
  | .inf s, _ => .inf s
  | _, .inf t => .inf t
  | .fin s n d, .fin t k e =>
    if s == t then .fin s (n * e + k * d) (d * e)
    else if n * e = k * d then .fin rd 0 1
    else if k * d < n * e then .fin s (n * e - k * d) (d * e)
    else .fin t (k * d - n * e) (d * e)

/-- The exact product (R316). -/
def Num.mul (a b : Num) : Num :=
  match a, b with
  | .nan, _ | _, .nan => .nan
  | .inf s, .inf t => .inf (s != t)
  | .inf s, .fin t n _ => if n = 0 then .nan else .inf (s != t)
  | .fin s n _, .inf t => if n = 0 then .nan else .inf (s != t)
  | .fin s n d, .fin t k e => .fin (s != t) (n * k) (d * e)

/-- The exact quotient, with the special cases of FDIV (R326). -/
def Num.div (a b : Num) : Num :=
  match a, b with
  | .nan, _ | _, .nan => .nan
  | .inf _, .inf _ => .nan
  | .inf s, .fin t _ _ => .inf (s != t)
  | .fin s _ _, .inf t => .fin (s != t) 0 1
  | .fin s n d, .fin t k e =>
    if k = 0 then (if n = 0 then .nan else .inf (s != t)) else .fin (s != t) (n * e) (d * k)

/-- An integer as a value; zero is +0. -/
def Num.ofInt (i : Int) : Num := .fin (decide (i < 0)) i.natAbs 1

/-- a < b for values that are not NaN; zeros are equal. -/
def Num.lt (a b : Num) : Bool :=
  match a, b with
  | .inf s, .inf t => s && !t
  | .inf s, _ => s
  | _, .inf t => !t
  | .fin s n d, .fin t k e =>
    decide ((if s then -((n * e : Nat) : Int) else (n * e : Nat)) < (if t then -((k * d : Nat) : Int) else (k * d : Nat)))
  | _, _ => false

def f32Of (w : Word) : Num := FloatFmt.f32.value w.toNat

/-- A value rounded once to f32 (R316). -/
def toF32 (m : Mode) (v : Num) : Opnd 32 :=
  let r := FloatFmt.f32.round m false v
  ⟨BitVec.ofNat 32 r.code, r.inx⟩

end Sys2Proof.Machine
end

