-- ==== Sys2Proof/Machine/Access.lean ====
section
/-!
DEFINITION. Global memory accesses: buffer records and addresses (R268 to R273), coalescing, translation and fates (R94 to
R96), regions and paths (R46, R47, R63, R66, R70, R74 to R78, R112), poison (R249), release sequences (R286, R289), held
stores of a rollback interval (R241, R242), and the operand log (R213).
-/

namespace Sys2Proof.Machine

/-! ### Records and addresses -/

/-- A buffer record (R268). -/
structure BufRec where
  base : Nat
  esize : Nat
  swz : Nat
  oobt : Bool
  extent : Nat
  stride : Nat
  rdp : Bool
  wrp : Bool
  atp : Bool
  rsv : Nat
deriving DecidableEq, Repr

/-- The record in four scalar registers, their X ignored (R268). -/
def Ctx.bufRec (c : Ctx) (o : Operand) : BufRec :=
  let w := fun i => (c.reg 0 o i).val.toNat
  { base := w 0 + field (w 1) 24 0 * 2 ^ 32, esize := field (w 1) 27 25, swz := field (w 1) 30 28,
    oobt := (w 1).testBit 31, extent := w 2 + field (w 3) 7 0 * 2 ^ 32, stride := field (w 3) 23 8,
    rdp := (w 3).testBit 24, wrp := (w 3).testBit 25, atp := (w 3).testBit 26, rsv := field (w 3) 31 27 }

def BufRec.unit (r : BufRec) : Nat := 2 ^ r.esize
def BufRec.flat (r : BufRec) : Bool := r.extent == 0xFFFFFFFFFF

/-- A malformed record (R269); the rows of a swizzle are 2^SWZ (R273). -/
def BufRec.malformed (r : BufRec) : Bool :=
  r.rsv != 0 || 4 < r.esize || 5 < r.swz ||
    (r.swz != 0 && (128 < 2 ^ r.swz * r.unit || r.base % 128 != 0 || r.extent % 128 != 0))

/-- What becomes of a lane's address (R270). -/
inductive LaneAddr where
  | trap (cause : Nat) (tval : Nat)
  | oob
  | va (a : Nat)
deriving DecidableEq, Repr

/-- The address of a lane, in the order of R270. -/
def BufRec.address (r : BufRec) (permitted : Bool) (n idx : Nat) (off : Int) : LaneAddr :=
  let o : Int := (idx * r.stride : Nat) + off
  if r.malformed then .trap 0x0B 0
  else if !permitted then .trap 0x0B 0
  else if r.swz != 0 && r.unit < n then .trap 0x0A (wrapNat (r.base + o) 64)
  else if !r.flat && (o < 0 || (r.extent : Int) < o + n) then
    if r.oobt then .trap 9 (wrapNat o 64) else .oob
  else
    let o' : Int := if r.swz != 0 then ((o.toNat ^^^ (o.toNat / 128 % 2 ^ r.swz * r.unit) : Nat) : Int) else o
    let va := wrapNat (r.base + o') 64
    if va ≥ 2 ^ 57 then .trap 0x0B va else if va % n ≠ 0 then .trap 0x0A va else .va va

def LaneAddr.check (a : LaneAddr) (pc : SlotAddr) : Option PTrap :=
  match a with
  | .trap cause tval => some (trapHere cause (BitVec.ofNat 64 tval) pc)
  | _ => none

/-- A number that names the address of a lane, for the comparison of a protected pair. -/
def LaneAddr.code : LaneAddr → Nat
  | .trap c t => 2 ^ 72 + c * 2 ^ 64 + t
  | .oob => 2 ^ 73
  | .va a => a

/-! ### Release sequences (R285 to R289) -/

def scopeOf (n : Nat) : Scope := match n with | 0 => .wv | 1 => .cr | 2 => .cl | 3 => .dv | _ => .sy

/-- The same agent; a thread stays one wherever it moves (R286). -/
def ReleaseTag.sameAgent (t u : ReleaseTag) : Bool :=
  (t.core == u.core || (t.core < 256 && u.core < 256)) && t.wave == u.wave && t.lane == u.lane

/-- A scope used by agent `t` includes agent `u` (R282). -/
def Scope.includes (sc : Scope) (t u : ReleaseTag) : Bool :=
  t.sameAgent u ||
    (match sc with
     | .wv => t.core < 256 && u.core < 256 && t.wave == u.wave
     | .cr => t.core < 256 && t.core == u.core
     | .cl => t.core < 256 && u.core < 256 && t.core / 4 == u.core / 4
     | .dv => u.core ≤ 256
     | .sy => true)

/-- A thread as an agent: its core now, its wave, its lane (R282, R283). -/
def State.agent (s : State) (k lane : Nat) (sc : Scope) : ReleaseTag :=
  ⟨keyCore k, (s.wave k).crew * 64 + (s.wave k).wid, lane, sc⟩

/-- The release tags of a byte as a thread of wave `k` reads it: those of the bytes that its crew holds first (R241, R286). -/
def State.threadTags (s : State) (k a : Nat) : List ReleaseTag :=
  (SMap.find (s.crew (s.wave k).crew).heldTags a).getD (SMap.get s.releases a [])

/-- A release whose sequence a read of [a, a + n) lies in is not in scope (R288, R289). -/
def State.scopeMissed (s : State) (k lane : Nat) (sc : Scope) (a n : Nat) : Bool :=
  let u := s.agent k lane sc
  (List.range n).any fun i => (s.threadTags k (a + i)).any fun t => !(t.scope.includes t u && sc.includes u t)

/-- An acquire at scope `sc` reads [a, a + n): SCOPEMISS where a release whose sequence it reads is not in scope (R289). -/
def State.acquire (s : State) (k lane : Nat) (sc : Scope) (a n : Nat) : State :=
  if s.scopeMissed k lane sc a n then s.setWstat k 1 else s

/-- An acquire has read a word at a domain peer. Which write it has read is not known here: where it may be a release out of scope, of this
package or of another one, the flag is a free choice (R71, R289; notes/assumptions/14.md). -/
def State.acquirePeer (s : State) (k lane : Nat) (sc : Scope) (a n : Nat) : State :=
  if sc == .sy && !s.scopeMissed k lane sc a n then s
  else
    let t : State := { s with fresh := s.fresh + 1 }
    if (Config.freeWord s.fresh).getLsbD 0 then t.setWstat k 1 else t

/-- The heads that a write of this thread carries: its own release, and its release fences, each of the core on which it was performed
(R283, R286). -/
def State.heads (s : State) (k lane : Nat) (rel : Bool) (sc : Scope) : List ReleaseTag :=
  let fs := (s.thread k lane).fences.map fun f => { s.agent k lane f.scope with core := f.core }
  (if rel then s.agent k lane sc :: fs else fs).eraseDups

/-! ### Rollback intervals (R241, R242) -/

/-- Bytes by their addresses as runs of neighbours. -/
def byteRuns (m : SMap Byte) : List (Nat × List Byte) :=
  match m with
  | [] => []
  | (a, b) :: t =>
    match byteRuns t with
    | (c, bs) :: rest => if c = a + 1 then (a, b :: bs) :: rest else (a, [b]) :: (c, bs) :: rest
    | [] => [(a, [b])]

/-- The held lines of a crew are released and written, with their release tags (R241, R242, R286); a sector that they cover loses its
poison (R246). -/
def State.releaseHeld (s : State) (c : Nat) : State :=
  let s := (byteRuns (s.crew c).held).foldl (fun s r => s.memWrite r.1 r.2) s
  let tags := (s.crew c).heldTags.foldl (fun m e => SMap.set m e.1 e.2 []) s.releases
  ({ s with releases := tags } : State).modCrew c (fun x => { x with held := [], heldTags := [] })

/-- The interval of a crew becomes ineligible (R242); its held lines are written first. -/
def State.spoil (s : State) (c : Nat) : State :=
  if (s.launchAt (s.crew c).launch).record.rbk && (s.crew c).eligible then
    (s.releaseHeld c).modCrew c (fun x => { x with eligible := false })
  else s

/-- A wave holds its stores: its crew is in an eligible interval of an RBK launch (R241). -/
def State.holds (s : State) (k : Nat) : Bool := (s.recOf k).rbk && (s.crew (s.wave k).crew).eligible

/-- The bytes that a thread of wave `k` reads at a place in memory: held ones of its crew first (R241). -/
def State.threadBytes (s : State) (k a n : Nat) : List Byte :=
  let held := (s.crew (s.wave k).crew).held
  (List.range n).map fun i => (SMap.find held (a + i)).getD (s.byte (a + i))

/-- The crew of wave `k` holds a whole sector: what memory has there is not read (R246). -/
def State.sectorHeld (s : State) (k sector : Nat) : Bool :=
  (List.range 32).all fun i => (SMap.find (s.crew (s.wave k).crew).held (32 * sector + i)).isSome

/-- A read of [a, a + n) by a thread of wave `k` meets poison, and what it decodes (R245, R246). -/
def State.threadPoison (s : State) (k a n : Nat) : Bool := (sectorsOf a n).any fun c => s.isPoisoned c && !s.sectorHeld k c
def State.threadDecoded (s : State) (k a n : Nat) : State :=
  if s.upsets.isEmpty then s else (sectorsOf a n).foldl (fun s c => if s.sectorHeld k c then s else s.decodeSector c) s

/-- Stores of a crew are held, with their release tags (R241, R286). -/
def State.hold (s : State) (k a : Nat) (bs : List Byte) (keep : ReleaseTag → Bool) (new : List ReleaseTag) : State :=
  s.modCrew (s.wave k).crew fun x =>
    { x with
      held := ((List.range bs.length).zip bs).foldl (fun m (i, b) => SMap.put m (a + i) b) x.held
      heldTags := (List.range bs.length).foldl (fun m i => SMap.put m (a + i) ((s.threadTags k (a + i)).filter keep ++ new)) x.heldTags }

/-- A thread writes bytes in memory (R241, R242, R286). -/
def State.threadWrite (s : State) (k lane a : Nat) (bs : List Byte) (rmw rel : Bool) (sc : Scope) : State :=
  let c := (s.wave k).crew
  let me := s.agent k lane sc
  let keep := fun (t : ReleaseTag) => rmw || t.sameAgent me
  if s.holds k then
    let s := s.hold k a bs keep (s.heads k lane rel sc)
    if 512 < ((s.crew c).held.map (fun e => e.1 / 128)).eraseDups.length then s.spoil c else s
  else (s.memWrite a bs).tagBytes a bs.length keep (s.heads k lane rel sc)

/-! ### Atomic operations (R444) -/

/-- The value that an atomic operation writes for old value `m` and data `d` of `w` bits; none where it writes nothing. -/
def atomicWrite (aop w m d : Nat) : Option Nat :=
  let d0 := d % 2 ^ w
  match aop with
  | 0 => some ((m + d0) % 2 ^ w)
  | 1 => some (m &&& d0)
  | 2 => some (m ||| d0)
  | 3 => some (m ^^^ d0)
  | 4 => some (if sextNat m w ≤ sextNat d0 w then m else d0)
  | 5 => some (if sextNat m w ≤ sextNat d0 w then d0 else m)
  | 6 => some (min m d0)
  | 7 => some (max m d0)
  | 8 => some d0
  | 9 => if m = d0 then some (field d (2 * w - 1) w) else none
  | _ => some (FloatFmt.f32.round ⟨0, 0⟩ false ((FloatFmt.f32.value m).add (FloatFmt.f32.value d0) false)).code

/-- Whether a PCIe path with ATOMEG = 1 carries the operation (R74). -/
def pcieCarries (aop n : Nat) : Bool :=
  match aop with
  | 0 | 8 => n == 4 || n == 8
  | 9 => n == 4 || n == 8 || n == 16
  | _ => false

/-! ### One lane at its physical address -/

/-- The registers of a loaded value (R437). -/
def loadRegs (size : Nat) (sx : Bool) (v : Nat) : List Reg :=
  if size < 4 then [⟨if sx then BitVec.ofInt 32 (sextNat v (8 * size)) else BitVec.ofNat 32 v, false⟩]
  else natGroup v (size / 4)

/-- The registers of a value of `size` bytes that failed: every bit `b`, X = 1. -/
def failRegs (size : Nat) (b : Bool) : List Reg :=
  List.replicate (max 1 (size / 4)) ⟨if b then BitVec.allOnes 32 else 0, true⟩

/-- How the access of a lane ends. -/
inductive LaneOut where
  | value (rs : List Reg)
  | done
  | trap (cause : Nat)
  | poisoned
  | failed (sub : Nat)
  | atomPath
  | sent (port : Option Nat) (addr : Nat)
deriving DecidableEq, Repr

def AccessKind.isStore : AccessKind → Bool
  | .store => true
  | _ => false

/-- An access in this package's memory at `a`, on a page of type `mt`. -/
def State.memAccess (s : State) (k lane : Nat) (x : Access) (a mt data : Nat) : State × LaneOut :=
  let n := x.size
  match x.kind with
  | .store =>
    if mt == 4 then (s, .trap 0x0B)
    else
      let s := if 3 ≤ mt then s.spoil (s.wave k).crew else s
      (s.threadWrite k lane a (leBytes data n) false x.rel x.scope, .done)
  | .atom aop =>
    if mt == 4 then (s, .trap 0x0B)
    else if mt == 3 then (s, .atomPath)
    else if s.poisonIn a n then (s.decoded a n, .poisoned)
    else
      let m := s.readNat a n
      let s := if x.acq then s.acquire k lane x.scope a n else s
      let s := match atomicWrite aop.toNat (8 * n) m data with
        | some v => s.threadWrite k lane a (leBytes v n) true x.rel x.scope
        | none => s.decoded a n
      (s, .value (loadRegs n false m))
  | k' =>
    if s.threadPoison k a n then (s.threadDecoded k a n, .poisoned)
    else
      let v := leNat (s.threadBytes k a n)
      let s := s.threadDecoded k a n
      let s := if x.acq then s.acquire k lane x.scope a n else s
      (s, .value (loadRegs n (match k' with | .load sx => sx | _ => false) v))

/-- The events of a load or store of `n` bytes outside this package: offset and size of each, at most 8 bytes (R277). -/
def eventSizes (n : Nat) : List (Nat × Nat) := if n ≤ 8 then [(0, n)] else (List.range (n / 8)).map fun i => (8 * i, 8)

/-- Access of a lane at a physical address (R46, R47, R66, R70, R74 to R78, R527). -/
def State.laneAccess (s : State) (k lane : Nat) (x : Access) (pa mt data : Nat) : State × LaneOut :=
  let n := x.size
  match s.regionAt pa with
  | .hbm | .vault | .cxl => s.memAccess k lane x pa mt data
  | .unassigned => (s, .failed 5)
  | .hubMmio =>
    let o := pa - hubBase
    match x.kind with
    | .store => ((s.spoil (s.wave k).crew).imsicWrite o n data, .done)
    | .atom _ => (s, .atomPath)
    | .load sx => (s, .value (loadRegs n sx (leNat (s.mmioBytes o n))))
    | _ => (s, .value (loadRegs n false (leNat (s.mmioBytes o n))))
  | .pcie =>
    match x.kind, s.pcieRoute pa with
    | .atom aop, r =>
      let port := (r.map (·.1)).getD 0
      if r.isNone || !(s.hubField (Off.portCfg (port / 4)) 17 17 == 1 && pcieCarries aop.toNat n) then (s, .atomPath)
      else if !(s.portAt port).up then (s, .failed 4)
      else (s, .sent (some port) ((r.map (·.2)).getD 0))
    | .store, none => (s.spoil (s.wave k).crew, .failed 1)
    | .store, some (p, a) =>
      let s := s.spoil (s.wave k).crew
      ((eventSizes n).foldl (fun s e => s.sendPosted p (a + e.1) (leBytes (data / 2 ^ (8 * e.1)) e.2) false none) s, .done)
    | _, none => (s, .failed 1)
    | _, some (p, a) => if !(s.portAt p).up then (s, .failed 4) else (s, .sent (some p) a)
  | .domain =>
    let o := field pa 42 0
    if s.isPeer pa then
      let s := if x.kind.isStore then s.spoil (s.wave k).crew else s
      if s.peerReachable pa then (s, .sent none pa) else (s, .failed 7)
    else
      let bit := match x.kind with
        | .store => 1
        | .atom _ => 2
        | _ => 0
      if !s.exported o n bit then (s.ownRefused pa n bit, .failed 6)
      else if s.regionAt o == .hbm || s.regionAt o == .vault then s.memAccess k lane x o mt data
      else (s, .failed 5)

/-! ### A whole instruction -/

/-- A lane that reaches memory: its address and its data. -/
structure LaneReq where
  lane : Nat
  va : Nat
  data : Nat
deriving DecidableEq, Repr

/-- What the lanes of an instruction, or of a replay, have come to so far. -/
structure Progress where
  s : State
  writes : List (Dst × Reg)
  logged : List LogLane
  waiting : Nat
  traps : List (Nat × PTrap)
  poisoned : List (Nat × Nat)

def Access.need (x : Access) : Need :=
  match x.kind with
  | .store | .spill | .doorbell => .write
  | .atom _ => .both
  | _ => .read

/-- Registers of a lane's destination get values; in a protected launch the result of an action goes to the pair. -/
def laneWrites (r : LaunchRec) (x : Access) (lane : Nat) (marks : Nat → List Dst) (rs : List Reg) : List (Dst × Reg) :=
  match x.kind with
  | .atom _ => (r.mirror lane).flatMap (fun l => (marks l).zip rs)
  | _ => (marks lane).zip rs

/-- What a lane's outcome adds. `tpc` is the address of the instruction. -/
def Progress.lane (p : Progress) (k : Nat) (x : Access) (serial : Nat) (marks : Nat → List Dst) (tpc : SlotAddr)
    (strict : Bool) (pa mt : Nat) (q : LaneReq) : Progress :=
  let r := p.s.recOf k
  let isAtom := match x.kind with | .atom _ => true | _ => false
  let put := fun (rs : List Reg) => laneWrites r x q.lane marks rs
  match p.s.laneAccess k q.lane x pa mt q.data with
  | (s, .value rs) => { p with s := s, writes := p.writes ++ put rs }
  | (s, .done) => { p with s := s }
  | (s, .trap cause) => { p with s := s, traps := p.traps ++ [(q.lane, trapHere cause (BitVec.ofNat 64 q.va) tpc)] }
  | (s, .poisoned) =>
    { p with s := s, writes := p.writes ++ put (failRegs x.size false), poisoned := p.poisoned ++ [(q.lane, q.va)] }
  | (s, .failed sub) =>
    { p with s := s.ioError k q.lane sub pa, writes := p.writes ++ put (failRegs x.size (!isAtom)) }
  | (s, .atomPath) =>
    { p with s := s.setWstat k 2, writes := p.writes ++ put (failRegs x.size false)
             traps := if strict then p.traps ++ (r.mirror q.lane).map (fun l =>
               (l, trapHere 0x12 (BitVec.ofNat 64 q.va) tpc)) else p.traps }
  | (s, .sent port a) =>
    let events := if isAtom then [(0, x.size)] else eventSizes x.size
    let send := fun (s : State) (e : Nat × Nat) =>
      s.request { tag := s.nextTag, who := .thread, sent := s.gtime, port := port, waveKey := k, lane := q.lane, serial := serial
                  skip := e.1 / 4, access := { x with size := e.2 }, pasid := r.pasid, va := q.va + e.1, pa := pa + e.1 } (a + e.1)
        (if isAtom then q.data else q.data / 2 ^ (8 * e.1) % 2 ^ (8 * e.2))
    let s := if port.isNone && (isAtom || x.kind.isStore) then
        s.tagBytes pa x.size (fun t => isAtom || t.sameAgent (s.agent k q.lane x.scope)) (s.heads k q.lane x.rel x.scope)
      else s
    { p with s := events.foldl send s, waiting := p.waiting + if x.kind.isStore then 0 else events.length }

/-- The lanes of a store that reach one line are one write of it: each sector that they cover together loses its poison (R94, R246). -/
def State.coalesced (s : State) (k n pa : Nat) (qs : List LaneReq) : State :=
  (List.range 4).foldl (fun s i =>
    let o := 32 * i
    match s.localPa (pa + o) 32 1 with
    | some a =>
      if s.isPoisoned (a / 32) && !s.holds k &&
          (List.range 32).all fun b => qs.any fun q => q.va % 128 ≤ o + b && o + b < q.va % 128 + n then s.setPoison (a / 32) false
      else s
    | none => s) s

/-- Lanes of one 128-byte line: one translation, then the lanes (R94, R95, R112). -/
def Progress.line (p : Progress) (k : Nat) (x : Access) (serial : Nat) (marks : Nat → List Dst) (tpc : SlotAddr)
    (strict : Bool) (qs : List LaneReq) : Progress :=
  let r := p.s.recOf k
  let first := (qs.head?.map (·.va)).getD 0
  let log := fun (perm : Bool) (s : State) =>
    { p with s := s, logged := p.logged ++ qs.map (fun q =>
        { lane := q.lane, va := BitVec.ofNat 57 q.va, data := BitVec.ofNat 1152 q.data,
          page := pageWait r.pasid q.va x.need perm }) }
  let trapAll := fun (s : State) =>
    { p with s := s, traps := p.traps ++ qs.map (fun q => (q.lane, trapHere 0x0B (BitVec.ofNat 64 q.va) tpc)) }
  match p.s.translate r.pasid first x.need with
  | (s, .absent) => log false (s.pageFault (pageWait r.pasid first x.need false) (keyCore k) (keySlot k))
  | (s, .denied true) => log true (s.pageFault (pageWait r.pasid first x.need true) (keyCore k) (keySlot k))
  | (s, .denied false) => trapAll s
  | (s, .ok pa mt) =>
    if mt == 6 then trapAll s
    else
      let p := qs.foldl (fun p q => p.lane k x serial marks tpc strict (pa / 128 * 128 + q.va % 128) mt q) { p with s := s }
      if x.kind.isStore && mt != 4 then { p with s := p.s.coalesced k x.size (pa / 128 * 128) qs } else p

/-- The lines that a list of lanes touches, in the order of their first lanes. -/
def linesOf (qs : List LaneReq) : List Nat := (qs.map (fun q => q.va / 128)).eraseDups

/-- Two lanes reach one byte. -/
def lanesMeet (n : Nat) (qs : List LaneReq) : Bool :=
  qs.any fun q => qs.any fun r => q.lane ≠ r.lane && q.va < r.va + n && r.va < q.va + n

/-- The order in which the lanes of an instruction are performed: the manual leaves it open (R276, R445), so that where lanes
of a store or an atomic operation meet it is a free choice; else it is the ascending one, for no order shows. -/
def State.laneOrder (s : State) (x : Access) (qs : List LaneReq) : State × List LaneReq :=
  let writes := match x.kind with
    | .store | .atom _ => true
    | _ => false
  if writes && lanesMeet x.size qs then
    ({ s with fresh := s.fresh + 1 },
      qs.insertionSort fun q r => Config.laneRank s.fresh q.lane ≤ Config.laneRank s.fresh r.lane)
  else (s, qs)

/-- The access publishes beyond the core: it ends the eligibility of a rollback interval when it is performed (R242). -/
def Access.spoils (x : Access) : Bool :=
  match x.kind with
  | .atom _ => true
  | _ => x.rel && (x.scope == .cl || x.scope == .dv || x.scope == .sy)

/-- The lanes of an instruction, at its issue or at its replay. -/
def State.accessLanes (s : State) (k : Nat) (x : Access) (serial : Nat) (marks : Nat → List Dst) (tpc : SlotAddr)
    (qs : List LaneReq) : Progress :=
  let s := if x.spoils && !qs.isEmpty then s.spoil (s.wave k).crew else s
  let strict := (s.recOf k).strict
  let o := s.laneOrder x qs
  (linesOf o.2).foldl (fun p n => p.line k x serial marks tpc strict (o.2.filter (fun q => q.va / 128 == n)))
    { s := o.1, writes := [], logged := [], waiting := 0, traps := [], poisoned := [] }

/-- The marks of a lane in a scoreboard entry, in register order. -/
def Pend.laneMarks (p : Pend) (lane : Nat) : List Dst :=
  p.marks.filter fun d => match d with | .v l _ => l == lane | .p l _ => l == lane | .s _ => true

def Wave.marksOf (w : Wave) (serial lane : Nat) : List Dst :=
  match w.pend.find? (fun p => p.serial == serial) with
  | some p => p.laneMarks lane
  | none => []

/-- The 96-bit word at slot `pc` of a wave's program, and the literal words after it. -/
def State.wordAt (s : State) (k : Nat) (pc : SlotAddr) : BitVec 96 × List (Option Word) :=
  let i := pc.toNat % 5
  match s.lineOfSlot (keyCore k) (s.recOf k).pasid pc.toNat with
  | some l => (lineSlot l i, lineLits l i)
  | none => (0, [])

/-- Lanes of the instruction at `pc` go to the operand log: to the entry that the instruction has, or to a new one (R96, R213). -/
def State.logLanes (s : State) (k : Nat) (x : Access) (serial : Nat) (pc : SlotAddr) (ls : List LogLane) : State :=
  if ls.isEmpty then s
  else if (s.wave k).log.any (fun e => e.serial == serial) then
    s.modWave k fun w => { w with log := w.log.map fun e => if e.serial == serial then { e with lanes := e.lanes ++ ls } else e }
  else s.modWave k fun w => { w with log := w.log ++
    [{ access := x, word := (s.wordAt k pc).1, literals := (s.wordAt k pc).2, pc := pc, serial := serial, lanes := ls }] }

/-- THE ACCESS OF AN INSTRUCTION: `oob` writes of its out-of-bounds lanes, `qs` its lanes that reach memory. Lanes on good
pages complete, others go to one operand-log entry, and the destination is pending until every lane is written (R96,
R207). `next` is where a lane goes that has consumed poison. -/
def State.access (s : State) (c : Ctx) (x : Access) (marks : Nat → List Dst) (oob : List (Dst × Reg))
    (qs : List LaneReq) (next : SlotAddr) : State :=
  let p := s.accessLanes c.k x s.serial marks s.cur.pc qs
  let trapped := p.traps.map (·.1)
  let waiting := p.waiting + p.logged.length
  let lanes := (qs.map (·.lane)).flatMap c.lr.mirror
  let ms := (lanes.filter (fun l => !trapped.contains l || p.writes.any (fun w => (marks l).contains w.1))).flatMap marks
  let all := (oob.map (·.1) ++ ms).eraseDups
  let s := if all.isEmpty then { p.s with serial := p.s.serial + 1 } else (p.s.pendOpen c.k all (oob ++ p.writes) waiting).1
  let s := s.logLanes c.k x p.s.serial s.cur.pc p.logged
  let s := p.traps.foldl (fun s (l, t) => s.raiseTrap c.k l t) s
  p.poisoned.foldl (fun s (l, va) =>
    (c.lr.mirror l).foldl (fun s l =>
      if c.lr.rbk then s.consume c.k l va else (s.modThread c.k l (·.goTo next)).consume c.k l va) s) s

/-- The operand log holds a lane of the thread (R214). -/
def Wave.logHolds (w : Wave) (lane : Nat) : Bool := w.log.any (fun e => e.lanes.any (fun l => l.lane == lane))

/-- An entry of the operand log holds this 128-byte line: an image of 144 bytes has two (R212, R214). -/
def LogEntry.holdsLine (e : LogEntry) (va : Nat) : Bool :=
  e.lanes.any fun l => l.va.toNat / 128 ≤ va / 128 && va / 128 ≤ (l.va.toNat + max 1 e.access.size - 1) / 128

/-- The operand log holds this 128-byte line (R214). -/
def Wave.logLine (w : Wave) (va : Nat) : Bool := w.log.any (·.holdsLine va)

/-- An entry of another instruction holds this line. -/
def Wave.logLineOther (w : Wave) (serial va : Nat) : Bool := w.log.any fun e => e.serial != serial && e.holdsLine va

end Sys2Proof.Machine
end

