-- ==== Sys2Proof/Machine/Memory.lean ====
section
/-!
DEFINITION. Memory instructions, class 0x6 (16_isa_memory_sync.md, R434 to R449).
-/

namespace Sys2Proof.Machine

/-! ### Forms -/

/-- SIZE as bytes; ORDER and SCOPE of the MEM layout (R358). -/
def memSize (f : Fields) : Nat := 2 ^ modField f 0 3
def memScope (f : Fields) : Scope := scopeOf (modField f 4 3)
def memAop (f : Fields) : Nat := modField f 9 4

/-- The access of LD, ST, ATOM and their scratchpad forms (R438). -/
def memAccessOf (kind : AccessKind) (f : Fields) : Access :=
  { kind := kind, size := memSize f, acq := modBit f 7, rel := modBit f 8, scope := memScope f }

/-- Registers that hold a datum of `n` bytes (R437). -/
def regsFor (n : Nat) : Nat := max 1 (n / 4)

/-- The address of a record-addressed lane (R435). -/
def Ctx.recAddress (c : Ctx) (f : Fields) (permitted : BufRec → Bool) (n : Nat) (index : Bool) (lane : Nat) : LaneAddr :=
  let r := c.bufRec f.a
  r.address (permitted r) n (if index then (c.c32 lane f).val.toNat else 0) (c.b32 lane f).val.toInt

/-- The operands of a record-addressed lane beside its record, for the comparison of a protected pair (R235). -/
def Ctx.recOperands (c : Ctx) (f : Fields) (lane : Nat) : List Nat := [(c.b32 lane f).val.toNat, (c.c32 lane f).val.toNat]

/-- The low `n` bytes of an operand group (R437). -/
def Ctx.datum (c : Ctx) (lane : Nat) (o : Operand) (n : Nat) : Nat :=
  groupNat (c.group lane o (regsFor n)) % 2 ^ (8 * n)

/-- The marks of a destination group of `n` registers. -/
def Ctx.markList (c : Ctx) (o : Operand) (n lane : Nat) : List Dst := (List.range n).filterMap (c.dst lane o)

/-- The requests of the lanes that reach memory, and the lanes that are out of bounds. -/
def reqsOf (addr : Nat → LaneAddr) (data : Nat → Nat) (ls : List Nat) : List LaneReq × List Nat :=
  (ls.filterMap fun l => match addr l with | .va a => some ⟨l, a, data l⟩ | _ => none,
   ls.filter fun l => match addr l with | .oob => true | _ => false)

/-- OOB where a lane is out of bounds (R271). -/
def State.flagOob (s : State) (k : Nat) (oob : List Nat) : State := if oob.isEmpty then s else s.setWstat k 0

/-- A record-addressed access: its lanes, the zero of the out-of-bounds ones, then the access. -/
def State.recAccess (s : State) (c : Ctx) (f : Fields) (x : Access) (addr : Nat → LaneAddr) (data : Nat → Nat)
    (results : Nat) (ls : List Nat) : State :=
  let (qs, oob) := reqsOf addr data ls
  let marks := c.markList f.d results
  let zeros := (oob.flatMap (fun l => laneWrites c.lr x l marks (failRegs x.size false))).map fun w =>
    (w.1, { w.2 with x := false })
  (s.flagOob c.k oob).access c x marks zeros qs c.next

/-! ### Global loads, stores, atomic operations -/

/-- LD R440. -/
def execLd (f : Fields) (s : State) : Host.Outcome State Fault Refusal :=
  let n := memSize f
  .next (s.issue .ld f (fun c l => (c.recAddress f BufRec.rdp n true l).check s.cur.pc) fun c ls s =>
    s.recAccess c f (memAccessOf (.load (modBit f 3)) f) (c.recAddress f BufRec.rdp n true) (fun _ => 0) (regsFor n) ls)

/-- A lane of a store goes to a page of MT 5: the store takes a safe slot (R225). -/
def Ctx.storesToMt5 (c : Ctx) (f : Fields) : Bool :=
  (c.executing f).any fun l =>
    match c.recAddress f BufRec.wrp (memSize f) true l with
    | .va a => (match (c.s.translate c.lr.pasid a .write).2 with | .ok _ mt => mt == 5 | _ => false)
    | _ => false

/-- ST R440. -/
def execSt (f : Fields) (s : State) : Host.Outcome State Fault Refusal :=
  let n := memSize f
  .next (s.issuePaired .st f (cycles := if s.ctx.storesToMt5 f then 3 else 1) (fun c l => (c.recAddress f BufRec.wrp n true l).check s.cur.pc)
    (fun c l => [(c.recAddress f BufRec.wrp n true l).code, c.datum l f.d n]) fun c ls s =>
      let s := if !ls.isEmpty && modBit f 8 && 2 ≤ modField f 4 3 then s.spoil c.w.crew else s
      s.recAccess c f (memAccessOf .store f) (c.recAddress f BufRec.wrp n true) (fun l => c.datum l f.d n) 0 ls)

/-- LDK R442: with a scalar destination only the lowest executing lane accesses, once. -/
def execLdk (f : Fields) (s : State) : Host.Outcome State Fault Refusal :=
  let n := memSize f
  let scalar := match f.d with | .s _ => true | _ => false
  let acts := fun (c : Ctx) (l : Nat) => !scalar || (c.executing f).head? == some l
  .next (s.issue .ldk f (fun c l => if acts c l then (c.recAddress f BufRec.rdp n true l).check s.cur.pc else none)
    fun c ls s =>
      s.recAccess c f { kind := .load false, size := n, acq := false, rel := false, scope := .wv }
        (c.recAddress f BufRec.rdp n true) (fun _ => 0) (regsFor n) (ls.filter (acts c)))

/-- The data of an atomic operation: for CAS the compare value and the new value (R365, R444). -/
def Ctx.atomDatum (c : Ctx) (lane : Nat) (o : Operand) (f : Fields) : Nat :=
  let n := memSize f
  if memAop f = 9 then groupNat (c.group lane o (2 * regsFor n)) else c.datum lane o n

/-- ATOM R445. -/
def execAtom (f : Fields) (s : State) : Host.Outcome State Fault Refusal :=
  let n := memSize f
  .next (s.issuePaired .atom f (fun c l => (c.recAddress f BufRec.atp n true l).check s.cur.pc)
    (fun c l => [(c.recAddress f BufRec.atp n true l).code, c.atomDatum l f.e f]) (cycles := 3) fun c ls s =>
      let s := if ls.isEmpty then s else s.spoil c.w.crew
      s.recAccess c f (memAccessOf (.atom (BitVec.ofNat 4 (memAop f))) f) (c.recAddress f BufRec.atp n true)
        (fun l => c.atomDatum l f.e f) (regsFor n) ls)

/-! ### Scratchpad -/

/-- A thread reads `n` bytes of the window; none from a line with poison (R249). -/
def State.spLoad (s : State) (k lane c o n : Nat) (acq : Bool) (sc : Scope) : State × Option Nat :=
  let s := s.pin c (o / 4096)
  if s.spPoisonIn c (o / 128 * 128) 128 then (s, none)
  else ((if acq then s.acquire k lane sc (spKey c o) n else s), some (s.spNat c o n))

/-- A thread writes bytes of the window, with its release tags. -/
def State.spThreadStore (s : State) (k lane c o : Nat) (bs : List Byte) (rmw rel : Bool) (sc : Scope) : State :=
  let me := s.agent k lane sc
  (s.spStore c o bs).tagBytes (spKey c o) bs.length (fun t => rmw || t.sameAgent me) (s.heads k lane rel sc)

/-- The lanes that met poison trap before their next issue (R249); scratchpad reads give %tval 0. -/
def State.consumeAll (s : State) (c : Ctx) (ls : List Nat) : State :=
  let next := c.next
  ls.foldl (fun s l =>
    if c.lr.rbk then s.consume c.k l 0 else (s.modThread c.k l (·.goTo next)).consume c.k l 0) s

/-- Lanes that read the window one after the other: `step` answers the value, or none on poison. The results are
scoreboarded. -/
def State.spRead (s : State) (c : Ctx) (f : Fields) (n : Nat) (sx : Bool) (ls : List Nat)
    (step : State → Nat → State × Option Nat) : State :=
  let r := ls.foldl (fun (acc : State × List (Dst × Reg) × List Nat) l =>
    match step acc.1 l with
    | (s, some v) => (s, acc.2.1 ++ (c.lr.mirror l).flatMap (fun l => (c.markList f.d (regsFor n) l).zip (loadRegs n sx v)), acc.2.2)
    | (s, none) =>
      (s, acc.2.1 ++ (c.lr.mirror l).flatMap (fun l => (c.markList f.d (regsFor n) l).zip (failRegs n false)),
       acc.2.2 ++ c.lr.mirror l)) (s, [], [])
  (r.1.writeVar c.k r.2.1).consumeAll c r.2.2

/-- LDS R441. -/
def execLds (f : Fields) (s : State) : Host.Outcome State Fault Refusal :=
  let n := memSize f
  .next (s.issue .lds f (fun c l => c.spCheck (c.spOffset l f) n) fun c ls s =>
    s.spRead c f n (modBit f 3) (ls.filter c.primary) fun s l =>
      s.spLoad c.k l c.w.crew (c.spOffset l f) n (modBit f 7) (memScope f))

/-- Lanes that write `n` bytes at offsets of the window are one write of the sectors that they cover together, whose poison goes (R246). -/
def State.spCoalesced (s : State) (c n : Nat) (offs : List Nat) : State :=
  ((offs.map (· / 32)).eraseDups).foldl (fun s k =>
    if (List.range 32).all fun b => offs.any fun o => o ≤ 32 * k + b && 32 * k + b < o + n then s.spSetPoison c k false else s) s

/-- STS R441: ascending lanes, so that the highest lane's value stays. -/
def execSts (f : Fields) (s : State) : Host.Outcome State Fault Refusal :=
  let n := memSize f
  .next (s.issuePaired .sts f (fun c l => c.spCheck (c.spOffset l f) n)
    (fun c l => [c.spOffset l f, c.datum l f.d n]) fun c ls s =>
      (ls.foldl (fun s l => s.spThreadStore c.k l c.w.crew (c.spOffset l f) (leBytes (c.datum l f.d n) n) false
        (modBit f 8) (memScope f)) s).spCoalesced c.w.crew n (ls.map fun l => c.spOffset l f))

/-- ATOMS R446: ascending lanes, each reading the one before. -/
def execAtoms (f : Fields) (s : State) : Host.Outcome State Fault Refusal :=
  let n := memSize f
  .next (s.issuePaired .atoms f (fun c l => c.spCheck (c.spOffset l f) n)
    (fun c l => [c.spOffset l f, c.atomDatum l f.c f]) fun c ls s =>
      s.spRead c f n false ls fun s l =>
        let o := c.spOffset l f
        match s.spLoad c.k l c.w.crew o n (modBit f 7) (memScope f) with
        | (s, some m) =>
          (match atomicWrite (memAop f) (8 * n) m (c.atomDatum l f.c f) with
           | some v => s.spThreadStore c.k l c.w.crew o (leBytes v n) true (modBit f 8) (memScope f)
           | none => s, some m)
        | (s, none) => (s, none))

/-! ### Full/empty accesses -/

/-- A lane of a line access: its thread's lane, its offset, its data. -/
abbrev LineLane := Nat × Nat × Nat

/-- The line access of STF: every lane's bytes, then F := 1 (R443, R295). -/
def State.fullStore (s : State) (k c n line : Nat) (ls : List LineLane) : State :=
  let s := ls.foldl (fun s (l, o, d) => s.spThreadStore k l c o (leBytes d n) false true .cr) (s.pin c (line / 32))
  (s.spCoalesced c n (ls.map fun e => e.2.1)).setSpFull c line true

/-- The line access of LDE, an acquire at CR: the value of each lane, none on poison, then F := 0 (R295, R443). -/
def State.emptyLoad (s : State) (k c n line : Nat) (ls : List LineLane) : State × List (Nat × Option Nat) :=
  let r := ls.foldl (fun (acc : State × List (Nat × Option Nat)) (l, o, _) =>
    match acc.1.spLoad k l c o n true .cr with
    | (s, v) => (s, acc.2 ++ [(l, v)])) (s.pin c (line / 32), [])
  (r.1.setSpFull c line false, r.2)

/-- The results of an LDE arrive at its scoreboard entry; lanes on poison trap before their next issue. -/
def State.emptyArrive (s : State) (k n serial : Nat) (vs : List (Nat × Option Nat)) (late : Bool) : State :=
  let ws := vs.flatMap fun (l, v) =>
    ((s.wave k).marksOf serial l).zip (match v with | some v => loadRegs n false v | none => failRegs n false)
  let s := s.pendArrive k serial vs.length ws
  if late then vs.foldl (fun s (l, v) => if v.isNone then s.consume k l 0 else s) s else s

/-- LDE and STF: lines whose F admits the access are served now; the lanes of the others block (R443). -/
def fullEmptyBody (store : Bool) (n : Nat) (f : Fields) (c : Ctx) (ls : List Nat) (s : State) : State :=
  let serial := s.serial
  let lanes := ls.flatMap c.lr.mirror
  let (s, serial) :=
    if store then ({ s with serial := serial + 1 }, serial)
    else s.pendOpen c.k (lanes.flatMap (c.markList f.d (regsFor n))) [] lanes.length
  let data := fun l => if store then c.datum l f.d n else 0
  let lines := (ls.map (fun l => c.spOffset l f / 128)).eraseDups
  lines.foldl (fun s line =>
    let here := (ls.filter (fun l => c.spOffset l f / 128 == line))
    let all := if store then here else here.flatMap c.lr.mirror
    let reqs := all.map (fun l => (l, c.spOffset l f, data l))
    let s := s.pin c.w.crew (line / 32)
    if s.spFull c.w.crew line != store then
      if store then s.fullStore c.k c.w.crew n line reqs
      else
        let r := s.emptyLoad c.k c.w.crew n line reqs
        (r.1.emptyArrive c.k n serial r.2 false).consumeAll c ((r.2.filter (fun e => e.2.isNone)).map (·.1))
    else
      (here.flatMap c.lr.mirror).foldl (fun s l => s.modThread c.k l fun t =>
        { t with block := some (.fullEmpty store (c.spOffset l f) n (BitVec.ofNat 128 (data l)) serial) }) s) s

/-- LDE R443. -/
def execLde (f : Fields) (s : State) : Host.Outcome State Fault Refusal :=
  let n := memSize f
  .next (s.issue .lde f (fun c l => c.spCheck (c.spOffset l f) n) fun c ls s =>
    fullEmptyBody false n f c (ls.filter c.primary) s)

/-- STF R443. -/
def execStf (f : Fields) (s : State) : Host.Outcome State Fault Refusal :=
  let n := memSize f
  .next (s.issuePaired .stf f (fun c l => c.spCheck (c.spOffset l f) n)
    (fun c l => [c.spOffset l f, c.datum l f.d n]) fun c ls s => fullEmptyBody true n f c ls s)

/-- The lanes of wave `k` that wait for the same line access as `lane`. -/
def Wave.lineLanes (w : Wave) (serial line : Nat) : List LineLane :=
  w.threads.filterMap fun (l, t) =>
    match t.block with
    | some (.fullEmpty _ o _ d n) => if n == serial && o / 128 == line then some (l, o, d.toNat) else none
    | _ => none

/-- A thread that was blocked goes on at the fall-through of its instruction. -/
def State.unblock (s : State) (k lane : Nat) : State :=
  let lr := s.recOf k
  s.modThread k lane fun t =>
    { t.goTo (s.fallThrough (keyCore k) lr.pasid t.pc) with block := none, since := s.cycle }

/-- F_WAIT_SATISFIED R443: F of the line admits the waiting access, which is performed for all its lanes at once. -/
def State.fullEmptyServe (s : State) (k lane : Nat) : State :=
  let w := s.wave k
  match (w.thread lane).block with
  | some (.fullEmpty store o n _ serial) =>
    let line := o / 128
    let ls := w.lineLanes serial line
    let s := s.pin w.crew (line / 32)
    if s.spFull w.crew line == store || !(s.crew w.crew).resident then s
    else
      let go := fun (s : State) => ls.foldl (fun s e => s.unblock k e.1) s
      if store then go (s.fullStore k w.crew n line (if (s.recOf k).prot then ls.filter (fun e => e.1 % 2 == 0) else ls))
      else
        let r := s.emptyLoad k w.crew n line ls
        (go r.1).emptyArrive k n serial r.2 true
  | _ => s

/-! ### Fences, cache maintenance, records -/

/-- FENCE R447: a release fence heads the release sequences of the thread's later writes (R286). Waits for held lanes and
for domain acknowledgements are part of readiness (Machine/Ready.lean). -/
def execFence (f : Fields) (s : State) : Host.Outcome State Fault Refusal :=
  let rel := modBit f 8
  let sc := memScope f
  .next (s.issue .fence f noCheck fun c ls s =>
    let s := if !ls.isEmpty && 2 ≤ modField f 4 3 then s.spoil c.w.crew else s
    if rel then
      ls.foldl (fun s l => s.modThread c.k l fun t => { t with fences := (t.fences ++ [({ scope := sc, core := c.core } : ReleaseFence)]).eraseDups }) s
    else s)

/-- The line requests of lanes that reach memory (R94): the lines, each with its lanes. -/
def lineRequests (qs : List LaneReq) : List (List LaneReq) := (linesOf qs).map fun n => qs.filter (fun q => q.va / 128 == n)

/-- The translation of a line request for reading. -/
def State.translateLine (s : State) (pasid : BitVec 20) (qs : List LaneReq) : State × Xlat :=
  s.translate pasid ((qs.head?.map (·.va)).getD 0) .read

/-- PREF R448: a hint. It makes its line requests (R94) and never traps (R272); lanes out of bounds set their flag (R271). It
performs no event (R310). -/
def execPref (f : Fields) (s : State) : Host.Outcome State Fault Refusal :=
  let n := memSize f
  .next (s.issue .pref f noCheck fun c ls s =>
    let (qs, oob) := reqsOf (c.recAddress f BufRec.rdp n true) (fun _ => 0) ls
    (lineRequests qs).foldl (fun s l => (s.translateLine c.lr.pasid l).1) (s.flagOob c.k oob))

/-- CWB, CINV R448: no value changes; a denied page traps, an absent one does nothing. -/
def cacheBody (n : Nat) (f : Fields) (c : Ctx) (ls : List Nat) (s : State) : State :=
  let (qs, oob) := reqsOf (c.recAddress f BufRec.rdp n true) (fun _ => 0) ls
  (lineRequests qs).foldl (fun s l =>
    match s.translateLine c.lr.pasid l with
    | (s, .denied false) => l.foldl (fun s q => s.raiseTrap c.k q.lane (trapHere 0x0B (BitVec.ofNat 64 q.va) s.cur.pc)) s
    | (s, _) => s) (s.flagOob c.k oob)

/-- CWB R448. -/
def execCwb (f : Fields) (s : State) : Host.Outcome State Fault Refusal :=
  let n := memSize f
  .next (s.issue .cwb f (fun c l => (c.recAddress f BufRec.rdp n true l).check s.cur.pc) (cacheBody n f))

/-- CINV R448. -/
def execCinv (f : Fields) (s : State) : Host.Outcome State Fault Refusal :=
  let n := memSize f
  .next (s.issue .cinv f (fun c l => (c.recAddress f BufRec.rdp n true l).check s.cur.pc) (cacheBody n f))

/-- BREC R449: four registers, each with the X of what it is made of. -/
def execBrec (f : Fields) (s : State) : Host.Outcome State Fault Refusal :=
  .next (s.alu .brec f 4 fun c l =>
    let lo := c.reg l f.a 0
    let hi := c.reg l f.a 1
    let w1 := (hi.val &&& 0x1FFFFFF) |||
      BitVec.ofNat 32 (modField f 0 3 * 2 ^ 25 + modField f 3 3 * 2 ^ 28 + modField f 6 1 * 2 ^ 31)
    c.put l f.d [lo, ⟨w1, hi.x⟩, c.b32 l f, c.c32 l f])

end Sys2Proof.Machine
end

