-- ==== Sys2Proof/Machine/Queue.lean ====
section
/-!
DEFINITION. The engine queues (R140, R173, R455, R456, R464), the batches of copies (R454), and the waves of a crew wherever
they are.
-/

namespace Sys2Proof.Machine

/-- The waves of a crew: resident ones by their keys. -/
def State.crewKeys (s : State) (c : Nat) : List Nat :=
  let x := s.crew c
  if x.resident then x.slots.map (waveKey x.core) else []

/-- A wave of a crew by its number, in its slot or in its shadow record. -/
def State.crewWave (s : State) (c wid : Nat) : Wave :=
  let x := s.crew c
  if x.resident then s.wave (waveKey x.core (x.slots.getD wid 0)) else SMap.get x.saved wid .blank

/-- A change of a wave of a crew, wherever it is. -/
def State.modCrewWave (s : State) (c wid : Nat) (g : Wave → Wave) : State :=
  let x := s.crew c
  if x.resident then s.modWave (waveKey x.core (x.slots.getD wid 0)) g
  else s.setCrew c { x with saved := SMap.put x.saved wid (g (SMap.get x.saved wid .blank)) }

/-- How a queue answers a command (R124, R455, R456). -/
inductive QAnswer where
  | accepted | full | rejected
deriving DecidableEq, Repr

/-- Commands that a queue holds at most (R455). -/
def queueDepth (q : Nat) : Nat :=
  if q < 0x100 then 64 else if q < 0x140 then 1024 else if q = 0x140 then 256 else if q = 0x141 then 16 else 4

/-- What a queue holds: for a task queue its tasks too (R173). -/
def State.queueUsed (s : State) (q : Nat) : Nat :=
  (s.queueAt q).length + if 0x100 ≤ q && q < 0x140 then (s.tqAt (q - 0x100)).queued.length else 0

/-- Whether a queue takes a command of a space: rejected, full (a task queue also refuses with this result), accepted. A
released task that waits enters its queue before any later post (R177). -/
def State.queueAnswer (s : State) (q : Nat) (pasid : BitVec 20) (window : Bool) : QAnswer :=
  if q < 0x100 || q = 0x140 || q = 0x141 then if s.queueUsed q < queueDepth q then .accepted else .full
  else if 0x100 ≤ q && q < 0x140 then
    let t := Off.tq (q - 0x100)
    if s.queueUsed q < 1024 && s.hubField (t + 8) 20 20 == 1 && s.hubField (t + 8) 19 0 == pasid.toNat &&
        !((s.tqAt (q - 0x100)).released != []) then .accepted
    else .full
  else if q = 0x1F0 && s.hubField Off.errinj 20 20 == 1 &&
      (window || s.hubField Off.errinj 19 0 == pasid.toNat) then if s.queueUsed q < 4 then .accepted else .full
  else .rejected

/-- A task queue refuses a command because it is full: FULL counts (R168, R173). -/
def State.countFull (s : State) (q : Nat) : State :=
  if 0x100 ≤ q && q < 0x140 && 1024 ≤ s.queueUsed q then s.hubCount (Off.tq (q - 0x100) + 0x20) 63 32 1 else s

/-- A command enters its queue; a copy that a lane pushes joins the lane's open batch (R454). -/
def State.enqueue (s : State) (q : Nat) (words : List Word) (pasid : BitVec 20) (who : Option Pusher) : State :=
  let batch := match who with
    | some p => ((s.crewWave p.crew p.wid).thread p.lane).batch
    | none => 0
  let s := s.setQueue q (s.queueAt q ++ [{ words := words, pasid := pasid, pusher := who, batch := batch }])
  match who with
  | some p =>
    if q < 0x100 then
      s.modCrewWave p.crew p.wid fun w =>
        w.setThread p.lane { w.thread p.lane with copies := (w.thread p.lane).copies ++ [batch] }
    else s
  | none => s

/-- Sealed batches of the thread that are incomplete (R454). -/
def Thread.sealedOpen (t : Thread) : Nat := ((t.copies.filter (· != t.batch)).eraseDups).length

/-- The oldest of them: a thread opens and fills its batches in order. -/
def Thread.oldestSealed (t : Thread) : Word := (t.copies.find? (· != t.batch)).getD 0

/-- A copy of a batch that BWAIT `b` covers is incomplete. -/
def Thread.batchOpen (t : Thread) (b : Word) : Bool := t.copies.any (fun x => (b - x).toNat < 2 ^ 31)

/-- N for the next batch: it skips 0 (R454). -/
def nextBatch (n : Word) : Word := if n + 1 = 0 then 1 else n + 1

/-- SEAL answers N and opens the next batch. -/
def State.sealNow (s : State) (k lane serial : Nat) : State :=
  let n := (s.thread k lane).batch
  let ws := ((s.wave k).marksOf serial lane).map (fun d => (d, (⟨n, false⟩ : Reg)))
  (s.modThread k lane (fun t => { t with batch := nextBatch n })).pendArrive k serial 1 ws

/-- A blocked SEAL or BWAIT of a thread goes on when its condition holds (R454). -/
def State.batchCheck (s : State) (k lane : Nat) : State :=
  let t := s.thread k lane
  match t.block with
  | some (.bwait b) => if t.batchOpen b then s else s.unblock k lane
  | some (.sealing serial oldest) => if t.copies.contains oldest then s else (s.sealNow k lane serial).unblock k lane
  | _ => s

end Sys2Proof.Machine
end

