-- ==== Sys2Proof/Machine/Barrier.lean ====
section
/-!
DEFINITION. Barriers (R450 to R452) and the checkpoint that a crew barrier takes (R239).
-/

namespace Sys2Proof.Machine

/-- The name of the crew barrier among a thread's arrival counts; entry g of the group table is g. -/
def crewBarrier : Nat := 256

def Thread.arrivals (t : Thread) (b : Nat) : Nat := SMap.get t.ap b 0

/-- The crew of a launch with a number. -/
def State.crewNumbered (s : State) (launch number : Nat) : Option Nat :=
  (s.crews.find? fun e => e.2.live && e.2.launch == launch && e.2.number == number).map (·.1)

/-- The member waves of a barrier, as crew and wave number; `c` is the crew that asks. A crew that has ended has no live
thread. -/
def State.members (s : State) (c b : Nat) : List (Nat × Nat) :=
  let x := s.crew c
  if b = crewBarrier then
    (List.range (s.launchAt x.launch).record.creww).map (fun i => (c, i))
  else
    (SMap.get (s.launchAt x.launch).groups b []).filterMap fun m =>
      (s.crewNumbered x.launch (m % 2 ^ 24)).map (fun c => (c, m / 2 ^ 24))

/-- The completed-phase count of a barrier (R450). -/
def State.phases (s : State) (c b : Nat) : Nat :=
  if b = crewBarrier then (s.crew c).cp else SMap.get (s.launchAt (s.crew c).launch).cps b 0

def State.setPhases (s : State) (c b n : Nat) : State :=
  if b = crewBarrier then s.modCrew c (fun x => { x with cp := n })
  else s.modLaunch (s.crew c).launch (fun l => { l with cps := SMap.set l.cps b n 0 })

/-- The context of a wave: what a save keeps (R221). Bundles, latches, starve counts and holds are not context. -/
def Wave.context (w : Wave) (cycle : Nat) : Wave :=
  let w := w.landEvery
  { w with
    bundles := [], regroupDue := true
    threads := w.threads.map fun (l, t) => (l, { t with starve := 0, hold := 0, issued := false, wasReady := false, since := cycle }) }

/-! ### Context slots and log areas of a vault (R156, R157, R240) -/

/-- Context slots of every vault. -/
def State.contextSlots (s : State) : Nat := (s.hubField Off.vshadow 4 0 - 4) / 6

/-- The log areas of vault `v` that crews other than `c` hold: six to each context slot. -/
def State.areasHeld (s : State) (v c : Nat) : List Nat :=
  s.crews.filterMap fun e =>
    match Crew.area e.2 with
    | some a => if e.1 ≠ c && e.2.live && a / 18 == v then some (a % 18) else none
    | none => none

/-- The context slots of vault `v` that are set aside for logs. -/
def State.logSlots (s : State) (v c : Nat) : List Nat := ((s.areasHeld v c).map (· / 6)).eraseDups

/-- The partition is swapped out with crews whose state lies in a context slot. -/
def State.swappedOut (s : State) (p : Nat) : Bool :=
  !s.resident p && s.crews.any fun e =>
    e.2.live && !e.2.resident && e.2.slots != [] && (s.launchAt e.2.launch).record.part == p

/-- Context slots of vault `v` that swapped-out partitions hold. -/
def State.slotsSwapped (s : State) (v : Nat) : Nat :=
  ((List.range 16).filter fun p => (s.partClusters p).testBit v && s.swappedOut p).length

/-- The log area of vault `v` that crew `c` takes: one of a slot that is set aside, or the first of a free slot. Which of those that are
free is the model's choice: the lowest (notes/assumptions/66.md). -/
def State.freeArea (s : State) (v c : Nat) : Option Nat :=
  let set := s.logSlots v c
  (((List.range 18).find? fun i => set.contains (i / 6) && !(s.areasHeld v c).contains i).or
    (if s.slotsSwapped v + set.length < s.contextSlots then (List.range 18).find? fun i => !set.contains (i / 6) else none)).map
      (18 * v + ·)

def State.areaFree (s : State) (v c : Nat) : Bool := (s.freeArea v c).isSome

/-- The log area of a crew from a checkpoint on: in the vault of its present cluster. -/
def State.areaFor (s : State) (c : Nat) : Option Nat :=
  let v := (s.crew c).core / 4
  match (s.crew c).area with
  | some a => if a / 18 = v then some a else s.freeArea v c
  | none => s.freeArea v c

/-- The bits in the log of a crew (R240): the blocks of 32 rows of 33 bits in 32 lanes, and the scratchpad lines with their F bits, that
were written since its checkpoint. -/
def State.logBits (s : State) (c : Nat) : Nat :=
  ((s.crewKeys c).map fun k => (s.wave k).touched.length * (32 * 32 * 33)).sum + (s.crew c).logged.length * 1025

/-- A crew whose log exceeds 1 MiB ends its interval's eligibility (R242). -/
def State.limitLog (s : State) (c : Nat) : State := if 2 ^ 23 < s.logBits c then s.spoil c else s

/-- A checkpoint of an RBK crew (R239 to R241): held lines are written, a new interval begins, eligible
where the crew has a log area. -/
def State.checkpoint (s : State) (c : Nat) : State :=
  if (s.launchAt (s.crew c).launch).record.rbk then
    let s := s.releaseHeld c
    let x := s.crew c
    let n := (s.launchAt x.launch).record.creww
    let waves := (List.range n).map (fun i => (i, { (s.crewWave c i).context s.cycle with touched := [] }))
    let pages := x.pages
    let bytes := (x.pages.flatMap fun e => (List.range 4096).map (fun i => 4096 * e.1 + i)).foldl
      (fun m o => SMap.set m o (s.spByte c o) 0) []
    let fbits := (x.pages.flatMap fun e => (List.range 32).map (fun i => 32 * e.1 + i)).foldl
      (fun m j => SMap.set m j (s.spFull c j) false) []
    let poisoned := (x.pages.flatMap fun e => (List.range 128).map (fun i => 128 * e.1 + i)).foldl
      (fun m k => SMap.set m k (s.spPoisonIn c (32 * k) 32) false) []
    let area := s.areaFor c
    let s := (s.crewKeys c).foldl (fun s k => s.modWave k fun w => { w with touched := [] }) s
    s.setCrew c { x with
      logged := []
      ckpt := some { waves := waves, bytes := bytes, poisoned := poisoned, fbits := fbits, pages := pages
                     tags := s.releases.filter fun e => spKey c 0 ≤ e.1 && e.1 < spKey (c + 1) 0 }
      area := area, eligible := area.isSome, rollbacks := 0 }
  else s

/-- Every live member thread has arrived at the next phase, and there is one (R450); the checkpoint of an RBK crew also waits
for the copies that the crew pushed (R239), and for the values that its threads have asked for outside the package. -/
def State.phaseComplete (s : State) (c b : Nat) : Bool :=
  let ts := (s.members c b).flatMap fun m => (s.crewWave m.1 m.2).threads.map (·.2)
  let alive := ts.filter (fun t => !t.exited)
  let copied := b ≠ crewBarrier || !(s.launchAt (s.crew c).launch).record.rbk ||
    (ts.all (fun t => t.copies.isEmpty) &&
      s.outstanding.all fun o => o.who ≠ .thread || o.access.kind.isStore || !(s.crewKeys c).contains o.waveKey)
  !alive.isEmpty && alive.all (fun t => s.phases c b < t.arrivals b) && copied

/-- What a waiting thread of a barrier does when it can (R451): an arrival once the phase before is complete, a departure
once its own is. -/
def Thread.barrierMove (t : Thread) (b cp : Nat) (next : SlotAddr) (cycle : Nat) : Thread :=
  match t.block with
  | some (.barrier i arrive depart) =>
    if i ≠ b || cp < t.arrivals b then t
    else
      let t := if arrive then { t with ap := SMap.set t.ap b (t.arrivals b + 1) 0 } else t
      if arrive && depart then { t with block := some (.barrier b false true) }
      else { t.goTo next with block := none, since := cycle }
  | _ => t

/-- The member threads move as far as the phase count lets them. -/
def State.barrierMoves (s : State) (c b : Nat) : State :=
  let cp := s.phases c b
  (s.members c b).foldl (fun s m =>
    let x := s.crew m.1
    let lr := (s.launchAt x.launch).record
    s.modCrewWave m.1 m.2 fun w =>
      { w with threads := w.threads.map fun (l, t) =>
          (l, t.barrierMove b cp (s.fallThrough x.core lr.pasid t.pc) s.cycle) }) s

/-- Moves, and the phases that complete; a completed phase of the crew barrier takes a checkpoint (R239). -/
def State.settle (s : State) (c b fuel : Nat) : State :=
  match fuel with
  | 0 => s
  | n + 1 =>
    let s := s.barrierMoves c b
    if s.phaseComplete c b then
      let s := (s.setPhases c b (s.phases c b + 1)).barrierMoves c b
      (if b = crewBarrier then s.checkpoint c else s).settle c b n
    else s

/-- Every barrier that a wave takes part in: after a thread has ended (R450). -/
def State.settleAll (s : State) (k : Nat) : State :=
  let w := s.wave k
  let number := (s.crew w.crew).number
  let groups := (s.launchAt w.launch).groups.filter (fun g => g.2.contains (number + w.wid * 2 ^ 24))
  (groups.map (·.1)).foldl (fun s g => s.settle w.crew g 3) (s.settle w.crew crewBarrier 3)

/-- The barrier that BAR, BARA or BARW names; none where the group form is illegal (R452). -/
def Ctx.barrierOf (c : Ctx) (f : Fields) : Option Nat :=
  if modBit f 0 then
    let g := modField f 1 8
    match SMap.find c.launch.groups g with
    | some ms => if ms.contains ((c.s.crew c.w.crew).number + c.w.wid * 2 ^ 24) then some g else none
    | none => none
  else some crewBarrier

/-- The instruction is illegal in this place: cause 0x01 with its word (R331, R370). -/
def illegalHere (o : Op) (f : Fields) (pc : SlotAddr) : PTrap := trapHere 1 ((o.raw f).word.setWidth 64) pc

def barrierBody (arrive depart : Bool) (f : Fields) (c : Ctx) (ls : List Nat) (s : State) : State :=
  match c.barrierOf f with
  | none => s
  | some b =>
    if ls.isEmpty then s
    else
      let s := if b = crewBarrier then s else s.spoil c.w.crew
      let s := ls.foldl (fun s l => s.modThread c.k l fun t => { t with block := some (.barrier b arrive depart) }) s
      s.settle c.w.crew b 3

def barrierCheck (o : Op) (f : Fields) (c : Ctx) (_ : Nat) : Option PTrap :=
  if (c.barrierOf f).isNone then some (illegalHere o f c.s.cur.pc) else none

/-- BAR R451. -/
def execBar (f : Fields) (s : State) : Host.Outcome State Fault Refusal :=
  .next (s.issue .bar f (barrierCheck .bar f) (barrierBody true true f))

/-- BARA R451. -/
def execBara (f : Fields) (s : State) : Host.Outcome State Fault Refusal :=
  .next (s.issue .bara f (barrierCheck .bara f) (barrierBody true false f))

/-- BARW R451. -/
def execBarw (f : Fields) (s : State) : Host.Outcome State Fault Refusal :=
  .next (s.issue .barw f (barrierCheck .barw f) (barrierBody false true f))

end Sys2Proof.Machine
end

