-- ==== Sys2Proof/Machine/Float.lean ====
section
/-!
DEFINITION. Floating-point arithmetic, class 0x3 (15_isa_float.md, R414 to R423), with the converter generator of a quarter
(R320, R433) and the random bytes of the stochastic modes (R320, R321).
-/

namespace Sys2Proof.Machine

/-! ### Random bytes -/

/-- The state of the converter generator of the quarter of wave `k`: its seed until it advances; never 0 (R320). -/
def State.generator (s : State) (k : Nat) : Word :=
  let seed := Config.entropySeed (quarterOf k) (SMap.get s.reseeds (keyCore k) 0)
  (SMap.find s.gens (quarterOf k)).getD (if seed = 0 then 1 else seed)

/-- One advance of the generator (R320). -/
def advanced (w : Word) : Word :=
  let w := w ^^^ (w <<< 13)
  let w := w ^^^ (w >>> 17)
  w ^^^ (w <<< 5)

/-- An instruction instance that issues in mode 5 advances the generator once, before use. Answers the word to use. -/
def State.draw (s : State) (k rnd : Nat) : State × Word :=
  if rnd = 5 then
    let w := advanced (s.generator k)
    ({ s with gens := SMap.put s.gens (quarterOf k) w }, w)
  else (s, 0)

/-- The random byte of sub-element `j` of a lane: SRI from the word `w`, SRX from the registers `rs` (R320, R321, R428). -/
def Ctx.randomByte (c : Ctx) (rnd : Nat) (w : Word) (rs : List Reg) (lane j : Nat) : Nat :=
  if rnd = 5 then
    let l := if c.lr.prot then lane / 2 * 2 else lane
    let v := w.rotateLeft (5 * l % 32)
    field (if j < 4 then v else ~~~v).toNat (8 * (j % 4) + 7) (8 * (j % 4))
  else field (groupNat rs) (8 * j + 7) (8 * j)

/-- A rounding instruction: `rnd` is its mode, `rs` the registers of its r operand in a lane, and `g` computes the writes of a
lane from the mode of a sub-element and the X of r. Results land after `lat` cycles, or by scoreboard where it is none. -/
def State.rounding (s : State) (o : Op) (f : Fields) (lat : Option Nat) (rnd : Nat) (rs : Ctx → Nat → List Reg)
    (check : Ctx → Nat → Option PTrap) (g : Ctx → Nat → (Nat → Mode) → Bool → List (Dst × Reg)) : State :=
  s.issue o f check fun c ls s =>
    let (s, w) := s.draw c.k rnd
    let ws := ls.flatMap fun l =>
      let r := if rnd = 6 then rs c l else []
      g c l (fun j => ⟨rnd, if rnd = 5 || rnd = 6 then c.randomByte rnd w r l j else 0⟩) (r.any (·.x))
    match lat with
    | some n => s.writeFixed c.k n ws
    | none => s.writeVar c.k ws

/-- RND of the FA layout and of the other float instructions (R358, R362, R363). -/
def rndField (f : Fields) : Nat := modField f 3 3

/-! ### Packed types (R313) -/

/-- The element format of TYPE. -/
def typeFmt (t : Nat) : FloatFmt :=
  match t with | 0 => .f32 | 1 => .f16 | 2 => .b16 | 3 => .e4m3 | _ => .e5m2

/-- The sub-elements of a 32-bit lane in a format. -/
def subElements (width : Nat) : Nat := 32 / width

/-- Sub-element `j` of a lane (R313). -/
def subElement (width : Nat) (v : Word) (j : Nat) : Nat := field v.toNat (width * j + width - 1) (width * j)

/-- A lane from its sub-elements. -/
def packElements (width : Nat) (es : List Nat) : Word :=
  BitVec.ofNat 32 (es.foldr (fun e n => e % 2 ^ width + 2 ^ width * n) 0)

/-- Absolute value, then negation, of an encoding (R416). -/
def FloatFmt.withSign (F : FloatFmt) (abs neg : Bool) (code : Nat) : Nat :=
  let top := 2 ^ (F.e + F.m)
  let code := if abs then code % top else code
  if neg then (if code < top then code + top else code - top) else code

/-- Sub-element `j` of source A, of source B after their modifiers. -/
def faA (F : FloatFmt) (f : Fields) (v : Word) (j : Nat) : Nat :=
  F.withSign (modBit f 9) (modBit f 7) (subElement F.width v j)
def faB (F : FloatFmt) (f : Fields) (v : Word) (j : Nat) : Nat :=
  F.withSign (modBit f 10) (modBit f 8) (subElement F.width v j)

/-- FADD, FSUB, FMUL, FFMA of one lane: each sub-element exact, then rounded once (R418, R325). `e` is the exact operation,
given whether the mode is RD. -/
def floatLane (f : Fields) (third : Bool) (e : Num → Num → Num → Bool → Num) (c : Ctx) (l : Nat) (m : Nat → Mode) (rx : Bool) :
    List (Dst × Reg) :=
  let F := typeFmt (modField f 0 3)
  let a := c.a32 l f
  let b := c.b32 l f
  let k := if third then c.c32 l f else .zero
  let rs := (List.range (subElements F.width)).map fun j =>
    let kc := F.withSign false (modBit f 11) (subElement F.width k.val j)
    F.round (m j) (modBit f 6)
      (e (F.value (faA F f a.val j)) (F.value (faB F f b.val j)) (F.value kc) ((m j).code == 3))
  c.put32 l f.d (packElements F.width (rs.map (·.code))) (a.x || b.x || k.x || rx || rs.any (·.inx))

/-- FADD R418. -/
def execFadd (f : Fields) (s : State) : Host.Outcome State Fault Refusal :=
  .next (s.rounding .fadd f (some 6) (rndField f) (fun c l => [c.c32 l f]) noCheck
    (floatLane f false fun a b _ rd => a.add b rd))

/-- FSUB R418. -/
def execFsub (f : Fields) (s : State) : Host.Outcome State Fault Refusal :=
  .next (s.rounding .fsub f (some 6) (rndField f) (fun c l => [c.c32 l f]) noCheck
    (floatLane f false fun a b _ rd => a.add b.negate rd))

/-- FMUL R418. -/
def execFmul (f : Fields) (s : State) : Host.Outcome State Fault Refusal :=
  .next (s.rounding .fmul f (some 6) (rndField f) (fun c l => [c.c32 l f]) noCheck
    (floatLane f false fun a b _ _ => a.mul b))

/-- FFMA R418: one rounding. -/
def execFfma (f : Fields) (s : State) : Host.Outcome State Fault Refusal :=
  .next (s.rounding .ffma f (some 6) (rndField f) (fun c l => [c.reg l f.e 0]) noCheck
    (floatLane f true fun a b k rd => (a.mul b).add k rd))

/-! ### Minimum, maximum, compare -/

/-- The lesser or the greater of two encodings (R419): a NaN gives way to a number, −0 lies below +0. -/
def FloatFmt.select (F : FloatFmt) (greater : Bool) (a b : Nat) : Rounded :=
  let va := F.value a
  let vb := F.value b
  match va, vb with
  | .nan, .nan => ⟨F.nan, true⟩
  | .nan, _ => ⟨b, false⟩
  | _, .nan => ⟨a, false⟩
  | _, _ =>
    if va.isZero && vb.isZero then ⟨if greater then min a b else max a b, false⟩
    else if va.lt vb != greater then ⟨a, false⟩ else ⟨b, false⟩

/-- FMIN, FMAX of one lane. -/
def selectLane (greater : Bool) (f : Fields) (c : Ctx) (l : Nat) : List (Dst × Reg) :=
  let F := typeFmt (modField f 0 3)
  let a := c.a32 l f
  let b := c.b32 l f
  let rs := (List.range (subElements F.width)).map fun j => F.select greater (faA F f a.val j) (faB F f b.val j)
  c.put32 l f.d (packElements F.width (rs.map (·.code))) (a.x || b.x || rs.any (·.inx))

/-- FMIN R419. -/
def execFmin (f : Fields) (s : State) : Host.Outcome State Fault Refusal := .next (s.alu .fmin f 4 (selectLane false f))

/-- FMAX R419. -/
def execFmax (f : Fields) (s : State) : Host.Outcome State Fault Refusal := .next (s.alu .fmax f 4 (selectLane true f))

/-- The relation of CMP (R420). -/
def Num.compare (cmp : Nat) (a b : Num) : Bool :=
  let un := a == .nan || b == .nan
  match cmp with
  | 0 => !un && !(a.lt b) && !(b.lt a)
  | 1 => un || a.lt b || b.lt a
  | 2 => !un && a.lt b
  | 3 => !un && !(b.lt a)
  | 4 => !un && b.lt a
  | 5 => !un && !(a.lt b)
  | 6 => un
  | _ => !un

/-- FCMP R420. -/
def execFcmp (f : Fields) (s : State) : Host.Outcome State Fault Refusal :=
  .next (s.alu .fcmp f 4 fun c l =>
    let a := c.a32 l f
    let b := c.b32 l f
    let r := (f32Of a.val).compare (modField f 3 3) (f32Of b.val) && !(modBit f 6 && (a.x || b.x))
    putPred l (modField f 7 3) (r && (c.w.thread l).pred (modField f 10 3)))

/-! ### Rounding to integer, classification, scaling -/

/-- FRND of one sub-element (R421). -/
def FloatFmt.integral (F : FloatFmt) (m : Mode) (code : Nat) : Rounded :=
  match F.value code with
  | .nan => ⟨F.nan, true⟩
  | .inf _ => ⟨code, false⟩
  | .fin neg n d =>
    let g := roundAt m neg n d 0
    ⟨(F.round ⟨1, 0⟩ false (.fin neg g.q 1)).code, !g.exact⟩

/-- FRND R421. -/
def execFrnd (f : Fields) (s : State) : Host.Outcome State Fault Refusal :=
  .next (s.rounding .frnd f (some 6) (rndField f) (fun c l => [c.c32 l f]) noCheck fun c l m rx =>
    let F := typeFmt (modField f 0 3)
    let a := c.a32 l f
    let rs := (List.range (subElements F.width)).map fun j => F.integral (m j) (subElement F.width a.val j)
    c.put32 l f.d (packElements F.width (rs.map (·.code))) (a.x || rx || rs.any (·.inx)))

/-- The class bit of an f32 value (R422). -/
def f32Class (w : Word) : Nat :=
  let neg := w.getLsbD 31
  let e := field w.toNat 30 23
  let m := field w.toNat 22 0
  if e = 255 then (if m ≠ 0 then 8 else if neg then 0 else 7)
  else if e = 0 then (if m = 0 then (if neg then 3 else 4) else if neg then 2 else 5)
  else if neg then 1 else 6

/-- FCLASS R422. -/
def execFclass (f : Fields) (s : State) : Host.Outcome State Fault Refusal :=
  .next (s.alu .fclass f 4 fun c l => c.put32 l f.d (BitVec.ofNat 32 (2 ^ f32Class (c.a32 l f).val)) (c.a32 l f).x)

/-- A value times a power of two. -/
def Num.scaled (a : Num) (e : Int) : Num :=
  match a with
  | .fin neg n d => if 0 ≤ e then .fin neg (n * 2 ^ e.toNat) d else .fin neg n (d * 2 ^ (-e).toNat)
  | _ => a

/-- FLDX R423. An exponent beyond 600 either way rounds as 600 does: every f32 lies within 2^300 of 1. -/
def execFldx (f : Fields) (s : State) : Host.Outcome State Fault Refusal :=
  .next (s.rounding .fldx f (some 6) (rndField f) (fun c l => [c.c32 l f]) noCheck fun c l m rx =>
    let a := c.a32 l f
    let b := c.b32 l f
    let r := toF32 (m 0) ((f32Of a.val).scaled (max (-600) (min 600 b.val.toInt)))
    c.put32 l f.d r.val (a.x || b.x || rx || r.x))

end Sys2Proof.Machine
end

