-- ==== Sys2Proof/Machine/Sfu.lean ====
section
/-!
DEFINITION. The special function unit (R326, R327, R424). A function value that is no multiple of 2^-160 is held by the middle
of its cell [n, n + 1) * 2^-160: every decision point of a rounding to f32, midpoints and the bits of R319 included, is a
multiple of 2^-158, so the middle rounds as the value does. Square roots and quotients are exact; for the others the cell is
found with 512, 1024 or 2048 bits and an error bound of 2^20 units, and where that does not decide it the result is a free
value.
-/

namespace Sys2Proof.Machine

/-! ### Fixed-point series; `p` is the number of fraction bits -/

/-- The positions of a cell. -/
def cellBits : Nat := 160

/-- sum of t / (2k + 1) with t shrinking by `z2` / 2^p: the series of atanh at t. -/
def atanhSum (p z2 t k fuel : Nat) : Nat :=
  match fuel with
  | 0 => 0
  | n + 1 => t / (2 * k + 1) + atanhSum p z2 (t * z2 / 2 ^ p) (k + 1) n

/-- 2 atanh z. -/
def twoAtanh (p z : Nat) : Nat := 2 * atanhSum p (z * z / 2 ^ p) z 0 (p / 3 + 8)

/-- ln 2 = 2 atanh (1/3). -/
def lnTwo (p : Nat) : Nat := twoAtanh p (2 ^ p / 3)

/-- The alternating series of arctan (1 / q). -/
def atanSum (q : Nat) (t : Int) (k fuel : Nat) : Int :=
  match fuel with
  | 0 => 0
  | n + 1 => t / (2 * k + 1) + atanSum q (-(t / (q * q))) (k + 1) n

/-- pi by Machin's formula. -/
def piBits (p : Nat) : Nat :=
  let one : Int := 2 ^ p
  (16 * atanSum 5 (one / 5) 0 (p / 4 + 8) - 4 * atanSum 239 (one / 239) 0 (p / 4 + 8)).toNat

/-- The series of exp at y: t * y / k for rising k. -/
def expSum (p y t k fuel : Nat) : Nat :=
  match fuel with
  | 0 => 0
  | n + 1 => t + expSum p y (t * y / 2 ^ p / k) (k + 1) n

def expBits (p y : Nat) : Nat := expSum p y (2 ^ p) 1 (p / 4 + 64)

/-- The series of sin (t = y, k = 1) and cos (t = 1, k = 0) at y. -/
def trigSum (p y2 : Nat) (t : Int) (k fuel : Nat) : Int :=
  match fuel with
  | 0 => 0
  | n + 1 => t + trigSum p y2 (-(t * y2 / 2 ^ p / ((k + 1) * (k + 2)))) (k + 2) n

def sinBits (p y : Nat) : Int := trigSum p (y * y / 2 ^ p) y 1 (p / 4 + 64)
def cosBits (p y : Nat) : Int := trigSum p (y * y / 2 ^ p) (2 ^ p) 0 (p / 4 + 64)

/-- The integer part of a square root, bit by bit. -/
def isqrtFrom (n b r : Nat) : Nat :=
  match b with
  | 0 => r
  | k + 1 => isqrtFrom n k (if (r + 2 ^ k) * (r + 2 ^ k) ≤ n then r + 2 ^ k else r)

/-- The middle of cell `n`. -/
def Num.middle (neg : Bool) (n : Nat) : Num := .fin neg (2 * n + 1) (2 ^ (cellBits + 1))

/-- The cell of a value a * 2^(e - p), known to 2^20 units of a, when that decides it. -/
def cellOf (p : Nat) (a : Int) (e : Int) : Option Nat :=
  let down := 2 ^ ((p : Int) - cellBits - e).toNat
  let lo := (a - 2 ^ 20) / down
  let hi := (a + 2 ^ 20) / down
  if lo = hi ∧ 0 ≤ lo then some lo.toNat else none

/-- The first precision that decides. -/
def decideAt (g : Nat → Option Num) : Option Num := ((g 512).or (g 1024)).or (g 2048)

/-! ### The functions on exact values -/

/-- sqrt (n / d) of a positive value. -/
def sqrtNum (n d : Nat) : Num :=
  let r := isqrtFrom (n * 2 ^ (2 * cellBits) / d) 312 0
  if r * r * d = n * 2 ^ (2 * cellBits) then .fin false r (2 ^ cellBits) else .middle false r

/-- floor (n / d) of a signed value, and the rest over d. -/
def floorRest (neg : Bool) (n d : Nat) : Int × Nat :=
  let v : Int := if neg then -(n : Int) else n
  (v / d, (v % d).toNat)

/-- 2^a. Beyond 2^±300 the value is far outside every f32. -/
def exp2At (neg : Bool) (n d p : Nat) : Option Num :=
  let (i, r) := floorRest neg n d
  let i := max (-300) (min 300 i)
  (cellOf p (expBits p (r * 2 ^ p / d * lnTwo p / 2 ^ p)) i).map (.middle false)

/-- log2 (n / d). -/
def log2At (n d p : Nat) : Option Num :=
  let e := floorLog2 n d
  let n' := if 0 ≤ e then n else n * 2 ^ (-e).toNat
  let d' := if 0 ≤ e then d * 2 ^ e.toNat else d
  let z := (n' - d') * 2 ^ p / (n' + d')
  let v : Int := e * 2 ^ p + (twoAtanh p z * 2 ^ p / lnTwo p : Nat)
  (cellOf p v.natAbs 0).map (.middle (decide (v < 0)))

/-- sin or cos of (n / d), d a power of two: the argument is reduced by pi / 2 with 192 bits more than the result needs (R327). -/
def trigAt (cos : Bool) (neg : Bool) (n d p : Nat) : Option Num :=
  let q := p + 192
  let half := piBits (q + 64) / 2
  let x := n * 2 ^ (q + 64) / d
  let k := x / half
  let r := (x % half) / 2 ^ 256
  let turn := (if cos then k + 1 else k) % 4
  let v := if turn % 2 = 0 then sinBits p r else cosBits p r
  (cellOf p v 0).map (.middle ((turn ≥ 2) != (!cos && neg)))

/-- tanh (n / d) = (e^2x - 1) / (e^2x + 1); from 32 up it lies within 2^-91 of 1. -/
def tanhAt (neg : Bool) (n d p : Nat) : Option Num :=
  if 32 * d ≤ n then some (.fin neg (2 ^ 60 - 1) (2 ^ 60))
  else
    let y := 2 * n * 2 ^ p / d
    let k := y / lnTwo p
    let e := expBits p (y - k * lnTwo p) * 2 ^ k
    (cellOf p ((e - 2 ^ p) * 2 ^ p / (e + 2 ^ p) : Nat) 0).map (.middle neg)

/-! ### Special inputs (R326) -/

/-- The value of a function, whether its result is inexact of itself, or none where it is not decided. -/
abbrev Special := Option (Num × Bool)

def plain (v : Num) : Special := some (v, false)
def flagged (v : Num) : Special := some (v, true)

def frcpValue (a : Num) : Special :=
  match a with
  | .fin neg 0 _ => flagged (.inf neg)
  | _ => plain (Num.div (.fin false 1 1) a)

def frsqValue (a : Num) : Special :=
  match a with
  | .nan | .inf true => plain .nan
  | .inf false => plain (.fin false 0 1)
  | .fin neg n d => if n = 0 then flagged (.inf neg) else if neg then plain .nan else plain (sqrtNum d n)

def fsqrtValue (a : Num) : Special :=
  match a with
  | .nan | .inf true => plain .nan
  | .inf false => plain (.inf false)
  | .fin neg n d => if n = 0 then plain a else if neg then plain .nan else plain (sqrtNum n d)

def fdivValue (a b : Num) : Special :=
  match a, b with
  | .fin _ n _, .fin _ 0 _ => if n = 0 then plain .nan else flagged (Num.div a b)
  | _, _ => plain (Num.div a b)

def fexp2Value (a : Num) : Special :=
  match a with
  | .nan => plain .nan
  | .inf neg => plain (if neg then .fin false 0 1 else .inf false)
  | .fin neg n d =>
    if n % d = 0 then
      let i := max (-300) (min 300 (floorRest neg n d).1)
      plain (Num.dyadic false 1 i)
    else (decideAt (exp2At neg n d)).map (·, false)

def flog2Value (a : Num) : Special :=
  match a with
  | .nan | .inf true => plain .nan
  | .inf false => plain (.inf false)
  | .fin neg n d =>
    if n = 0 then flagged (.inf true)
    else if neg then plain .nan
    else
      let e := floorLog2 n d
      if (if 0 ≤ e then n = d * 2 ^ e.toNat else n * 2 ^ (-e).toNat = d) then plain (Num.ofInt e)
      else (decideAt (log2At n d)).map (·, false)

def trigValue (cos : Bool) (a : Num) : Special :=
  match a with
  | .fin neg n d =>
    if n = 0 then plain (if cos then .fin false 1 1 else a) else (decideAt (trigAt cos neg n d)).map (·, false)
  | _ => plain .nan

def ftanhValue (a : Num) : Special :=
  match a with
  | .nan => plain .nan
  | .inf neg => plain (.fin neg 1 1)
  | .fin neg n d => if n = 0 then plain a else (decideAt (tanhAt neg n d)).map (·, false)

/-- The result of a special function: rounded once, or the free value. -/
def specialResult (op : Nat) (arg : Word) (m : Mode) (v : Special) : Opnd 32 :=
  match v with
  | some (v, x) =>
    let r := toF32 m v
    ⟨r.val, r.x || x⟩
  | none => ⟨Config.freeSpecial op arg, true⟩

/-- A unary function of one lane (R424). -/
def sfuLane (o : Op) (g : Num → Special) (f : Fields) (c : Ctx) (l : Nat) (m : Nat → Mode) (rx : Bool) : List (Dst × Reg) :=
  let a := c.a32 l f
  let r := specialResult o.code.toNat a.val (m 0) (g (f32Of a.val))
  c.put32 l f.d r.val (a.x || rx || r.x)

def State.sfu (s : State) (o : Op) (f : Fields) (g : Num → Special) : State :=
  s.rounding o f none (rndField f) (fun c l => [c.c32 l f]) noCheck (sfuLane o g f)

/-- FRCP R424. -/
def execFrcp (f : Fields) (s : State) : Host.Outcome State Fault Refusal := .next (s.sfu .frcp f frcpValue)
/-- FRSQ R424. -/
def execFrsq (f : Fields) (s : State) : Host.Outcome State Fault Refusal := .next (s.sfu .frsq f frsqValue)
/-- FSQRT R424. -/
def execFsqrt (f : Fields) (s : State) : Host.Outcome State Fault Refusal := .next (s.sfu .fsqrt f fsqrtValue)
/-- FDIV R424. -/
def execFdiv (f : Fields) (s : State) : Host.Outcome State Fault Refusal :=
  .next (s.rounding .fdiv f none (rndField f) (fun c l => [c.c32 l f]) noCheck fun c l m rx =>
    let a := c.a32 l f
    let b := c.b32 l f
    let r := specialResult 0x403 a.val (m 0) (fdivValue (f32Of a.val) (f32Of b.val))
    c.put32 l f.d r.val (a.x || b.x || rx || r.x))
/-- FEXP2 R424. -/
def execFexp2 (f : Fields) (s : State) : Host.Outcome State Fault Refusal := .next (s.sfu .fexp2 f fexp2Value)
/-- FLOG2 R424. -/
def execFlog2 (f : Fields) (s : State) : Host.Outcome State Fault Refusal := .next (s.sfu .flog2 f flog2Value)
/-- FSIN R424. -/
def execFsin (f : Fields) (s : State) : Host.Outcome State Fault Refusal := .next (s.sfu .fsin f (trigValue false))
/-- FCOS R424. -/
def execFcos (f : Fields) (s : State) : Host.Outcome State Fault Refusal := .next (s.sfu .fcos f (trigValue true))
/-- FTANH R424. -/
def execFtanh (f : Fields) (s : State) : Host.Outcome State Fault Refusal := .next (s.sfu .ftanh f ftanhValue)

end Sys2Proof.Machine
end

