-- ==== Sys2Proof/Machine/Convert.lean ====
section
/-!
DEFINITION. Conversions through format slots, and random numbers, class 0x4 (R330 to R332, R337, R426 to R432).
-/

namespace Sys2Proof.Machine

/-! ### Format slots (R330 to R332) -/

/-- A format slot (R330); `rest` is the bits that must be 0. -/
structure Slot where
  fmt : Nat
  pm1 : Nat
  gsz : Nat
  rnd : Nat
  sat : Bool
  semi : Nat
  sce : Bool
  scale : Word
  zp : Int
  rest : Nat
deriving DecidableEq, Repr

def slotOfBits (b : BitVec 128) : Slot :=
  let n := b.toNat
  { fmt := field n 7 0, pm1 := field n 11 8, gsz := field n 13 12, rnd := field n 16 14, sat := b.getLsbD 17,
    semi := field n 20 18, sce := b.getLsbD 21, scale := b.extractLsb' 32 32, zp := sextNat (field n 79 64) 16,
    rest := field n 31 22 + field n 127 80 }

/-- The slot that an instruction names. -/
def LaunchRec.slot (r : LaunchRec) (k : Nat) : Slot := slotOfBits (r.slots.getD k 0)

/-- The slot has no bit set that must be 0, and no scale without SCE. -/
def Slot.clean (x : Slot) : Bool := x.rest == 0 && (x.sce || (x.scale == 0 && x.zp == 0))

/-- A format that a conversion names: floating, or an integer of a width (R332). -/
inductive ElemFmt where
  | float (F : FloatFmt)
  | int (w : Nat) (unsigned : Bool)
deriving DecidableEq, Repr

def elemFmt (code : Nat) : Option ElemFmt :=
  match code with
  | 0x01 => some (.float .f32)
  | 0x02 => some (.float .f16)
  | 0x03 => some (.float .b16)
  | 0x04 => some (.float .e5m2)
  | 0x05 => some (.float .e4m3)
  | 0x06 => some (.float .e2m1)
  | 0x10 => some (.int 32 false)
  | 0x11 => some (.int 16 false)
  | 0x12 => some (.int 8 false)
  | 0x13 => some (.int 4 false)
  | 0x18 => some (.int 32 true)
  | 0x19 => some (.int 16 true)
  | 0x1A => some (.int 8 true)
  | 0x1B => some (.int 4 true)
  | _ => none

def ElemFmt.width : ElemFmt → Nat
  | .float F => F.width
  | .int w _ => w

/-- The exact value of an element. -/
def ElemFmt.value (E : ElemFmt) (code : Nat) : Num :=
  match E with
  | .float F => F.value code
  | .int w unsigned => Num.ofInt (if unsigned then (code % 2 ^ w : Nat) else sextNat code w)

/-- A value rounded to the format: its element (R316 to R318). SAT acts on narrow formats alone (R426). -/
def ElemFmt.round (E : ElemFmt) (m : Mode) (sat : Bool) (v : Num) : Rounded :=
  match E with
  | .float F => F.round m (sat && F.width < 32) v
  | .int w unsigned =>
    let r := roundToInt w unsigned m v
    ⟨wrapNat r.1 w, r.2⟩

/-- Staging for the format (R322). -/
def ElemFmt.stage (E : ElemFmt) (v : Num) : Rounded :=
  match E with
  | .float F => stageAs (F.m + 9) (F.lo - 8) v
  | .int w _ => stageAs (w + 8) (-8) v

/-- The row of R331 for a conversion: target of CVT, or packed format of PACK and UNPK. -/
def Slot.convertible (x : Slot) : Bool :=
  x.clean && (elemFmt x.fmt).isSome && x.pm1 == 0 && x.gsz == 0 && x.semi == 0 &&
    !(x.rnd == 7 && (x.fmt == 1 || x.fmt == 0x10 || x.fmt == 0x18))

def Slot.format (x : Slot) : ElemFmt := (elemFmt x.fmt).getD (.float .f32)

/-- a * SCALE + ZP, exactly; with ZP = 0 nothing is added (R331). -/
def Slot.apply (x : Slot) (a : Num) : Num :=
  if x.sce then
    let p := a.mul (f32Of x.scale)
    if x.zp = 0 then p else p.add (Num.ofInt x.zp) (x.rnd == 3)
  else a

/-- (v - ZP) / SCALE, exactly, and whether the result is inexact of itself (R429). -/
def Slot.unapply (x : Slot) (v : Num) : Num × Bool :=
  if x.sce then
    let d := if x.zp = 0 then v else v.add (Num.ofInt (-x.zp)) (x.rnd == 3)
    let q := d.div (f32Of x.scale)
    (q, (f32Of x.scale).isZero)
  else (v, false)

/-- The slot of CVT, PACK or UNPK. -/
def convSlot (f : Fields) (lr : LaunchRec) : Slot := lr.slot (modField f 0 3)

/-! ### CVT, F2I, I2F -/

/-- CVT of one lane (R426). -/
def cvtLane (f : Fields) (c : Ctx) (l : Nat) (m : Nat → Mode) (rx : Bool) : List (Dst × Reg) :=
  let x := convSlot f c.lr
  let src := (elemFmt (modField f 3 5)).getD (.float .f32)
  let a := c.a32 l f
  let v := x.apply (src.value (a.val.toNat % 2 ^ src.width))
  let r := if x.rnd = 7 then x.format.stage v else x.format.round (m 0) x.sat v
  let d := match x.format with
    | .int w false => if x.rnd = 7 then BitVec.ofNat 32 r.code else BitVec.ofInt 32 (sextNat r.code w)
    | _ => BitVec.ofNat 32 r.code
  c.put32 l f.d d (a.x || rx || r.inx)

def slotCheck (o : Op) (ok : Slot → Bool) (f : Fields) (c : Ctx) (_ : Nat) : Option PTrap :=
  if ok (convSlot f c.lr) then none else some (illegalHere o f c.s.cur.pc)

/-- The mode of a conversion is the slot's, once the slot has been read. -/
def State.slotRnd (s : State) (f : Fields) (ok : Slot → Bool) : Nat :=
  let x := convSlot f s.ctx.lr
  if ok x then x.rnd else 0

/-- CVT R426. -/
def execCvt (f : Fields) (s : State) : Host.Outcome State Fault Refusal :=
  .next (s.rounding .cvt f (some 6) (s.slotRnd f Slot.convertible) (fun c l => [c.b32 l f])
    (slotCheck .cvt Slot.convertible f) (cvtLane f))

/-- F2I R427. -/
def execF2i (f : Fields) (s : State) : Host.Outcome State Fault Refusal :=
  .next (s.rounding .f2i f (some 6) (rndField f) (fun c l => [c.c32 l f]) noCheck fun c l m rx =>
    let a := c.a32 l f
    let r := roundToInt 32 (modField f 0 2 == 1) (m 0) (f32Of a.val)
    c.put32 l f.d (BitVec.ofInt 32 r.1) (a.x || rx || r.2))

/-- I2F R427. -/
def execI2f (f : Fields) (s : State) : Host.Outcome State Fault Refusal :=
  .next (s.rounding .i2f f (some 6) (rndField f) (fun c l => [c.c32 l f]) noCheck fun c l m rx =>
    let a := c.a32 l f
    let r := toF32 (m 0) (Num.ofInt (BitVec.asInt a.val (modField f 0 2 == 1)))
    c.put32 l f.d r.val (a.x || rx || r.x))

/-! ### PACK, UNPK -/

def Slot.elements (x : Slot) : Nat := 32 / x.format.width

/-- PACK's slot: no code 7 (R417). -/
def Slot.packable (x : Slot) : Bool := x.convertible && x.rnd != 7

/-- The r registers of an element conversion: one, or a pair for eight elements (R428). -/
def convRandom (f : Fields) (c : Ctx) (l : Nat) : List Reg :=
  let n := (convSlot f c.lr).elements
  if n = 8 then [c.regB l f.b 0, c.regB l f.b 1] else [c.regB l f.b 0]

/-- PACK of one lane (R428). -/
def packLane (f : Fields) (c : Ctx) (l : Nat) (m : Nat → Mode) (rx : Bool) : List (Dst × Reg) :=
  let x := convSlot f c.lr
  let as := c.group l f.a x.elements
  let rs := (List.range x.elements).map fun j =>
    x.format.round (m j) x.sat (x.apply (f32Of (as.getD j .zero).val))
  c.put32 l f.d (packElements x.format.width (rs.map (·.code))) (as.any (·.x) || rx || rs.any (·.inx))

/-- PACK R428. -/
def execPack (f : Fields) (s : State) : Host.Outcome State Fault Refusal :=
  .next (s.rounding .pack f (some 6) (s.slotRnd f Slot.packable) (convRandom f)
    (slotCheck .pack Slot.packable f) (packLane f))

/-- UNPK of one lane (R429). -/
def unpkLane (f : Fields) (c : Ctx) (l : Nat) (m : Nat → Mode) (_ : Bool) : List (Dst × Reg) :=
  let x := convSlot f c.lr
  let a := c.a32 l f
  let rs := if x.rnd = 6 then convRandom f c l else []
  c.put l f.d ((List.range x.elements).map fun j =>
    let q := x.unapply (x.format.value (subElement x.format.width a.val j))
    let r := toF32 (m j) q.1
    let zero := match q.1 with | .fin _ 0 _ => true | _ => false
    ⟨r.val, a.x || (rs.getD (j / 4) .zero).x || r.x || (q.2 && !zero)⟩)

/-- UNPK R429. -/
def execUnpk (f : Fields) (s : State) : Host.Outcome State Fault Refusal :=
  .next (s.rounding .unpk f (some 6) (s.slotRnd f Slot.convertible) (convRandom f)
    (slotCheck .unpk Slot.convertible f) (unpkLane f))

/-! ### RAND, RSEED (R337, R431, R432) -/

/-- Ten rounds of Philox-4x32 (R337). -/
def philox (c : Word × Word × Word × Word) (k0 k1 : Word) (rounds : Nat) : Word × Word × Word × Word :=
  match rounds with
  | 0 => c
  | n + 1 =>
    let (c0, c1, c2, c3) := c
    let p0 := 0xD2511F53 * c0.toNat
    let p1 := 0xCD9E8D57 * c2.toNat
    let hi := fun (p : Nat) => BitVec.ofNat 32 (p / 2 ^ 32)
    philox (hi p1 ^^^ c1 ^^^ k0, BitVec.ofNat 32 p1, hi p0 ^^^ c3 ^^^ k1, BitVec.ofNat 32 p0) (k0 + 0x9E3779B9)
      (k1 + 0xBB67AE85) n

/-- The word that RAND draws in a lane (R182, R337). -/
def Ctx.randomWord (c : Ctx) (lane sel : Nat) : Word :=
  let v := c.lr.visible lane
  let x := c.s.crew c.w.crew
  let n := (c.w.thread lane).draw
  let key := c.lr.rngkey
  let last : Word := 0x5CA10000 ^^^ BitVec.ofNat 32 sel
  match c.launch.task, x.taskOf v with
  | some _, some t => (philox (n, BitVec.ofNat 32 (field (t.task.word 6) 63 32), 0, last) (lo32 key) (hi32 key) 10).1
  | _, _ =>
    let gwave := BitVec.ofNat 32 (x.number * c.lr.creww + c.w.wid)
    let r := philox (n, gwave, BitVec.ofNat 32 (v / 4), last) (lo32 key) (hi32 key) 10
    match v % 4 with
    | 0 => r.1
    | 1 => r.2.1
    | 2 => r.2.2.1
    | _ => r.2.2.2

/-- RAND R431. -/
def execRand (f : Fields) (s : State) : Host.Outcome State Fault Refusal :=
  .next (s.issue .rand f noCheck fun c ls s =>
    let s := s.writeVar c.k (ls.flatMap fun l => c.put32 l f.d (c.randomWord l ((c.b32 l f).val.toNat % 2 ^ 16)) false)
    ls.foldl (fun s l => s.modThread c.k l fun t => { t with draw := t.draw + 1 }) s)

/-- RSEED R432. -/
def execRseed (f : Fields) (s : State) : Host.Outcome State Fault Refusal :=
  .next (s.issue .rseed f noCheck fun c ls s =>
    ls.foldl (fun s l => s.modThread c.k l fun t => { t with draw := (c.a32 l f).val }) s)

end Sys2Proof.Machine
end

