-- ==== Sys2Proof/Machine/Sysc.lean ====
section
/-!
DEFINITION. SYSC and the syscall ring (R126 to R128, R388). Each step of R128 that has been made is kept in the block of the
lane, so that a lane which waits or is pre-empted goes on from there.
-/

namespace Sys2Proof.Machine

/-- How one access of SYSC ends: with a value, a wait for its page, for a line of the operand log or for an answer from outside, a trap
at the SYSC, or a trap at the next issue (R386). -/
inductive SyscOut where
  | value (v : Nat)
  | page (w : PageWait)
  | behind (va : Nat)
  | sent
  | fail (cause tval : Nat)
  | late (cause tval : Nat)
deriving DecidableEq, Repr

/-- The key under which a value from outside is kept. -/
def syscKey (kind : AccessKind) (va : Nat) : Nat := match kind with | .atom _ => 2 ^ 60 + va | _ => va

/-- One access of SYSC (R95, R112, R249 and the differences of R128). The compare-and-swap traps with cause 0x12 where its
path does not carry it. In trap mode a page fault is a fault like the others (R388). -/
def State.syscDo (s : State) (k lane : Nat) (y : Sysc) (kind : AccessKind) (size : Nat) (acq rel : Bool) (va data : Nat) :
    State × SyscOut :=
  let x : Access := { kind := kind, size := size, acq := acq, rel := rel, scope := .sy }
  let isAtom := match kind with | .atom _ => true | _ => false
  match y.got.find? (fun e => e.1 == syscKey kind va) with
  | some e => (s, .value e.2.toNat)
  | none =>
    if 2 ^ 57 ≤ va then (s, .fail 0x0B va)
    else if va % size ≠ 0 then (s, .fail 0x0A va)
    else if (s.wave k).logLine va then (s, .behind va)
    else
      let p := s.accessLanes k x y.serial (fun _ => [.p lane 0, .p lane 1]) (s.thread k lane).pc [⟨lane, va, data⟩]
      let rs := p.writes.map (·.2)
      match p.traps, p.logged, p.poisoned with
      | (_, t) :: _, _, _ => (p.s, .fail t.cause.toNat va)
      | [], l :: _, _ => if (s.thread k lane).trapMode then (s, .fail 0x0B va) else (p.s, .page l.page)
      | [], [], _ :: _ => (p.s, .late 0x11 va)
      | [], [], [] =>
        if p.waiting ≠ 0 then (p.s, .sent)
        else if isAtom && rs.any (·.x) then (p.s.setWstat k 2, .fail 0x12 va)
        else (p.s, .value (groupNat rs))

/-- The lane, and its shadow, wait with this progress. -/
def State.syscHold (s : State) (k lane : Nat) (y : Sysc) : State :=
  ((s.recOf k).mirror lane).foldl (fun s l => s.modThread k l fun t => { t with block := some (.sysc y) }) s

/-- A lane that traps delivers nothing: its destination keeps its value with X = 1 (R388). -/
def State.syscFail (s : State) (k lane : Nat) (y : Sysc) (cause tval : Nat) (late : Bool) : State :=
  ((s.recOf k).mirror lane).foldl (fun s l =>
    let w := s.wave k
    let marks := (w.marksOf y.serial l).filter (fun d => match d with | .p _ _ => false | _ => true)
    let s := s.pendRefuse k y.serial 1 marks
    if late then
      let s := s.unblock k l
      if cause = 0x11 then s.consume k l tval else s.trapLater k l cause (BitVec.ofNat 64 tval)
    else s.raiseTrap k l (trapHere cause (BitVec.ofNat 64 tval) (s.thread k l).pc)) s

/-- STATUS and RESULT are delivered (R388). -/
def State.syscDeliver (s : State) (k lane : Nat) (y : Sysc) (status result : Nat) : State :=
  ((s.recOf k).mirror lane).foldl (fun s l =>
    let marks := (s.wave k).marksOf y.serial l
    let ds := marks.filter (fun d => match d with | .p _ _ => false | _ => true)
    let ps := marks.filter (fun d => match d with | .p _ _ => true | _ => false)
    let ws := ds.zip (natGroup result 2) ++ ps.map (fun d => (d, (⟨if status = 1 then 1 else 0, false⟩ : Reg)))
    (s.pendArrive k y.serial 1 ws).unblock k l) s

/-- The 64-byte line of a virtual address, as a waiter registers on it. -/
def State.lineOfVa (s : State) (pasid : BitVec 20) (va : Nat) : Nat :=
  match (s.translate pasid va .read).2 with
  | .ok pa _ => (s.localPa pa 1 0).getD pa / 64
  | _ => 0

/-- The lane parks on a line (R119, R121). -/
def State.syscPark (s : State) (k lane : Nat) (y : Sysc) (va : Nat) : State :=
  let line := s.lineOfVa (s.recOf k).pasid va
  let full := 8192 ≤ s.wakeLines.length && !s.wakeLines.contains line
  let s := if full && !y.spilled then s.hubCount Off.wakeStat 63 32 1 else s
  s.syscHold k lane { y with line := some line, spilled := full, page := none, behind := none, got := [], kick := false }

/-- The doublewords of an entry from offset 8 up (R127). -/
def State.syscEntry (s : State) (k lane : Nat) (y : Sysc) : List Nat :=
  let w := s.wave k
  [y.nr.toNat + (s.recOf k).visible lane * 2 ^ 32 + keySlot k * 2 ^ 37 + keyCore k * 2 ^ 43,
   (s.crew w.crew).number + w.wid * 2 ^ 24, y.cva.toNat] ++ y.args.map (·.toNat)

/-- Stores one after the other; the first that does not succeed ends them. -/
def State.syscStores (s : State) (k lane : Nat) (y : Sysc) (at_ : Nat) (vs : List Nat) : State × SyscOut :=
  match vs with
  | [] => (s, .value 0)
  | v :: vs =>
    match s.syscDo k lane y .store 8 false false at_ v with
    | (s, .value _) => s.syscStores k lane y (at_ + 8) vs
    | r => r

/-- The lane has not claimed its ticket. -/
def SyscPhase.unclaimed : SyscPhase → Bool
  | .claimed _ _ | .filled _ _ _ | .published => false
  | _ => true

/-- A lower lane of the same SYSC has still to claim its ticket: the lanes claim in ascending order (R128). -/
def State.syscBehind (s : State) (k lane serial : Nat) : Bool :=
  (s.wave k).threads.any fun e =>
    e.1 < lane && (match (e.2 : Thread).block with | some (.sysc z) => z.serial == serial && z.phase.unclaimed | _ => false)

/-- A store or an atomic operation of the lane at a domain peer is not acknowledged (R73). -/
def State.laneStores (s : State) (k lane : Nat) : Bool :=
  s.outstanding.any fun o => o.who == .thread && o.waveKey == k && o.lane == lane && o.port.isNone &&
    (match o.access.kind with | .store | .atom _ => true | _ => false)

/-- The steps of R128 from the one that the lane has reached. The store that publishes the entry is a release at SY scope: it waits for
the acknowledgement of the lane's stores to domain peers (R73, R304). -/
def State.syscRun (s : State) (k lane : Nat) (y : Sysc) (fuel : Nat) : State :=
  match fuel with
  | 0 => s.syscHold k lane { y with kick := true }
  | n + 1 =>
    let h := (s.recOf k).sysr.toNat
    let y := { y with behind := none }
    let stop := fun (s : State) (o : SyscOut) =>
      match o with
      | .page w => s.syscHold k lane { y with page := some w, line := none, kick := false }
      | .behind va => s.syscHold k lane { y with page := none, line := none, behind := some va, kick := true }
      | .fail c t => s.syscFail k lane y c t false
      | .late c t => s.syscFail k lane y c t true
      | _ => s.syscHold k lane { y with page := none, line := none, kick := false }
    let next := fun (s : State) (p : SyscPhase) => s.syscRun k lane { y with phase := p, page := none, line := none, got := [] } n
    match y.phase with
    | .start =>
      (match s.syscDo k lane y (.load false) 8 false false (h + 8) 0 with
       | (s, .value v) =>
         if 4 ≤ field v 4 0 && field v 4 0 ≤ 16 then next s (.checked (BitVec.ofNat 64 v)) else s.syscFail k lane y 0x0B h false
       | (s, o) => stop s o)
    | .checked hdr =>
      (match s.syscDo k lane y .store 4 false false y.cva.toNat 0 with
       | (s, .value _) => next s (.claiming hdr)
       | (s, o) => stop s o)
    | .claiming hdr =>
      if s.syscBehind k lane y.serial then s.syscHold k lane { y with page := none, line := none, kick := true }
      else (match s.syscDo k lane y (.load false) 8 false false h 0 with
       | (s, .value t) =>
         (match s.syscDo k lane y (.load false) 8 true false (h + 0x40) 0 with
          | (s, .value hd) =>
            if hd + 2 ^ field hdr.toNat 4 0 ≤ t then next s (.ringFull hdr (BitVec.ofNat 64 t))
            else
              (match s.syscDo k lane y (.atom 9) 8 false false h (t + (t + 1) % 2 ^ 64 * 2 ^ 64) with
               | (s, .value old) => next s (if old = t then .claimed hdr (BitVec.ofNat 64 t) else .claiming hdr)
               | (s, o) => stop s o)
          | (s, o) => stop s o)
       | (s, o) => stop s o)
    | .ringFull hdr ticket =>
      (match s.syscDo k lane y (.load false) 8 true false (h + 0x40) 0 with
       | (s, .value hd) =>
         if ticket.toNat + 1 ≤ hd + 2 ^ field hdr.toNat 4 0 then next s (.claiming hdr) else s.syscPark k lane y (h + 0x40)
       | (s, o) => stop s o)
    | .claimed hdr ticket =>
      (match s.syscDo k lane y (.load false) 8 false false (h + 0x10) 0 with
       | (s, .value b) =>
         let e := field b 56 0 + 64 * (ticket.toNat % 2 ^ field hdr.toNat 4 0)
         (match s.syscStores k lane y (e + 8) (s.syscEntry k lane y) with
          | (s, .value _) => next s (.filled hdr ticket e)
          | (s, o) => stop s o)
       | (s, o) => stop s o)
    | .filled hdr ticket e =>
      if s.laneStores k lane then s.syscHold k lane { y with page := none, line := none, kick := true }
      else
        (match s.syscDo k lane y .store 8 false true e ticket.toNat with
         | (s, .value _) =>
           let s := s.wakeLine (s.lineOfVa (s.recOf k).pasid e)
           let s := if hdr.getLsbD 5 then s.interrupt (field hdr.toNat 20 17) 1 (field hdr.toNat 16 6) else s
           next s .published
         | (s, o) => stop s o)
    | .published =>
      (match s.syscDo k lane y (.load false) 4 true false y.cva.toNat 0 with
       | (s, .value st) =>
         if st = 0 then s.syscPark k lane y y.cva.toNat
         else
           (match s.syscDo k lane y (.load false) 8 false false (y.cva.toNat + 8) 0 with
            | (s, .value v) => s.syscDeliver k lane y st v
            | (s, o) => stop s o)
       | (s, o) => stop s o)

/-- A lane blocked in SYSC goes on, unless it still waits for a page or for an answer. What it does there ends the eligibility of the
interval that it falls in (R242). -/
def State.syscStep (s : State) (k lane : Nat) : State :=
  match (s.thread k lane).block with
  | some (.sysc y) =>
    if y.page.isSome || ((s.recOf k).prot && lane % 2 == 1) ||
        s.outstanding.any (fun o => o.serial == y.serial && o.lane == lane && o.waveKey == k && !o.access.kind.isStore) then s
    else (s.spoil (s.wave k).crew).syscRun k lane y 16
  | _ => s

/-- The arguments of SYSC in a lane (R388). -/
def Ctx.syscArgs (c : Ctx) (lane : Nat) (o : Operand) : List DWord :=
  (List.range 4).map fun j => (c.reg lane o (2 * j + 1)).val ++ (c.reg lane o (2 * j)).val

/-- The start of SYSC in a lane: the checks of CVA and of the ring, in that order, then the steps of R128. -/
def State.syscLane (s : State) (k lane : Nat) (y : Sysc) : State :=
  if y.cva.toNat % 16 ≠ 0 then s.syscFail k lane y 0x0A y.cva.toNat false
  else if (s.recOf k).sysr = 0 then s.syscFail k lane y 0x0B 0 false
  else s.syscRun k lane y 16

/-- SYSC R388: ascending lanes, in the safe slot. -/
def execSysc (f : Fields) (s : State) : Host.Outcome State Fault Refusal :=
  .next (s.issuePaired .sysc f noCheck
    (fun c l => (c.pair l f.a).toNat :: (c.b32 l f).val.toNat :: (c.syscArgs l f.c).map (·.toNat)) (cycles := 3)
    fun c ls s =>
      let s := if ls.isEmpty then s else s.spoil c.w.crew
      let pd := modField f 0 3
      let marks := (ls.flatMap c.lr.mirror).flatMap (fun l => c.markList f.d 2 l ++ (putPred l pd false).map (·.1))
      let (s, serial) := s.pendOpen c.k marks [] (ls.flatMap c.lr.mirror).length
      ls.foldl (fun s l =>
        let y : Sysc := { phase := .start, cva := (c.pair l f.a).setWidth 57, nr := (c.b32 l f).val, args := c.syscArgs l f.c,
                          serial := serial, line := none, spilled := false, page := none, behind := none, got := [], kick := false }
        s.syscLane c.k l y) s)

end Sys2Proof.Machine
end

