-- ==== Sys2Proof/Machine/Sync.lean ====
section
/-!
DEFINITION. Gates, batches, PUSH, waits, wakes, TSIG and doorbells, class 0x7 (16_isa_memory_sync.md, R453 to R468), with the
re-reads of waiting threads (R119 to R121).
-/

namespace Sys2Proof.Machine

/-! ### Gates (R453) -/

/-- GINIT R453. -/
def execGinit (f : Fields) (s : State) : Host.Outcome State Fault Refusal :=
  let off := fun (c : Ctx) l => (c.a32 l f).val.toNat
  .next (s.issue .ginit f (fun c l => c.spCheck (off c l) 128) fun c ls s =>
    ((ls.map (off c)).eraseDups).foldl (fun s o =>
      let last := (ls.filter (fun l => off c l == o)).getLast?.getD 0
      let s := s.spThreadStore c.k last c.w.crew o (leBytes (c.b32 last f).val.toNat 8) false false .cr
      s.setSpFull c.w.crew (o / 128) false) s)

/-- GADD R453: one credit per lane, ascending (R264). -/
def execGadd (f : Fields) (s : State) : Host.Outcome State Fault Refusal :=
  let off := fun (c : Ctx) l => (c.a32 l f).val.toNat
  .next (s.issuePaired .gadd f (fun c l => c.spCheck (off c l) 128)
    (fun c l => [off c l, (c.b32 l f).val.toNat]) fun c ls s =>
      ls.foldl (fun s l =>
        let o := off c l
        let s := (s.agentReach c.w.crew (o / 4096)).credit c.w.crew o (c.b32 l f).val.toNat
        s.tagBytes (spKey c.w.crew (o + 4)) 4 (fun _ => true) (s.heads c.k l true .cr)) s)

/-- Lanes consume F of a gate line (R453): an acquire at CR of the credits (R296). -/
def State.gateConsume (s : State) (k c o : Nat) (ls : List Nat) : State :=
  ls.foldl (fun s l => s.acquire k l .cr (spKey c (o + 4)) 4) (s.setSpFull c (o / 128) false)

/-- GWAIT R453: the lanes that name one gate are one consumer. -/
def execGwait (f : Fields) (s : State) : Host.Outcome State Fault Refusal :=
  let off := fun (c : Ctx) l => (c.a32 l f).val.toNat
  .next (s.issue .gwait f (fun c l => c.spCheck (off c l) 128) fun c ls s =>
    let serial := s.serial
    ((ls.map (off c)).eraseDups).foldl (fun s o =>
      let s := s.pin c.w.crew (o / 4096)
      if s.spFull c.w.crew (o / 128) then s.gateConsume c.k c.w.crew o (ls.filter (fun l => off c l == o))
      else (ls.filter (fun l => off c l == o)).foldl
        (fun s l => s.modThread c.k l fun t => { t with block := some (.gate o serial) }) s) { s with serial := serial + 1 })

/-- A blocked GWAIT finds F = 1: its lanes pass together (R453). -/
def State.gateServe (s : State) (k lane : Nat) : State :=
  let w := s.wave k
  match (w.thread lane).block with
  | some (.gate o serial) =>
    if !(s.crew w.crew).resident then s
    else
      let s := s.pin w.crew (o / 4096)
      if s.spFull w.crew (o / 128) then
        let ls := w.threads.filter fun e => e.2.block == some (.gate o serial)
        ls.foldl (fun s e => s.unblock k e.1) (s.gateConsume k w.crew o (ls.map (·.1)))
      else s
  | _ => s

/-- F_WAIT_SATISFIED R443, R453: F of the line admits the waiting access or the waiting consumer. -/
def execFWaitSatisfied (core : Fin 256) (slot : Fin 64) (lane : Fin 32) (s : State) : Host.Outcome State Fault Refusal :=
  let k := waveKey core slot
  .next ((s.fullEmptyServe k lane).gateServe k lane)

/-! ### Batches (R454) -/

/-- SEAL R454. -/
def execSeal (f : Fields) (s : State) : Host.Outcome State Fault Refusal :=
  .next (s.issue .seal f noCheck fun c ls s =>
    let (s, serial) := s.pendOpen c.k (ls.flatMap (c.markList f.d 1)) [] ls.length
    ls.foldl (fun s l =>
      if 15 ≤ (c.w.thread l).sealedOpen then s.modThread c.k l (fun t => { t with block := some (.sealing serial t.oldestSealed) })
      else s.sealNow c.k l serial) s)

/-- BWAIT R454. -/
def execBwait (f : Fields) (s : State) : Host.Outcome State Fault Refusal :=
  .next (s.issue .bwait f noCheck fun c ls s =>
    ls.foldl (fun s l =>
      let b := (c.b32 l f).val
      if (c.w.thread l).batchOpen b then s.modThread c.k l (fun t => { t with block := some (.bwait b) }) else s) s)

/-! ### PUSH (R456) -/

/-- The predicates that PUSH leaves: `p` is set, the other named one is cleared. -/
def pushPreds (pf pe : Nat) (set : Option Nat) (lane : Nat) : List (Dst × Reg) :=
  ([pf, pe].eraseDups).flatMap (fun p => putPred lane p (set == some p))

/-- One visible lane offers its command: accepted, refused with a flag, or blocked. `marks` are D of each lane. -/
def State.pushLane (s : State) (k lane q : Nat) (words : List Word) (pf pe serial : Nat) (marks : Nat → List Dst) : State :=
  let r := s.recOf k
  let w := s.wave k
  let answer := fun (v : Nat) (set : Option Nat) (s : State) =>
    let ls := r.mirror lane
    s.pendArrive k serial ls.length
      (ls.flatMap fun l => (marks l).map (fun d => (d, (⟨BitVec.ofNat 32 v, false⟩ : Reg))) ++ pushPreds pf pe set l)
  match s.queueAnswer q r.pasid false with
  | .rejected => answer 2 (some pe) s
  | .full =>
    let s := s.countFull q
    if pf = 7 then
      (r.mirror lane).foldl (fun s l => s.modThread k l fun t => { t with block := some (.push q words pf pe serial) }) s
    else answer 1 (some pf) s
  | .accepted =>
    answer 0 none (s.enqueue q words r.pasid (some { crew := w.crew, wid := w.wid, lane := lane }))

/-- The queue ID of a lane (R456). -/
def Ctx.queueId (c : Ctx) (lane : Nat) (f : Fields) : Nat := (c.b32 lane f).val.toNat % 4096

/-- PUSH R456: ascending lanes, in the safe slot. -/
def execPush (f : Fields) (s : State) : Host.Outcome State Fault Refusal :=
  let pf := modField f 0 3
  let pe := modField f 3 3
  .next (s.issuePaired .push f
    (fun c l =>
      let q := c.queueId l f
      if pe = 7 && s.queueAnswer q c.lr.pasid false == .rejected then
        some (trapHere 0x13 (BitVec.ofNat 64 q) s.cur.pc)
      else none)
    (fun c l => (c.b32 l f).val.toNat :: (c.group l f.a 16).map (fun r => r.val.toNat)) (cycles := 3)
    fun c ls s =>
      let s := if ls.isEmpty then s else s.spoil c.w.crew
      let preds := fun l => (pushPreds pf pe none l).map (·.1)
      let lanes := ls.flatMap c.lr.mirror
      let (s, serial) := s.pendOpen c.k (lanes.flatMap (fun l => c.markList f.d 1 l ++ preds l)) [] lanes.length
      ls.foldl (fun s l =>
        s.pushLane c.k l (c.queueId l f) ((c.group l f.a 16).map (·.val)) pf pe serial (c.markList f.d 1)) s)

/-- STALLED_PUSH_ACCEPT R456: the queue takes the command of a blocked lane, which ends the eligibility of the interval that it falls in
(R242). -/
def execStalledPushAccept (core : Fin 256) (slot : Fin 64) (lane : Fin 32) (s : State) : Host.Outcome State Fault Refusal :=
  let k := waveKey core slot
  let w := s.wave k
  let r := s.recOf k
  match (w.thread lane).block with
  | some (.push q words pf pe serial) =>
    if s.queueAnswer q r.pasid false == .accepted && r.mirror lane != [] && (!r.prot || lane.val % 2 == 0) then
      let marks := fun l => (w.marksOf serial l).filter (fun d => match d with | .p _ _ => false | _ => true)
      let s := (s.spoil w.crew).pushLane k lane q words pf pe serial marks
      .next ((r.mirror lane).foldl (fun s l => s.unblock k l) s)
    else .next s
  | _ => .next s

/-! ### WAIT (R465) -/

/-- The value of a word as a number. -/
def regsNat (rs : List Reg) : Nat := groupNat rs

/-- The WAIT of a thread ends with registers for its destination. -/
def State.waitEnd (s : State) (k lane serial : Nat) (rs : List Reg) : State :=
  (s.pendArrive k serial 1 (((s.wave k).marksOf serial lane).zip rs)).unblock k lane

/-- A waiter takes a line of the wake table, or finds it full (R119, R121). -/
def State.register (s : State) (k lane pa : Nat) : State :=
  match (s.thread k lane).block with
  | some (.wait va _ w64 v d sc n spilled _) =>
    let lines := s.wakeLines
    let full := 8192 ≤ lines.length && !lines.contains (pa / 64)
    let s := if full && !spilled then s.hubCount Off.wakeStat 63 32 1 else s
    s.modThread k lane fun t => { t with block := some (.wait va pa w64 v d sc n full false) }
  | _ => s

/-- A waiter whose line another entry of the operand log holds reads when that entry is freed (R214). -/
def State.waitBehind (s : State) (k lane : Nat) : State :=
  match (s.thread k lane).block with
  | some (.wait va pa w64 v d sc n spilled _) =>
    s.modThread k lane fun t => { t with block := some (.wait va pa w64 v d sc n spilled true) }
  | _ => s

/-- One registration and read of a waiting thread (R119, R465): it ends, goes on waiting, or its page is asked for. Where the answer
comes from outside the package it registers before the read leaves, so that no wake is missed (R470). -/
def State.waitStep (s : State) (k lane : Nat) : State :=
  let r := s.recOf k
  match (s.thread k lane).block with
  | some (.wait va _ w64 v deadline sc serial _ _) =>
    if (s.wave k).log.any (fun e => e.serial == serial && e.lanes.any (fun l => l.lane == lane)) ||
        s.outstanding.any (fun o => o.serial == serial && o.lane == lane && o.waveKey == k) then s
    else if (s.wave k).logLineOther serial va.toNat then s.waitBehind k lane
    else
      let n := if w64 then 8 else 4
      let s := match (s.translate r.pasid va.toNat .read).2 with
        | .ok pa _ => if (s.localPa pa n 0).isNone then s.register k lane pa else s
        | _ => s
      let x : Access := { kind := .wait, size := n, acq := false, rel := false, scope := sc }
      let p := s.accessLanes k x serial (fun _ => [.p lane 0, .p lane 1]) (s.thread k lane).pc [⟨lane, va.toNat, 0⟩]
      let s := p.s
      match p.traps, p.logged, p.poisoned with
      | (_, t) :: _, _, _ => (s.pendArrive k serial 1 []).raiseTrap k lane t
      | [], l :: ls, _ =>
        s.logLanes k x serial (s.thread k lane).pc (l :: ls)
      | [], [], _ :: _ => (s.waitEnd k lane serial (failRegs n false)).consume k lane va.toNat
      | [], [], [] =>
        if p.waiting ≠ 0 then s
        else
          let rs := p.writes.map (·.2)
          let pa := match (s.translate r.pasid va.toNat .read).2 with
            | .ok pa _ => (s.localPa pa n 0).getD pa
            | _ => 0
          if rs.any (·.x) then s.waitEnd k lane serial rs
          else if v.toNat ≤ regsNat rs then (s.acquire k lane sc pa n).waitEnd k lane serial rs
          else if deadline.any (fun t => decide (t.toNat ≤ s.gtime.toNat)) then s.waitEnd k lane serial rs
          else s.register k lane pa
  | _ => s

/-- The value operand and the deadline of WAIT (R465). -/
def Ctx.waitValue (c : Ctx) (lane : Nat) (f : Fields) : DWord :=
  if modBit f 0 then c.pair lane f.c else (c.reg lane f.c 0).val.setWidth 64
def Ctx.waitDeadline (c : Ctx) (lane : Nat) (f : Fields) : Option DWord :=
  if modBit f 1 then some ((c.reg lane f.c 3).val ++ (c.reg lane f.c 2).val) else none

/-- WAIT R465. -/
def execWait (f : Fields) (s : State) : Host.Outcome State Fault Refusal :=
  let n := if modBit f 0 then 8 else 4
  .next (s.issue .wait f (fun c l => (c.recAddress f BufRec.rdp n false l).check s.cur.pc) fun c ls s =>
    let (qs, oob) := reqsOf (c.recAddress f BufRec.rdp n false) (fun _ => 0) ls
    let marks := c.markList f.d (n / 4)
    let (s, serial) := (s.flagOob c.k oob).pendOpen c.k (ls.flatMap marks)
      (oob.flatMap fun l => (marks l).map (fun d => (d, Reg.zero))) qs.length
    qs.foldl (fun s q =>
      let b : Block := .wait (BitVec.ofNat 57 q.va) 0 (modBit f 0) (c.waitValue q.lane f) (c.waitDeadline q.lane f)
        (scopeOf (modField f 4 3)) serial false false
      (s.modThread c.k q.lane fun t => { t with block := some b }).waitStep c.k q.lane) s)

/-- Every lane of a state that is blocked in WAIT and passes `p`, as (wave, lane). -/
def State.waiters (s : State) (p : Block → Bool) : List (Nat × Nat) :=
  s.waves.flatMap fun e => e.2.threads.filterMap fun t =>
    match t.2.block with
    | some b => if p b then some (e.1, t.1) else none
    | none => none

def Block.isWait : Block → Bool
  | .wait .. => true
  | _ => false

/-- WAITER_REREAD R119: after a wake, or on resume, the waiter reads its word again. -/
def execWaiterReread (core : Fin 256) (slot : Fin 64) (lane : Fin 32) (s : State) : Host.Outcome State Fault Refusal :=
  let k := waveKey core slot
  .next ((s.waitStep k lane).syscStep k lane)

/-- WAKE_SPILL_REREAD R121: a waiter that found the table full reads its word again. -/
def execWakeSpillReread (core : Fin 256) (slot : Fin 64) (lane : Fin 32) (s : State) : Host.Outcome State Fault Refusal :=
  let k := waveKey core slot
  match (s.thread k lane).block with
  | some (.wait _ _ _ _ _ _ _ true _) => .next (s.waitStep k lane)
  | some (.sysc y) => if y.spilled then .next (s.syscStep k lane) else .next s
  | _ => .next s

/-- WAIT_DEADLINE R465: the deadline of a waiter has passed; its word is read once more. -/
def execWaitDeadline (core : Fin 256) (slot : Fin 64) (lane : Fin 32) (s : State) : Host.Outcome State Fault Refusal :=
  let k := waveKey core slot
  match (s.thread k lane).block with
  | some (.wait _ _ _ _ (some t) _ _ _ _) => if t.toNat ≤ s.gtime.toNat then .next (s.waitStep k lane) else .next s
  | _ => .next s

/-! ### WAKE, TSIG (R466, R467) -/

/-- The lines that lanes of WAKE name: translated for reading; a denied page traps, an absent one posts nothing. -/
def wakeBody (f : Fields) (c : Ctx) (ls : List Nat) (s : State) : State :=
  let (qs, oob) := reqsOf (c.recAddress f BufRec.rdp 1 false) (fun _ => 0) ls
  let s := if ls.isEmpty then s else s.spoil c.w.crew
  let r := qs.foldl (fun (acc : State × List Nat) q =>
    match acc.1.translate c.lr.pasid q.va .read with
    | (s, .ok pa _) => (s, acc.2 ++ [(s.localPa pa 1 0).getD pa / 64])
    | (s, .denied false) =>
      ((c.lr.mirror q.lane).foldl (fun s l => s.raiseTrap c.k l (trapHere 0x0B (BitVec.ofNat 64 q.va) s.cur.pc)) s, acc.2)
    | (s, _) => (s, acc.2)) (s.flagOob c.k oob, [])
  r.2.eraseDups.foldl (fun s line => s.wakeLine line) r.1

/-- WAKE R466. -/
def execWake (f : Fields) (s : State) : Host.Outcome State Fault Refusal :=
  .next (s.issuePaired .wake f (fun c l => (c.recAddress f BufRec.rdp 1 false l).check s.cur.pc)
    (fun c l => c.recOperands f l) (cycles := 3) (wakeBody f))

/-- TSIG R467: the successors that a task lane will signal at retirement. -/
def execTsig (f : Fields) (s : State) : Host.Outcome State Fault Refusal :=
  .next (s.issuePaired .tsig f noCheck (fun c l => [(c.b32 l f).val.toNat]) fun c ls s =>
    let s := if ls.isEmpty then s else s.spoil c.w.crew
    if c.launch.task.isNone then s
    else (ls.flatMap c.lr.mirror).foldl (fun s l =>
      s.modThread c.k l fun t => { t with tsig := t.tsig ||| (c.b32 l f).val.setWidth 2 }) s)

/-! ### Doorbells (R54 to R57, R468) -/

/-- A doorbell is dropped (R57): IOERR of its wave, while the wave is still the one that rang, and a record of kind 0x03. -/
def State.dropDoorbell (s : State) (k crew pa : Nat) (pasid : BitVec 20) (who : DWord) : State :=
  let s := if (s.wave k).live && (s.wave k).crew == crew then s.setWstat k 3 else s
  s.faultRecord (mkRecord 3 0 (some pasid) pa who)

/-- A doorbell at the proxy: sent on, dropped with IOERR, or its lane waits for room (R57). -/
def State.ring (s : State) (k lane pa size : Nat) (data : DWord) : State :=
  let r := s.recOf k
  let crew := (s.wave k).crew
  let who := whoThread (keyCore k) (keySlot k) (r.visible lane)
  match s.pcieRoute pa with
  | none => s.dropDoorbell k crew pa r.pasid who
  | some (p, a) =>
    if !(s.portAt p).up then s.dropDoorbell k crew pa r.pasid who
    else if (s.portAt p).doorbells.length < 256 then
      s.modPort p (fun q => { q with doorbells := q.doorbells ++
        [{ addr := a, pa := pa, data := data, size := size, waveKey := k, crew := crew, pasid := r.pasid, who := who }] })
    else (r.mirror lane).foldl (fun s l => s.modThread k l fun t => { t with block := some (.doorbell p pa data size) }) s

/-- What DBL finds at the page of a line: the line's address, a trap, or a page to wait for. -/
inductive DblPage where
  | found (line : Nat)
  | trap
  | absent (perm : Bool)
deriving DecidableEq, Repr

/-- The page of a doorbell (R54, R95, R468): MT 5 or 6 with DB, in PCIe memory space; then WR as of any store. -/
def State.doorbellPage (s : State) (pasid : BitVec 20) (va : Nat) : State × DblPage :=
  match s.translate pasid va ⟨false, false, false, true⟩ with
  | (s, .absent) => (s, .absent false)
  | (s, .denied _) => (s, .trap)
  | (t, .ok pa _) =>
    if s.regionAt pa ≠ .pcie then (t, .trap)
    else
      match s.translate pasid va .doorbell with
      | (s, .ok pa _) => (s, .found (pa / 128))
      | (s, .denied soft) => (s, if soft then .absent true else .trap)
      | (s, .absent) => (s, .absent false)

/-- What DBL has come to: the lines translated so far and the lanes to hold. -/
structure DblRun where
  s : State
  lines : List (Nat × DblPage)
  held : List LogLane

/-- A lane of DBL: its line is translated once for the instruction (R94), and asks for its page once. -/
def DblRun.lane (x : DblRun) (c : Ctx) (n : Nat) (q : LaneReq) : DblRun :=
  let line := q.va / 128
  let t := match x.lines.find? (fun e => e.1 == line) with
    | some e => (x.s, e.2)
    | none =>
      let t := x.s.doorbellPage c.lr.pasid q.va
      match t.2 with
      | .absent perm => (t.1.pageFault (pageWait c.lr.pasid q.va .write perm) c.core c.slot, t.2)
      | _ => t
  let x := { x with s := t.1, lines := (line, t.2) :: x.lines }
  match t.2 with
  | .found p => { x with s := x.s.ring c.k q.lane (128 * p + q.va % 128) n (BitVec.ofNat 64 q.data) }
  | .trap =>
    let trap := fun (s : State) l => s.raiseTrap c.k l (trapHere 0x0B (BitVec.ofNat 64 q.va) s.cur.pc)
    { x with s := (c.lr.mirror q.lane).foldl trap x.s }
  | .absent perm =>
    { x with held := x.held ++ [{ lane := q.lane, va := BitVec.ofNat 57 q.va, data := BitVec.ofNat 1152 q.data
                                  page := pageWait c.lr.pasid q.va .write perm }] }

/-- DBL R468: ascending lanes, in the safe slot. -/
def execDbl (f : Fields) (s : State) : Host.Outcome State Fault Refusal :=
  let n := memSize f
  .next (s.issuePaired .dbl f (fun c l => (c.recAddress f BufRec.wrp n true l).check s.cur.pc)
    (fun c l => c.recOperands f l ++ (c.group l f.d (regsFor n)).map (·.val.toNat)) (cycles := 3) fun c ls s =>
      let s := if ls.isEmpty then s else s.spoil c.w.crew
      let (qs, oob) := reqsOf (c.recAddress f BufRec.wrp n true) (fun l => c.datum l f.d n) ls
      let x : Access := { kind := .doorbell, size := n, acq := false, rel := true, scope := .sy }
      let r := qs.foldl (fun (x : DblRun) q => x.lane c n q) ⟨s.flagOob c.k oob, [], []⟩
      { r.s.logLanes c.k x r.s.serial s.cur.pc r.held with serial := r.s.serial + 1 })

/-- A lane that waited for room in the proxy of a port takes its place there (R57). -/
def State.doorbellAdmit (s : State) (port : Nat) : State :=
  let waits := s.waiters fun b => match b with | .doorbell p _ _ _ => p == port | _ => false
  match waits with
  | [] => s
  | (k, lane) :: _ =>
    match (s.thread k lane).block with
    | some (.doorbell _ pa d size) =>
      let r := s.recOf k
      let first := if r.prot then lane / 2 * 2 else lane
      if (s.portAt port).up && 256 ≤ (s.portAt port).doorbells.length then s
      else (r.mirror first).foldl (fun s l => s.unblock k l) ((s.spoil (s.wave k).crew).ring k first pa size d)
    | _ => s

/-- DOORBELL_SEND R55, R57: the oldest doorbell of a port leaves as one posted write with Relaxed Ordering and No Snoop clear; one
whose link has gone down is dropped with its record, and one behind a port that DPC holds as any posted write (R47). -/
def execDoorbellSend (port : Fin 64) (s : State) : Host.Outcome State Fault Refusal :=
  match (s.portAt port).doorbells with
  | [] => .next (s.doorbellAdmit port)
  | d :: rest =>
    let s := s.modPort port (fun q => { q with doorbells := rest })
    let s := if !(s.portAt port).up then s.dropDoorbell d.waveKey d.crew d.pa d.pasid d.who
      else s.sendPosted port d.addr (leBytes d.data.toNat d.size) false (some false)
    .next (s.doorbellAdmit port)

end Sys2Proof.Machine
end

