-- ==== Sys2Proof/Machine/Ports.lean ====
section
/-!
DEFINITION. The root ports and Ubnor ports as links (R39 to R47, R65, R73 to R76, R133), the answers to accesses that left the
package, configuration space (R113), the interrupt sources (R115), PTM (R161).
-/

namespace Sys2Proof.Machine

/-! ### PORT_CFG (R39, R43, R45) -/

/-- Lanes of a width code (R43). -/
def widthLanes (c : Nat) : Nat := if c = 0 then 0 else 2 ^ (c - 1)

/-- The width codes of a layout. -/
def layoutCodes (v : Nat) : List Nat := (List.range 4).map fun k => field v (4 * k + 3) (4 * k)

/-- The rules of R39 on the widths from lane `start` up. -/
def layoutFits (start : Nat) (absent : Bool) (codes : List Nat) : Bool :=
  match codes with
  | [] => start ≤ 16
  | c :: cs =>
    c ≤ 5 && (c == 0 || (!absent && start % widthLanes c == 0)) && layoutFits (start + widthLanes c) (absent || c == 0) cs

/-- A layout that R39 and R45 admit: one to four sub-ports. -/
def layoutOk (v : Nat) : Bool := field v 3 0 != 0 && layoutFits 0 false (layoutCodes v) && (field v 16 16 == 0 || field v 15 0 == 5)

/-! ### Captures (R50 to R52) -/

/-- The MT of the first valid LOAM_PMA entry that contains an address (R110). -/
def State.pmaMt (s : State) (pa : Nat) : Option Nat :=
  ((List.range 16).find? fun i =>
    let e := s.hubGet (Off.loamPma i)
    field e 3 3 == 1 && 2 ≤ field e 2 0 && field e 2 0 ≤ 4 && field e 51 12 ≤ pa / 4096 &&
      pa / 4096 ≤ s.hubField (Off.loamPma i + 8) 51 12).map fun i => s.hubField (Off.loamPma i) 2 0

/-- HBM, vault space outside the shadow, or a private CXL range, by the physical address alone (R51). -/
def State.mainMemory (s : State) (pa n : Nat) : Bool :=
  match s.regionAt pa with
  | .hbm => true
  | .vault => !s.inShadow pa (pa + n)
  | .cxl => s.pmaMt pa == some 2
  | _ => false

/-- WHO of an endpoint (R132). -/
def whoRid (rid : BitVec 16) : DWord := rid.setWidth 64

/-- The word and the requester ID of capture entry `n` that are in force: the old ones while the entry is being rewritten (R53). -/
def State.captureNow (s : State) (n : Nat) : Nat × Nat :=
  match SMap.find s.captureOld n with
  | some c => (c.word, c.rid)
  | none => (s.hubGet (Off.capture n), s.hubField (Off.capture n + 8) 15 0)

/-- A capture for entry `n` (R50 to R52). -/
def State.captureEntry (s : State) (n : Nat) (rid : BitVec 16) (data bus : Nat) : State :=
  let e := (s.captureNow n).1
  let pa := field e 51 3 * 8
  let refuse := fun (sub : Nat) =>
    (s.hubCount (Off.capture n + 8) 63 32 1).faultRecord (mkRecord 2 sub none bus (whoRid rid))
  if field e 0 0 == 0 then refuse 1
  else if field e 2 2 == 1 && (s.captureNow n).2 != rid.toNat then refuse 2
  else if !s.mainMemory pa 8 then refuse 3
  else
    let s := (s.memWrite pa (leBytes ((s.readNat pa 8 + data % 2 ^ 32) % 2 ^ 64) 8)).tagBytes pa 8 (fun _ => true) [outsideTag]
    if field e 1 1 == 1 then s.wakeLine (pa / 64) else s

/-- A posted write of this requester at this port to a domain peer is not yet visible there (R52). -/
def State.writesPending (s : State) (port : Nat) (rid : BitVec 16) : Bool := s.outstanding.any fun o => o.who == .endpoint port rid

/-! ### Answers from outside (R46, R70, R75, R76) -/

def Access.isAtom (x : Access) : Bool := match x.kind with | .atom _ => true | _ => false

/-- The access that bears a tag, and has left the package. -/
def State.sentAccess (s : State) (tag : Nat) : Option Outstanding := s.outstanding.find? (fun o => o.tag == tag && o.held.isNone)

/-- The oldest request that waits for a tag of a root port leaves, its interval counted from now (R41, R46). -/
def State.sendHeld (s : State) (port : Option Nat) : State :=
  match s.outstanding.find? fun o => o.port == port && o.held.isSome with
  | some o =>
    (match o.held with
     | some (a, data) =>
       ({ s with outstanding := s.outstanding.map fun e =>
           if e.tag = o.tag then { e with held := none, sent := s.gtime } else e } : State).emitRequest o a data
     | none => s)
  | none => s

/-- The access no longer waits for an answer, and its tag is free. -/
def State.unsent (s : State) (o : Outstanding) : State :=
  let s : State := { s with outstanding := s.outstanding.filter (fun e => e.tag ≠ o.tag) }
  if o.port.any fun p => (s.portAt p).up then s.sendHeld o.port else s

/-- A WAIT has read its word outside the package (R465): a read that satisfies it is an acquire (R303), and where it goes on it is
registered already. -/
def State.waitAnswer (s : State) (o : Outstanding) (v : DWord) (deadline : Option DWord) (rs : List Reg) : State :=
  let k := o.waveKey
  if rs.any (·.x) then s.waitEnd k o.lane o.serial rs
  else if v.toNat ≤ regsNat rs then
    (if o.port.isNone then s.acquirePeer k o.lane o.access.scope o.pa o.access.size else s).waitEnd k o.lane o.serial rs
  else if deadline.any (fun t => decide (t.toNat ≤ s.gtime.toNat)) then s.waitEnd k o.lane o.serial rs
  else s

/-- SYSC has an answer: it goes on with the value; a compare-and-swap that failed is made again. -/
def State.syscAnswer (s : State) (o : Outstanding) (y : Sysc) (rs : List Reg) : State :=
  let got := if o.access.isAtom && rs.any (·.x) then []
    else y.got ++ [(syscKey o.access.kind o.va, BitVec.ofNat 64 (groupNat rs))]
  s.syscHold o.waveKey o.lane { y with got := got, kick := true }

/-- Registers for an access that was answered go to whoever waits for them. -/
def State.deliver (s : State) (o : Outstanding) (rs : List Reg) : State :=
  let k := o.waveKey
  let scoreboard :=
    if o.access.kind.isStore then s
    else s.pendArrive k o.serial 1 (laneWrites (s.recOf k) o.access o.lane (fun l => ((s.wave k).marksOf o.serial l).drop o.skip) rs)
  match (s.thread k o.lane).block with
  | some (.sysc y) => if y.serial = o.serial then s.syscAnswer o y rs else scoreboard
  | some (.wait _ _ _ v d _ n _ _) => if n = o.serial then s.waitAnswer o v d rs else scoreboard
  | _ => scoreboard

/-- The captures whose requester has no earlier posted write under way are made, in order (R52). -/
def State.releaseCaptures (s : State) : State :=
  let held := s.heldCaptures
  held.foldl (fun s h =>
      if s.writesPending h.port h.rid || s.heldCaptures.any (fun e => e.port == h.port && e.rid == h.rid) then
        { s with heldCaptures := s.heldCaptures ++ [h] }
      else s.captureEntry h.entry h.rid h.data h.bus)
    { s with heldCaptures := [] }

/-- The release of a hart that waited for its stores is made once the last of them has an answer (R73, R123, R125). -/
def State.hartRelease (s : State) (h : Nat) : State :=
  match (s.hartAt h).waits with
  | none => s
  | some i =>
    if s.outstanding.any fun o => o.who == .hart h && o.access.kind.isStore then s
    else (s.modHart h fun x => { x with waits := none }).due i

/-- The request of an agent that is no device thread has ended, with the bytes of its answer or without one: a hart gets its value,
of which the manual states none where the request failed (a free value, notes/assumptions/36.md), and the release that waited for
the last of its stores is made (R73); the word of an engine is written, with a wake (R149), or has failed. -/
def State.agentAnswer (s : State) (o : Outstanding) (answer : Option (List Byte)) : State :=
  let s := s.unsent o
  match o.who with
  | .thread => s
  | .endpoint _ _ => s.releaseCaptures
  | .hart h =>
    if o.access.kind.isStore then s.hartRelease h
    else
    (match answer with
     | some bs => s.modHart h fun x => { x with result := .value (BitVec.ofNat 64 (leNat bs % 2 ^ (8 * o.access.size))) }
     | none => ({ s with fresh := s.fresh + 1 } : State).modHart h fun x => { x with
         result := .value (BitVec.ofNat 64 ((Config.freeWord s.fresh).toNat % 2 ^ (8 * o.access.size))) })
  | .word sub pasid va =>
    if answer.isNone then s.wordFailed sub pasid va else if sub = 4 then s else s.wakeLine (o.pa / 64)

/-- A failed access (R46, R70, R76): IOERR, a record, all ones with X = 1, or 0 with X = 1 for an atomic operation. A store is
dropped. -/
def State.failSent (s : State) (o : Outstanding) (sub : Nat) : State :=
  if o.who ≠ .thread then s.agentAnswer o none
  else
    let s := (s.unsent o).ioError o.waveKey o.lane sub o.pa
    if o.access.kind.isStore then s else s.deliver o (failRegs o.access.size (!o.access.isAtom))

/-- An atomic operation that the completer does not carry (R75): ATOMPATH, 0 with X = 1, and a trap in a launch with STRICT. -/
def State.atomRefused (s : State) (o : Outstanding) : State :=
  let k := o.waveKey
  let r := s.recOf k
  let s := (s.unsent o).setWstat k 2
  match (s.thread k o.lane).block with
  | some (.sysc y) =>
    if y.serial = o.serial then s.syscFail k o.lane y 0x12 r.sysr.toNat false else s
  | _ =>
    let s := s.deliver o (failRegs o.access.size false)
    if r.strict then (r.mirror o.lane).foldl (fun s l => s.trapLater k l 0x12 (BitVec.ofNat 64 o.va)) s else s

/-- Poisoned data for a load (R46, R249): each lane consumes it at once. -/
def State.poisonSent (s : State) (o : Outstanding) : State :=
  let k := o.waveKey
  let s := s.unsent o
  let plain := (if o.access.isAtom then (s.recOf k).mirror o.lane else [o.lane]).foldl (fun s l => s.consume k l o.va)
    (s.deliver o (failRegs o.access.size false))
  match (s.thread k o.lane).block with
  | some (.sysc y) => if y.serial = o.serial then s.syscFail k o.lane y 0x11 o.va true else plain
  | _ => plain

/-- The data of a completion arrives; that of a domain peer may be an acquire's (R289). -/
def State.dataSent (s : State) (o : Outstanding) (bytes : List Byte) : State :=
  let v := leNat bytes % 2 ^ (8 * o.access.size)
  let s := if o.access.acq && o.port.isNone then s.acquirePeer o.waveKey o.lane o.access.scope o.pa o.access.size else s
  (s.unsent o).deliver o (loadRegs o.access.size (match o.access.kind with | .load sx => sx | _ => false) v)

/-- The lane group of a port checks the ECRC of inbound TLPs (R43). -/
def State.checksEcrc (s : State) (p : Nat) : Bool := s.hubField (Off.portCfg (p / 4)) 19 19 == 1

/-- The space of a request (R80, R82): its PASID, or the default of its port. -/
def State.busPasid (s : State) (port : Nat) (pasid : Option (BitVec 20)) : Option (BitVec 20) :=
  match pasid with
  | some p => some p
  | none =>
    if s.hubField (Off.xltDefp port) 20 20 == 1 then some (BitVec.ofNat 20 (s.hubField (Off.xltDefp port) 19 0)) else none

/-- ACS of a root port turns a request away (R41): Source Validation where the bus of its requester is not one behind the port, Translation
Blocking where it is marked as translated or asks for a translation. The redirections change nothing, for every peer-to-peer request is
translated here. The place of ACS Control is PRESUMED, as is that what it turns away is dropped and logged (notes/assumptions/9.md). -/
def State.acsBlocks (s : State) (p : Nat) (rid : BitVec 16) (translated : Bool) : Bool :=
  let control := (SMap.get s.cfg (portCfgAt p 0xD04) 0).toNat / 2 ^ 16
  let buses := (SMap.get s.cfg (portCfgAt p 0x18) 0).toNat
  let bus := rid.toNat / 2 ^ 8
  (control.testBit 0 && !(field buses 15 8 ≤ bus && bus ≤ field buses 23 16)) || (control.testBit 1 && translated)

/-- A root port drops a TLP that arrives: its ECRC does not agree and the lane group checks ECRC, or ACS turns it away (R41, R43; that it is
dropped and logged is PRESUMED, notes/assumptions/9.md). -/
def State.turnsAway (s : State) (p : Nat) (rid : BitVec 16) (translated badEcrc : Bool) : Bool :=
  (badEcrc && s.checksEcrc p) || s.acsBlocks p rid translated

/-- After an answer, the crew barrier of an RBK crew may complete, whose checkpoint waited for it (R239). -/
def State.afterAnswer (s : State) (o : Outstanding) : State :=
  if o.who = .thread && (s.recOf o.waveKey).rbk then s.settle (s.wave o.waveKey).crew crewBarrier 3 else s

/-- PCIE_COMPLETION R46: an access that left the package is answered, by an endpoint, a bridge partner or a domain peer. -/
def execPcieCompletion (tag : Nat) (result : Completion) (s : State) : Host.Outcome State Fault Refusal :=
  match s.sentAccess tag with
  | none => .next s
  | some o =>
    let refused := fun (sub : Nat) =>
      if o.port.isNone then s.failSent o 6 else if o.access.isAtom then s.atomRefused o else s.failSent o sub
    if o.who ≠ .thread then
      match result with
      | .data bytes => .next (s.agentAnswer o (some bytes))
      | .badEcrc bytes => .next (s.agentAnswer o (if o.port.any s.checksEcrc then none else some bytes))
      | _ => .next (s.agentAnswer o none)
    else
      match result with
      | .data bytes => .next ((s.dataSent o bytes).afterAnswer o)
      | .poisoned => .next ((s.poisonSent o).afterAnswer o)
      | .badEcrc bytes =>
        .next (State.afterAnswer (if o.port.any s.checksEcrc then s.poisonSent o else s.dataSent o bytes) o)
      | .ur => .next ((refused 1).afterAnswer o)
      | .ca => .next ((refused 2).afterAnswer o)

/-- The completion timeout of a port in ns (R43): 2^CTO ms, CTO at most 10. -/
def State.completionNs (s : State) (p : Nat) : Nat := 2 ^ min 10 (s.hubField (Off.portCfg (p / 4)) 23 20) * 10 ^ 6

/-- A request has had no answer within its interval: that of its port, or 100 µs for a peer (R46, R70). -/
def State.expired (s : State) (o : Outstanding) : Bool :=
  o.held.isNone && o.sent.toNat + (match o.port with | some p => s.completionNs p | none => 100000) ≤ s.gtime.toNat

/-- COMPLETION_TIMEOUT R46. -/
def execCompletionTimeout (tag : Nat) (s : State) : Host.Outcome State Fault Refusal :=
  match s.sentAccess tag with
  | some o => .next (if o.port.isSome && s.expired o then (s.failSent o 3).afterAnswer o else s)
  | none => .next s

/-- PEER_TIMEOUT R70. -/
def execPeerTimeout (tag : Nat) (s : State) : Host.Outcome State Fault Refusal :=
  match s.sentAccess tag with
  | some o => .next (if o.port.isNone && s.expired o then (s.failSent o 3).afterAnswer o else s)
  | none => .next s

/-- DOMAIN_ACKNOWLEDGE R73: the oldest store to the peer that is not acknowledged becomes so. An atomic operation is
acknowledged by its answer. -/
def execDomainAcknowledge (peer : Byte) (s : State) : Host.Outcome State Fault Refusal :=
  match s.outstanding.find? (fun o => o.port.isNone && o.access.kind.isStore && field o.pa 50 43 == peer.toNat) with
  | some o => .next (if o.who = .thread then s.unsent o else s.agentAnswer o (some []))
  | none => .next s

/-! ### Links -/

/-- A link goes down: its outstanding requests fail (R46, R76), and Hot-Plug status tells of it where it was up. -/
def State.linkDown (s : State) (p : Nat) : State :=
  let s := s.modPort p (fun x => { x with up := false, cxl := false, hotplug := x.hotplug || x.up })
  (s.outstanding.filter (fun o => o.port == some p)).foldl (fun s o => s.failSent o 4) s

/-- LINK_DOWN R47. -/
def execLinkDown (port : Fin 64) (s : State) : Host.Outcome State Fault Refusal := .next (s.linkDown port)

/-- LINK_UP R133: a sub-port of the applied layout trains, for CXL where a CXL device is its partner (Config.cxlPartner,
the outside's) and the width is x4 or more (R61); the BAR sizes of NTB_WIN take effect. A link that is disabled stays down (R36). -/
def execLinkUp (port : Fin 64) (s : State) : Host.Outcome State Fault Refusal :=
  let p := port.val
  if s.subPortPresent p && !(s.portAt p).disabled then
    .next (s.modPort p fun x => { x with
      up := true, dpc := false, hotplug := x.hotplug || !x.up
      cxl := Config.cxlPartner p s.cycle && 3 ≤ s.hubField (Off.portCfg (p / 4)) (4 * (p % 4) + 3) (4 * (p % 4))
      barSizes := (s.hubField (Off.ntbWin (p / 4)) 5 0, s.hubField (Off.ntbWin (p / 4)) 13 8) })
  else .next s

/-- PORT_CFG_APPLY R43: a machine-mode write of PORT_CFG is held; with APPLY the held layout retrains the sub-ports of the group,
or is discarded with CFGERR. The other held fields are applied and discarded with the layout: the manual speaks of the layout
alone (notes/assumptions/66.md). -/
def execPortCfgApply (machineMode : Bool) (group : Fin 16) (data : BitVec 32) (s : State) : Host.Outcome State Fault Refusal :=
  let g := group.val
  let d := data.toNat
  if !machineMode then .next s
  else
    let s := if d.testBit 24 then s.hubSetField (Off.portCfg g) 24 24 0 else s
    let held := d % 2 ^ 24
    if !d.testBit 31 then .next { s with portHeld := SMap.put s.portHeld g held }
    else
      let s := { s with portHeld := SMap.erase s.portHeld g }
      if layoutOk held then
        .next ((List.range 4).foldl (fun s k => s.linkDown (4 * g + k)) (s.hubSetField (Off.portCfg g) 23 0 held))
      else .next (s.hubSetField (Off.portCfg g) 24 24 1)

/-- A port logs an error in AER. -/
def State.aerLog (s : State) (p : Nat) : State := s.modPort p (fun x => { x with aer := true, aerCount := x.aerCount + 1 })

/-- AER_ERROR_MESSAGE R47: an error reported below a root port, of which a fatal one triggers DPC; PME and slot messages set their
status (R115). -/
def execAerErrorMessage (port : Fin 64) (m : PortMessage) (s : State) : Host.Outcome State Fault Refusal :=
  match m with
  | .error fatal => .next ((s.aerLog port).modPort port (fun x => { x with dpc := x.dpc || fatal }))
  | .pme => .next (s.modPort port fun x => { x with pme := true })
  | .slot => .next (s.modPort port fun x => { x with hotplug := true })

/-- ASSERT_INTX R41: dropped, and logged as an advisory error. -/
def execAssertIntx (port : Fin 64) (s : State) : Host.Outcome State Fault Refusal := .next (s.aerLog port)

/-- IO_REQUEST R41: Unsupported Request. -/
def execIoRequest (port : Fin 64) (s : State) : Host.Outcome State Fault Refusal :=
  .next (s.emitTlp port (.completion 0 false [] false))

/-- PTM_REQUEST R161: in mode 2 a root port answers with %gtime. -/
def execPtmRequest (port : Fin 64) (s : State) : Host.Outcome State Fault Refusal :=
  if s.hubField Off.tsrc 1 0 = 2 then .next { s.emitTlp port (.reply s.gtime) with sourceSeen := s.gtime } else .next s

/-- IMSIC_SETEIPNUM R114. -/
def execImsicSeteipnum (file : ImsicFile) (identity : BitVec 32) (s : State) : Host.Outcome State Fault Refusal :=
  match file with
  | .m h => .next (s.interrupt h 0 identity.toNat)
  | .s h => .next (s.interrupt h 1 identity.toNat)
  | .guest h g => .next (s.interrupt h (2 + g) identity.toNat)

/-- The wired source `n` of the APLICs is asserted (R115). -/
def State.aplicSource (s : State) (n : Nat) : Bool :=
  let moved := fun (q : Nat) => s.hubField (q + 8) 31 0 != s.hubField (q + 16) 31 0
  match n with
  | 1 => s.hubField Off.pwrStat 14 14 == 1
  | 2 => moved Off.prqCfg
  | 3 => s.resizeDone != 0
  | 4 => moved Off.faultQ
  | 5 => moved Off.failQ
  | 6 => s.hubField (Off.tsrc + 24) 0 0 == 1
  | _ =>
    let p := s.portAt (n - 8)
    8 ≤ n && n < 72 && (p.aer || p.dpc || p.hotplug || p.pme)

/-! ### Configuration space (R113) -/

/-- CONFIG_READ R113: `size` is log2 of the bytes. A bus behind a root port is read there, and what its functions answer is a free
value, all ones where none is present. -/
def execConfigRead (offset : BitVec 27) (size : Fin 4) (s : State) : Host.Outcome State Fault Refusal :=
  let o := offset.toNat
  let n := 2 ^ size.val
  match s.busPort (o / 2 ^ 20) with
  | some p =>
    if o < 2 ^ 20 then .next (s.emit (.reply (BitVec.ofNat 64 (leNat (s.mmioBytes (ecamBase + o) n)))))
    else
      .next ((({ s with fresh := s.fresh + 1 } : State).emitTlp p (.config o none)).emit
        (.reply (BitVec.ofNat 64 ((Config.freeWord s.fresh).toNat % 2 ^ (8 * n)))))
  | none => .next (s.emit (.reply (BitVec.ofNat 64 (leNat (s.mmioBytes (ecamBase + o) n)))))

/-- The status bits that a write of byte `b` at offset `r` of a root port's header clears, and Link Disable, which takes its link
down (R36, R115). The offsets are PRESUMED, notes/assumptions/9.md. -/
def State.portStatusByte (s : State) (p r : Nat) (b : Byte) : State :=
  match r with
  | 0x50 =>
    let off := b.getLsbD 4
    let s := s.modPort p fun x => { x with disabled := off }
    if off && (s.portAt p).up then s.linkDown p else s
  | 0x5B => if b.getLsbD 0 then s.modPort p fun x => { x with hotplug := false } else s
  | 0x62 => if b.getLsbD 0 then s.modPort p fun x => { x with pme := false } else s
  | 0x130 => if b.getLsbD 0 then s.modPort p fun x => { x with aer := false } else s
  | 0x148 => if b.getLsbD 0 then s.modPort p fun x => { x with dpc := false } else s
  | _ => s

/-- One byte of the configuration space of a root port is written; the words whose bits its state supplies hold none of their
own. -/
def State.cfgByte (s : State) (o : Nat) (b : Byte) : State :=
  match cfgPort o with
  | some p =>
    if !s.subPortPresent p then s
    else if [0x50, 0x58, 0x60, 0x130, 0x148].contains (o % 4096 / 4 * 4) then s.portStatusByte p (o % 4096) b
    else
      { s with cfg := SMap.set s.cfg (o / 4) (BitVec.ofNat 32
          (setField (SMap.get s.cfg (o / 4) 0).toNat (8 * (o % 4) + 7) (8 * (o % 4)) b.toNat)) 0 }
  | none => s

/-- The function that a configuration address names is trusted again: the write covers the byte of a register in extended
configuration space that holds ATS Enable (R90). PRESUMED, notes/assumptions/9.md. -/
def State.trustAgain (s : State) (o n : Nat) : State :=
  if 0x100 ≤ o % 4096 && (List.range n).any (fun i => (o + i) % 4 == 3) then
    { s with distrusted := s.distrusted.filter (fun r => r.toNat ≠ o / 4096) }
  else s

/-- CONFIG_WRITE R113: `size` is log2 of the bytes. A write to a bus behind a root port goes there; one to an absent function is
dropped. -/
def execConfigWrite (offset : BitVec 27) (size : Fin 4) (data : BitVec 32) (s : State) : Host.Outcome State Fault Refusal :=
  let o := offset.toNat
  let n := min 4 (2 ^ size.val)
  let bs := (List.range n).map fun i => data.extractLsb' (8 * i) 8
  let here := fun (_ : Unit) => (bs.zipIdx).foldl (fun s e => s.cfgByte (o + e.2) e.1) s
  let s := match s.busPort (o / 2 ^ 20) with
    | some p => if 2 ^ 20 ≤ o then s.emitTlp p (.config o (some bs)) else here ()
    | none => here ()
  .next (s.trustAgain o n)

/-! ### Ubnor (R65) -/

/-- UBNOR_FLIT R65: a flit is taken, or resent at link level; programs see neither. -/
def execUbnorFlit (_port : Fin 24) (_crcOk : Bool) (s : State) : Host.Outcome State Fault Refusal := .next s

/-- UBNOR_PORT_DEGRADE R65. -/
def execUbnorPortDegrade (port : Fin 24) (s : State) : Host.Outcome State Fault Refusal :=
  let s := s.faultRecord (mkRecord 9 0 none 0 (BitVec.ofNat 64 port.val))
  .next { s with ubnorNarrow := (port.val :: s.ubnorNarrow).eraseDups }

end Sys2Proof.Machine
end

