-- ==== Sys2Proof/Machine/Aplic.lean ====
section
/-!
DEFINITION. The two APLICs of the hub (R115): their registers as the AIA lays them out (PRESUMED, notes/assumptions/69.md), the
sources they watch, and the messages they send to the interrupt files.
-/

namespace Sys2Proof.Machine

/-- Source `i` is delegated from the M domain to the S domain. -/
def State.delegated (s : State) (i : Nat) : Bool := (SMap.get (s.aplicAt 0).sources i 0).getLsbD 10

/-- The mode of source `i` in domain `d`: 0 inactive, 1 detached, 4 and 5 edges, 6 and 7 levels. -/
def State.sourceMode (s : State) (d i : Nat) : Nat :=
  if (d == 1) != s.delegated i then 0 else (SMap.get (s.aplicAt d).sources i 0).toNat % 8

/-- The input of a source as its mode rectifies it. -/
def State.rectified (s : State) (d i : Nat) : Bool :=
  match s.sourceMode d i with
  | 4 | 6 => s.aplicSource i
  | 5 | 7 => !s.aplicSource i
  | _ => false

/-- A message for `target`: hart in bits [31:18], guest file in [17:12], identity in [10:0]. -/
def State.sendMsi (s : State) (d target : Nat) : State :=
  let h := field target 31 18
  let g := if d = 0 then 0 else field target 17 12
  if h < 16 && g ≤ 7 then s.interrupt h (if d = 0 then 0 else 1 + g) (field target 10 0) else s

/-- Domain `d` sees its inputs: a rise makes a source pending, a fall of a level ends it, and pending sources that are enabled send
their messages. -/
def State.aplicDomain (s : State) (d : Nat) : State :=
  let x := s.aplicAt d
  let high := (x.sources.map (·.1)).filter (s.rectified d)
  let fell := fun i => x.high.contains i && !high.contains i && 6 ≤ s.sourceMode d i
  let pending := (x.pending.filter fun i => !fell i) ++ high.filter fun i => !x.high.contains i && !x.pending.contains i
  let go := if x.config.getLsbD 8 then pending.filter x.enabled.contains else []
  let s := s.modAplic d fun x => { x with high := high, pending := pending.filter fun i => !go.contains i }
  go.foldl (fun s i => s.sendMsi d (SMap.get x.targets i 0).toNat) s

/-- The hub's wired sources reach the interrupt files (R115). -/
def State.aplicTick (s : State) : State := if s.aplics.isEmpty then s else (s.aplicDomain 0).aplicDomain 1

/-- Sources become pending by software: one that is inactive does not, and a level only while its input is asserted. -/
def State.setPending (s : State) (d : Nat) (is : List Nat) : State :=
  let ok := is.filter fun i => s.sourceMode d i != 0 && (s.sourceMode d i < 6 || s.rectified d i)
  s.modAplic d fun x => { x with pending := x.pending ++ ok.filter fun i => !x.pending.contains i }

/-- The sources named by a word of a bit array. -/
def sourcesOf (k v : Nat) : List Nat := ((List.range 32).filter v.testBit).map (32 * k + ·)

/-- A source is configured: in the M domain it may be delegated; only a source that is delegated exists in the S domain. -/
def State.setSource (s : State) (d i v : Nat) : State :=
  if d = 1 && !s.delegated i then s
  else
    let w := if d = 0 && v.testBit 10 then 2 ^ 10 else if v % 8 = 2 || v % 8 = 3 then 0 else v % 8
    let s := s.modAplic d fun x => { x with sources := SMap.set x.sources i (BitVec.ofNat 32 w) 0 }
    let off := fun (s : State) (d : Nat) =>
      if s.sourceMode d i = 0 then
        s.modAplic d fun x => { x with pending := x.pending.filter (· != i), enabled := x.enabled.filter (· != i) }
      else s
    off (off s 0) 1

/-- A 4-byte write to register `r` of domain `d`. -/
def State.aplicWrite (s : State) (d r v : Nat) : State :=
  let clear := fun (is : List Nat) => s.modAplic d fun x => { x with pending := x.pending.filter fun i => !is.contains i }
  let enable := fun (is : List Nat) => s.modAplic d fun x => { x with
    enabled := x.enabled ++ is.filter fun i => s.sourceMode d i != 0 && !x.enabled.contains i }
  let disable := fun (is : List Nat) => s.modAplic d fun x => { x with enabled := x.enabled.filter fun i => !is.contains i }
  if r = 0 then s.modAplic d fun x => { x with config := BitVec.ofNat 32 (v &&& 0x101) }
  else if r < 0x1000 then s.setSource d (r / 4) v
  else if 0x1C00 ≤ r && r < 0x1C80 then s.setPending d (sourcesOf ((r - 0x1C00) / 4) v)
  else if r = 0x1CDC || r = 0x2000 then s.setPending d [v]
  else if r = 0x2004 then s.setPending d [swapBytes v 4]
  else if 0x1D00 ≤ r && r < 0x1D80 then clear (sourcesOf ((r - 0x1D00) / 4) v)
  else if r = 0x1DDC then clear [v]
  else if 0x1E00 ≤ r && r < 0x1E80 then enable (sourcesOf ((r - 0x1E00) / 4) v)
  else if r = 0x1EDC then enable [v]
  else if 0x1F00 ≤ r && r < 0x1F80 then disable (sourcesOf ((r - 0x1F00) / 4) v)
  else if r = 0x1FDC then disable [v]
  else if r = 0x3000 then (s.modAplic d fun x => { x with genmsi := BitVec.ofNat 32 v }).sendMsi d v
  else if 0x3000 < r && r < 0x4000 then
    s.modAplic d fun x => { x with targets := SMap.set x.targets ((r - 0x3000) / 4) (BitVec.ofNat 32 v) 0 }
  else s

end Sys2Proof.Machine
end

