-- ==== Sys2Proof/Machine/Boot.lean ====
section
/-!
DEFINITION. Power and heat (R11 to R20), bring-up and the boot image (R21 to R32), the safe talkative state and its management
interface (R33 to R35): 01_package_power_boot.md.
-/

namespace Sys2Proof.Machine

/-! ### BOOT_STATUS and the safe state (R29, R30, R33) -/

def State.phase (s : State) : Nat := s.hubField Off.bootStatus 3 0
def State.setPhase (s : State) (p : Nat) : State := s.hubSetField Off.bootStatus 3 0 p

/-- The lowest address that no die of the package holds: CXL memory is another device's (R77). -/
def cxlBase : Nat := 0x100000000000

/-- The package with none of its own state: what a package reset leaves, beside the boot block. CXL memory is kept; the
converter generators take new seeds (R320). -/
def State.cleared (s : State) : State :=
  { State.reset with
    mem := s.mem.filter (fun e => cxlBase ≤ e.1)
    poisoned := s.poisoned.filter (fun e => cxlBase ≤ 32 * e.1)
    reseeds := (List.range 256).map fun n => (n, SMap.get s.reseeds n 0 + 1)
    fresh := s.fresh
    out := s.out
    inputs := s.inputs }

/-- The safe talkative state with a failure code (R17, R29, R33): every core is held in reset and every port idle, so that
nothing of them is left; BOOT_STATUS, CLUSTER_AVAIL and PWR_STAT stay readable, with no throttling in force (R20); the first failure
stays. -/
def State.enterSafe (s : State) (code : Nat) : State :=
  let status := s.hubGet Off.bootStatus
  let status := if field status 15 8 = 0 then setField status 15 8 code else status
  let t := ((s.cleared.hubPut Off.bootStatus (setField status 3 0 15)).hubPut Off.clusterAvail
    (s.hubGet Off.clusterAvail)).hubPut Off.pwrStat (setField (s.hubGet Off.pwrStat) 13 12 0)
  { t with boot := { s.boot with safe := true }, power := { t.power with readings := s.power.readings } }

/-- SAFE_TALKATIVE_ENTRY R33, with a code of R31; a reserved code is never reported. -/
def execSafeTalkativeEntry (code : Byte) (s : State) : Host.Outcome State Fault Refusal :=
  if 1 ≤ code.toNat && code.toNat ≤ 0x0B then .next (s.enterSafe code.toNat) else .next s

/-- SUPPLY_OUT_OF_RANGE R31. -/
def execSupplyOutOfRange (s : State) : Host.Outcome State Fault Refusal := .next (s.enterSafe 0x0B)

/-- Package reset: phase 1, the pins sampled (R21, R23, R35). The MCTP endpoint ID stays as the bus owner assigned it: the manual
does not say (notes/assumptions/66.md). -/
def State.packageReset (s : State) (pins : BitVec 4) : State :=
  { s.cleared with boot := { State.reset.boot with pins := pins, eid := s.boot.eid } }

/-- PACKAGE_RESET R23. -/
def execPackageReset (bootPins : BitVec 4) (s : State) : Host.Outcome State Fault Refusal := .next (s.packageReset bootPins)

/-- PLDM_RESET_EFFECTER R35: the pins are sampled (R21); their levels then are an input from outside, a free value. -/
def execPldmResetEffecter (s : State) : Host.Outcome State Fault Refusal :=
  .next (({ s with fresh := s.fresh + 1 } : State).packageReset ((Config.freeWord s.fresh).setWidth 4))

/-! ### Phases (R21 to R28) -/

/-- The boot port: the fuse where it is locked, else the pins (R21). -/
def Boot.port (b : Boot) : BitVec 4 := if Config.bootFusePortLock then Config.bootFusePort else b.pins

/-- HUB_SELF_TEST R23. -/
def execHubSelfTest (pass : Bool) (s : State) : Host.Outcome State Fault Refusal :=
  if s.phase ≠ 1 then .next s else if pass then .next (s.setPhase 2) else .next (s.enterSafe 7)

/-- BOOT_PORT_TRAIN R23: the port trains for CXL, and decoder 0 of the port holds the HDM range found there: base and size
(R61). -/
def execBootPortTrain (trained : Bool) (hdm : Option (BitVec 52 × BitVec 52)) (s : State) : Host.Outcome State Fault Refusal :=
  if s.phase ≠ 2 then .next s
  else if !trained then .next (s.enterSafe 1)
  else
    match hdm with
    | none => .next (s.enterSafe 2)
    | some (b, size) =>
      let p := 4 * s.boot.port.toNat
      let s := (((s.setPhase 3).modPort p (fun x => { x with up := true, cxl := true })).setDecoder p 0
        { on := true, base := b.toNat, size := size.toNat, ways := 1, grain := 256, pos := 0 }).hubSetField
        (Off.loamPma 0) 51 12 (b.toNat / 4096)
      .next { s with boot := { s.boot with hdm := some b } }

/-- The image base. -/
def State.image (s : State) : Nat := (s.boot.hdm.getD 0).toNat

/-- `n` bytes at offset `o` of the header that phase 3 read and checked, as a number. -/
def State.header (s : State) (o n : Nat) : Nat := leNat ((s.boot.header.drop o).take n)

/-- ALLOW_DEGRADED. -/
def State.allowDegraded (s : State) : Bool := s.header 0xC 4 % 2 == 1

/-- Blocks of the image, and of its continuation table (R22). -/
def State.imageBlocks (s : State) : Nat := s.header 0x10 8 / 65536
def State.tableBlocks (s : State) : Nat := ((s.imageBlocks - 61) * 64 + 65535) / 65536

/-- The header is well formed (R22). A length of 0, and an entry at or past the length, are malformed too
(notes/assumptions/66.md). -/
def State.headerWf (s : State) : Bool :=
  let len := s.header 0x10 8
  let entry := s.header 0x18 8
  s.header 0 8 == Config.bootMagic.toNat && s.header 8 4 == 1 && s.header 0xC 4 < 2 &&
    len % 65536 == 0 && 0 < len && len ≤ 2 ^ 28 &&
    0x1000 ≤ entry && entry < len && !(0x10000 ≤ entry && entry < 0x10000 * (1 + s.tableBlocks))

/-- The header checks in the order of R23; 0 where it passes. -/
def State.headerCode (s : State) : Nat :=
  let h := s.boot.header
  if !s.headerWf then 3
  else if Config.sha512 ((h.drop 0x20).take 32) ≠ Config.fusedKeyHash then 4
  else if !Config.ed25519Valid (BitVec.ofNat 256 (s.header 0x20 32)) (BitVec.ofNat 512 (s.header 0x40 64))
      (Config.sha512 (h.take 0x40 ++ h.drop 0x80)) then 5
  else if s.header 0x80 64 < Config.fusedMinVersion.toNat then 5
  else 0

/-- What follows when the header and the cluster results are both known (R28). -/
def State.degradedCheck (s : State) : State :=
  if s.boot.headerOk == some true && s.boot.clustersOk == some false then
    if s.allowDegraded then s.hubSetField Off.bootStatus 16 16 1 else s.enterSafe 8
  else s

/-- HEADER_CHECKS R23. -/
def execHeaderChecks (s : State) : Host.Outcome State Fault Refusal :=
  if s.phase ≠ 3 then .next s
  else
    let h := s.bytes s.image 4096
    let s := { s with boot := { s.boot with header := h, measured := Config.sha512 h } }
    if s.headerCode = 0 then
      let s := s.hubSetField (Off.loamPma 0 + 8) 51 12 ((s.image + s.header 0x10 8 - 1) / 4096)
      .next (({ s with boot := { s.boot with headerOk := some true } } : State).degradedCheck)
    else .next (s.enterSafe s.headerCode)

/-- COMPUTE_DIE_SELF_TEST R27: `pass` names the clusters that pass, `links` the links between the hub and the dies. A cluster that
fails is fenced off, its vault and its L2 slice too. -/
def execComputeDieSelfTest (pass : BitVec 64) (links : Bool) (s : State) : Host.Outcome State Fault Refusal :=
  if s.phase ≠ 3 then .next s
  else if !links then .next (s.enterSafe 7)
  else
    let s := s.hubPut Off.clusterAvail pass.toNat
    let s := { s with fenced := ~~~pass }
    let s := ((List.range 64).filter fun c => !pass.getLsbD c).foldl (fun s c => s.modSlice c fun x => { x with inService := false }) s
    .next (({ s with boot := { s.boot with clustersOk := some (pass == BitVec.allOnes 64) } } : State).degradedCheck)

/-- HBM_TRAINING R23. -/
def execHbmTraining (pass : BitVec 8) (s : State) : Host.Outcome State Fault Refusal :=
  if s.phase ≠ 3 then .next s
  else if pass == BitVec.allOnes 8 then .next { s with boot := { s.boot with hbmOk := some true } }
  else .next (s.enterSafe 9)

/-- The phase-3 results are in, and none failed. -/
def State.readyForFirmware (s : State) : Bool :=
  s.phase == 3 && s.boot.headerOk == some true && s.boot.clustersOk.isSome && s.boot.hbmOk == some true

/-- FIRMWARE_ENTRY R23: at the later of the phase-3 results hart 0 jumps to the entry. -/
def execFirmwareEntry (s : State) : Host.Outcome State Fault Refusal :=
  if s.readyForFirmware then
    .next ((s.setPhase 4).modHart 0 fun h => { h with entry := some (BitVec.ofNat 64 (s.image + s.header 0x18 8)) })
  else .next s

/-! ### The verifying fetch path (R24 to R26) -/

def State.xipOn (s : State) : Bool := s.hubField Off.bootStatus 17 17 == 1

/-- The hash that a block must have: from the header, or from the continuation table in its verified blocks. -/
def State.blockHash (s : State) (b : Nat) : Option (BitVec 512) :=
  if b < 61 then some (BitVec.ofNat 512 (s.header (0xC0 + 64 * b) 64))
  else
    let o := 64 * (b - 61)
    (s.boot.verified.find? (fun e => e.1 == 1 + o / 65536)).map fun e =>
      BitVec.ofNat 512 (leNat ((e.2.drop (o % 65536)).take 64))

/-- A block enters the boot cache of 64 blocks once its hash agrees (R24, R25); padding of the table must be zero (R22). Of two
failures of one table block the hash counts first, and a full cache drops the block verified longest ago
(notes/assumptions/66.md). -/
def State.verifyBlock (s : State) (b : Nat) : State :=
  let bytes := s.bytes (s.image + 65536 * b) 65536
  let digest := Config.sha512 (if b = 0 then bytes.drop 0x1000 else bytes)
  let table := 1 ≤ b && b ≤ s.tableBlocks
  let used := min 65536 ((s.imageBlocks - 61) * 64 - 65536 * (b - 1))
  if s.blockHash b ≠ some digest then s.enterSafe 6
  else if table && (bytes.drop used).any (· != 0) then s.enterSafe 3
  else
    let kept := s.boot.verified.filter (fun e => e.1 ≠ b)
    { s with boot := { s.boot with verified := kept.drop (kept.length - 63) ++ [(b, bytes)] } }

/-- The boot cache holds a block. -/
def State.cached (s : State) (b : Nat) : Bool := s.boot.verified.any fun e => e.1 == b

/-- A block that the cache does not hold is read and hashed, its table block first where the hash lies in one that the cache does
not hold; every other is served from the copy (R24). -/
def State.fetchBlock (s : State) (b : Nat) : State :=
  let t := 1 + 64 * (b - 61) / 65536
  if s.cached b then s
  else
    let s := if 61 ≤ b && !s.cached t then s.verifyBlock t else s
    if s.boot.safe then s else s.verifyBlock b

/-- BOOT_BLOCK_VERIFY R24. -/
def execBootBlockVerify (block : BitVec 12) (s : State) : Host.Outcome State Fault Refusal :=
  if (s.phase = 4 || s.phase = 5) && s.xipOn && block.toNat < s.imageBlocks then .next (s.fetchBlock block.toNat)
  else .next s

/-- XIP_OFF R26: a machine-mode write of 1 to BOOT_CTL.XIP_OFF. -/
def execXipOff (machineMode : Bool) (data : BitVec 32) (s : State) : Host.Outcome State Fault Refusal :=
  if machineMode && data.getLsbD 0 then
    let s := s.hubSetField Off.bootStatus 17 17 0
    .next { s with boot := { s.boot with verified := [] } }
  else .next s

/-! ### Power and heat (R11 to R20) -/

/-- The highest junction temperature of a sample: every temperature monitor lies at a junction (R11, R18, R20). -/
def hottest (m : MonitorReadings) : Nat := (m.clusterTemp ++ m.hbmTemp).foldl max m.hubTemp

/-- Since when a measure has been calm, after a sample in which it is so or not. -/
def calmSince (since : Option DWord) (calm : Bool) (now : DWord) : Option DWord := if calm then since.or (some now) else none

/-- It has been calm for 100 µs (R14). -/
def calmLong (since : Option DWord) (now : DWord) : Bool := since.any fun t => t.toNat + 100000 ≤ now.toNat

/-- The duty of each cluster under the heat-flux limit (R11, R13): while its flux is above 250 W/cm² some eighths fewer than 8, and
how many is a free value, for the manual gives no step (notes/assumptions/67.md). -/
def fluxDuties (n : Nat) (flux : List Nat) : SMap Nat :=
  (flux.zipIdx.filter fun e => 250 < e.1).map fun e => (e.2, 1 + (Config.freeWord (n + e.2)).toNat % 7)

/-- MONITOR_SAMPLE R18, with ALERT and the trip of R17 and the heat-flux limit of R11. Readings past the width of their fields
show as the largest value (notes/assumptions/66.md). -/
def execMonitorSample (m : MonitorReadings) (s : State) : Host.Outcome State Fault Refusal :=
  let c := s.power.control
  let under := m.power50us * 100 < field c 31 20 * 95 && m.power100ms * 100 < field c 19 8 * 95
  let s := { s with
    power := { s.power with
      readings := m
      fluxDuty := fluxDuties s.fresh m.clusterFlux
      calm := calmSince s.power.calm under s.gtime
      hbmCalm := calmSince s.power.hbmCalm (m.hbmPower * 100 < 900 * 95) s.gtime }
    fresh := s.fresh + m.clusterFlux.length }
  let alert := m.clusterTemp.any (fun t => field c 6 0 + 10 ≤ t)
  let s := (s.hubSetField Off.pwrStat 11 0 (min 0xFFF m.power50us)).hubSetField Off.pwrStat 22 16 (min 127 (hottest m))
  let s := if alert then s.hubSetField Off.pwrStat 14 14 1 else s
  .next (if 110 ≤ hottest m then s.enterSafe 0x0A else s)

/-- A level of eighths one step down or up. -/
def levelDown (n : Nat) : Nat := max 1 (n - 1)
def levelUp (n : Nat) : Nat := min 8 (n + 1)

/-- The rates of the eight HBM stacks after a step. -/
def stackRates (m : SMap Nat) (g : Nat → Nat) : SMap Nat :=
  (List.range 8).foldl (fun m i => SMap.set m i (g (SMap.get m i 8)) 8) m

/-- PTHR: a power step is in force (R20). -/
def State.powerFlag (s : State) : State :=
  s.hubSetField Off.pwrStat 12 12 (if s.power.powerDuty < 8 || !s.power.hbmRate.isEmpty then 1 else 0)

/-- The 10 µs step of R14, once in each: PWR_CTL comes into force (R19), and duty and HBM rates go down where a limit is
exceeded. -/
def State.powerDown (s : State) : State :=
  let p := s.power
  let c := s.hubGet Off.pwrCtl
  let above := field c 31 20 < p.readings.power50us || field c 19 8 < p.readings.power100ms
  ({ s with power := { p with
      control := c, stepped := s.gtime.toNat / 10000
      powerDuty := if above then levelDown p.powerDuty else p.powerDuty
      hbmRate := if 900 < p.readings.hbmPower then stackRates p.hbmRate levelDown else p.hbmRate } } : State).powerFlag

/-- The 100 µs step of R14: duty, and the HBM rates, go up where their power has stayed below 95 % of its limits for that long. -/
def State.powerUp (s : State) : State :=
  let p := s.power
  let duty := calmLong p.calm s.gtime
  let rate := calmLong p.hbmCalm s.gtime
  ({ s with power := { p with
      powerDuty := if duty then levelUp p.powerDuty else p.powerDuty
      calm := if duty then some s.gtime else p.calm
      hbmRate := if rate then stackRates p.hbmRate levelUp else p.hbmRate
      hbmCalm := if rate then some s.gtime else p.hbmCalm } } : State).powerFlag

/-- POWER_DUTY_STEP R14: a 10 µs step down, or a 100 µs step up. -/
def execPowerDutyStep (raise : Bool) (s : State) : Host.Outcome State Fault Refusal :=
  if raise then .next s.powerUp
  else if s.gtime.toNat / 10000 = s.power.stepped then .next s
  else .next s.powerDown

/-- The numbers of the last 10 µs and 100 µs thermal steps of a cluster. -/
def Power.thermalStep (p : Power) (cluster : Nat) : Nat × Nat := SMap.get p.thermalSteps cluster (0, 0)

/-- THERMAL_DUTY_STEP R15: once in each 10 µs down, once in each 100 µs up. -/
def execThermalDutyStep (cluster : Fin 64) (raise : Bool) (s : State) : Host.Outcome State Fault Refusal :=
  let last := s.power.thermalStep cluster
  let now := (if raise then last.1 else s.gtime.toNat / 10000, if raise then s.gtime.toNat / 100000 else last.2)
  if now = last then .next s
  else
    let t := s.power.readings.clusterTemp.getD cluster 0
    let limit := field s.power.control 6 0
    let old := SMap.get s.power.thermalDuty cluster 8
    let new := if raise then (if t + 3 ≤ limit then levelUp old else old) else if limit ≤ t then levelDown old else old
    let duties := SMap.set s.power.thermalDuty cluster new 8
    let s := { s with power := { s.power with
      thermalDuty := duties, thermalSteps := SMap.set s.power.thermalSteps cluster now (0, 0) } }
    .next (s.hubSetField Off.pwrStat 13 13 (if duties.isEmpty then 0 else 1))

/-- PWR_CTL_WRITE R19: each field by its own limits, PEAKW against the SUSTW that the same write leaves
(notes/assumptions/66.md). It comes into force at the next 10 µs step. -/
def execPwrCtlWrite (machineMode : Bool) (data : BitVec 32) (s : State) : Host.Outcome State Fault Refusal :=
  if !machineMode then .next s
  else
    let d := data.toNat
    let put := fun (hi lo : Nat) (ok : Nat → Bool) (s : State) =>
      if ok (field d hi lo) then s.hubSetField Off.pwrCtl hi lo (field d hi lo) else s
    let s := put 6 0 (fun v => 70 ≤ v && v ≤ 100) s
    let s := put 19 8 (fun v => 800 ≤ v && v ≤ 3200) s
    .next (put 31 20 (fun v => s.hubField Off.pwrCtl 19 8 ≤ v && v ≤ 3600) s)

/-! ### Management (R33 to R35) -/

/-- MCTP_ENDPOINT_ID_ASSIGN R33. -/
def execMctpEndpointIdAssign (eid : Byte) (s : State) : Host.Outcome State Fault Refusal :=
  .next { s with boot := { s.boot with eid := eid } }

/-- The monitors as PLDM numbers them, from 4 up: the temperatures of the clusters, of the HBM base dies and of the hub die, the
supplies of the cores (R18, R33); the numbers are the model's (notes/assumptions/31.md). -/
def monitorSensor (m : MonitorReadings) (n : Nat) : Option Nat :=
  if n < 4 then none
  else if n < 68 then m.clusterTemp[n - 4]?
  else if n < 76 then m.hbmTemp[n - 68]?
  else if n = 76 then some m.hubTemp
  else m.supplies[n - 77]?

/-- PLDM_SENSOR_READ R33: sensor 1 is BOOT_STATUS (R30); a monitor that no reading shows answers a free value. -/
def execPldmSensorRead (sensor : Nat) (s : State) : Host.Outcome State Fault Refusal :=
  let reply := fun (v : Nat) => Host.Outcome.next (s.emit (.management sensor (BitVec.ofNat 512 v)))
  match sensor with
  | 1 => reply (s.hubRead Off.bootStatus)
  | 2 => reply (s.hubRead Off.clusterAvail)
  | 3 => reply (s.hubRead Off.pwrStat)
  | n =>
    match monitorSensor s.power.readings n with
    | some v => reply v
    | none => .next (({ s with fresh := s.fresh + 1 } : State).emit
        (.management sensor ((Config.freeWord s.fresh).setWidth 512)))

/-- The numbers under which SPDM replies go out. -/
def spdmRequest (n : Nat) : Nat := 0x100 + n

/-- An SPDM reply whose content SPDM 1.3 gives. -/
def State.spdm (s : State) (n : Nat) (nonce : BitVec 256) : Host.Outcome State Fault Refusal :=
  .next (s.emit (.management (spdmRequest n) (Config.spdmReply n nonce)))

/-- GET_VERSION R33. -/
def execGetVersion (s : State) : Host.Outcome State Fault Refusal := s.spdm 0 0
/-- GET_CAPABILITIES R33. -/
def execGetCapabilities (s : State) : Host.Outcome State Fault Refusal := s.spdm 1 0
/-- NEGOTIATE_ALGORITHMS R33. -/
def execNegotiateAlgorithms (s : State) : Host.Outcome State Fault Refusal := s.spdm 2 0
/-- GET_DIGESTS R33. -/
def execGetDigests (s : State) : Host.Outcome State Fault Refusal := s.spdm 3 0
/-- GET_CERTIFICATE R33. -/
def execGetCertificate (s : State) : Host.Outcome State Fault Refusal := s.spdm 4 0
/-- CHALLENGE R33. -/
def execChallenge (nonce : BitVec 256) (s : State) : Host.Outcome State Fault Refusal := s.spdm 5 nonce

/-- GET_MEASUREMENTS R34; index 1 reports 0 before any header has been read (notes/assumptions/66.md). -/
def execGetMeasurements (index : Byte) (s : State) : Host.Outcome State Fault Refusal :=
  let reply := fun (v : BitVec 512) => Host.Outcome.next (s.emit (.management (spdmRequest 6) v))
  match index.toNat with
  | 1 => reply s.boot.measured
  | 2 => reply Config.fuseState
  | 3 => reply (BitVec.ofNat 512 (s.hubRead Off.bootStatus))
  | _ => s.spdm 6 0

end Sys2Proof.Machine
end

