-- ==== Sys2Proof/Machine/Lane.lean ====
section
/-!
DEFINITION. Lane instructions, class 0x5 (17_isa_lane_matrix.md, R471 to R478; R328, R329).
-/

namespace Sys2Proof.Machine

/-- The tile width in visible lanes (R198, R471). -/
def Ctx.tileWidth (c : Ctx) : Nat := if c.lr.prot then min c.w.tile 16 else c.w.tile

/-- The physical lane of visible lane `v` on the side of lane `l`: shadows see shadows (R471). -/
def Ctx.sideLane (c : Ctx) (l v : Nat) : Nat := if c.lr.prot then 2 * v + l % 2 else v

/-- The physical lanes of the positions of `l`'s tile, in order. -/
def Ctx.tileLanes (c : Ctx) (l : Nat) : List Nat :=
  let w := c.tileWidth
  (List.range w).map fun i => c.sideLane l (c.lr.visible l / w * w + i)

/-- The lanes of `l`'s tile that take part (R471). -/
def Ctx.takers (c : Ctx) (ls : List Nat) (l : Nat) : List Nat := (c.tileLanes l).filter ls.contains

/-- The mask of visible lanes. -/
def Ctx.visibleMask (c : Ctx) (ls : List Nat) : Word := maskOf (ls.map c.lr.visible)

/-- The tile covers the whole wave (R471). -/
def Ctx.wholeTile (c : Ctx) : Bool := c.tileWidth == (if c.lr.prot then 16 else 32)

/-- A scalar D of BALLOT, ELECT and RED needs a tile that covers the wave (R471). -/
def scalarTile (f : Fields) (c : Ctx) (_ : Nat) : Option PTrap :=
  match f.d with
  | .s _ => if c.wholeTile then none else some (trapHere 2 (BitVec.ofNat 64 (f.d.code.toNat * 2 ^ 8)) c.s.cur.pc)
  | _ => none

/-- VOTE of one lane (R473). -/
def voteLane (f : Fields) (c : Ctx) (ls : List Nat) (l : Nat) : List (Dst × Reg) :=
  let q := fun m => (c.w.thread m).pred (modField f 5 3) != modBit f 8
  let t := c.takers ls l
  let pd := modField f 2 3
  match modField f 0 2 with
  | 0 => putPred l pd (t.all q)
  | 1 => putPred l pd (t.any q)
  | 2 => putPred l pd (t.all q || t.all (fun m => !q m))
  | _ => c.put32 l f.d (c.visibleMask (t.filter q)) false

/-- VOTE R473. -/
def execVote (f : Fields) (s : State) : Host.Outcome State Fault Refusal :=
  .next (s.issue .vote f (scalarTile f) fun c ls s => s.writeFixed c.k 6 (ls.flatMap (voteLane f c ls)))

/-- ELECT R474. -/
def execElect (f : Fields) (s : State) : Host.Outcome State Fault Refusal :=
  .next (s.issue .elect f (scalarTile f) fun c ls s =>
    s.writeFixed c.k 6 (ls.flatMap fun l =>
      let chosen := ((c.takers ls l).head?).getD l
      putPred l (modField f 0 3) (chosen == l) ++ c.put32 l f.d (BitVec.ofNat 32 (c.lr.visible chosen)) false))

/-- The source position of SHFL in its tile (R475). -/
def shflSource (mode w i d : Nat) : Nat :=
  match mode with
  | 0 => d % w
  | 1 => if d ≤ i then i - d else i
  | 2 => if i + d < w then i + d else i
  | _ => i ^^^ (d % w)

/-- The lane that SHFL reads for lane `l` (R475). -/
def Ctx.shflLane (c : Ctx) (f : Fields) (l : Nat) : Nat :=
  let w := c.tileWidth
  let v := c.lr.visible l
  c.sideLane l (v / w * w + shflSource (modField f 0 2) w (v % w) ((c.b32 l f).val.toNat % 32))

/-- SHFL R475. -/
def execShfl (f : Fields) (s : State) : Host.Outcome State Fault Refusal :=
  let n := if modBit f 2 then 2 else 1
  .next (s.issue .shfl f noCheck fun c ls s =>
    (s.writeVar c.k (ls.flatMap fun l => c.put l f.d (c.group (c.shflLane f l) f.a n))).consumeOthers c ls (c.shflLane f) f.a n)

/-- MATCH R476. -/
def execMatch (f : Fields) (s : State) : Host.Outcome State Fault Refusal :=
  .next (s.issue .matchLanes f noCheck fun c ls s =>
    s.writeVar c.k (ls.flatMap fun l =>
      let t := c.takers ls l
      let a := fun m => (c.group m f.a (if modBit f 0 then 2 else 1)).map (·.val)
      let same := t.filter (fun m => a m == a l)
      c.put32 l f.d (c.visibleMask same) false ++ putPred l (modField f 1 3) (same == t)))

/-- The combination of RED and SCAN (R477). -/
def combine (op rnd : Nat) (a b : Reg) : Reg :=
  let x := a.x || b.x
  let int := fun (v : Word) => (⟨v, x⟩ : Reg)
  let float := fun (r : Rounded) => (⟨BitVec.ofNat 32 r.code, x || r.inx⟩ : Reg)
  match op with
  | 0 => int (a.val + b.val)
  | 1 => int (if a.val.toInt ≤ b.val.toInt then a.val else b.val)
  | 2 => int (if a.val.toInt ≤ b.val.toInt then b.val else a.val)
  | 3 => int (if a.val.toNat ≤ b.val.toNat then a.val else b.val)
  | 4 => int (if a.val.toNat ≤ b.val.toNat then b.val else a.val)
  | 5 => int (a.val &&& b.val)
  | 6 => int (a.val ||| b.val)
  | 7 => int (a.val ^^^ b.val)
  | 8 => float (FloatFmt.f32.round ⟨rnd, 0⟩ false ((f32Of a.val).add (f32Of b.val) (rnd == 3)))
  | 9 => float (FloatFmt.f32.select false a.val.toNat b.val.toNat)
  | _ => float (FloatFmt.f32.select true a.val.toNat b.val.toNat)

/-- combine of R328, with absent operands. -/
def combineOpt (op rnd : Nat) (a b : Option Reg) : Option Reg :=
  match a, b with
  | some x, some y => some (combine op rnd x y)
  | some x, none => some x
  | none, y => y

/-- Neighbours combined: one level of the tree (R328). -/
def treeLevel (op rnd : Nat) (xs : List (Option Reg)) : List (Option Reg) :=
  match xs with
  | a :: b :: rest => combineOpt op rnd a b :: treeLevel op rnd rest
  | xs => xs

/-- The root of the tree over 2^levels positions. -/
def treeRoot (op rnd levels : Nat) (xs : List (Option Reg)) : Option Reg :=
  match levels with
  | 0 => xs.headD none
  | n + 1 => treeRoot op rnd n (treeLevel op rnd xs)

/-- Recursive doubling from distance 2^d (R329). -/
def scanFrom (op rnd d : Nat) (xs : List (Option Reg)) (fuel : Nat) : List (Option Reg) :=
  match fuel with
  | 0 => xs
  | n + 1 =>
    let shifted := List.replicate (2 ^ d) none ++ xs
    scanFrom op rnd (d + 1) ((xs.zip shifted).zipIdx.map fun e =>
      if 2 ^ d ≤ e.2 then combineOpt op rnd e.1.2 e.1.1 else e.1.1) n

/-- The operands at the positions of `l`'s tile; absent where a lane does not take part. -/
def Ctx.operands (c : Ctx) (ls : List Nat) (a : Operand) (l : Nat) : List (Option Reg) :=
  (c.tileLanes l).map fun m => if ls.contains m then some (c.reg m a 0) else none

/-- RED R477. -/
def execRed (f : Fields) (s : State) : Host.Outcome State Fault Refusal :=
  .next (s.issue .red f (scalarTile f) fun c ls s =>
    s.writeVar c.k (ls.flatMap fun l =>
      c.put l f.d [(treeRoot (modField f 0 4) (modField f 4 3) 5 (c.operands ls f.a l)).getD .zero]))

/-- The identity of an operation (R478). -/
def scanIdentity (op : Nat) : Word :=
  match op with
  | 1 => 0x7FFFFFFF
  | 2 => 0x80000000
  | 3 | 5 => 0xFFFFFFFF
  | 8 => 0x80000000
  | 9 => 0x7F800000
  | 10 => 0xFF800000
  | _ => 0

/-- SCAN R478. -/
def execScan (f : Fields) (s : State) : Host.Outcome State Fault Refusal :=
  .next (s.issue .scan f noCheck fun c ls s =>
    s.writeVar c.k (ls.flatMap fun l =>
      let op := modField f 0 4
      let i := c.lr.visible l % c.tileWidth
      let ps := scanFrom op (modField f 4 3) 0 (c.operands ls f.a l) 5
      let r := if modBit f 7 then (if i = 0 then none else ps.getD (i - 1) none) else ps.getD i none
      c.put l f.d [r.getD ⟨scanIdentity op, false⟩]))

/-- TILE R472. -/
def execTile (f : Fields) (s : State) : Host.Outcome State Fault Refusal :=
  .next (s.issue .tile f noCheck fun c _ s => s.modWave c.k fun w => { w with tile := 2 ^ (modField f 0 3 + 1) })

end Sys2Proof.Machine
end

