-- ==== Sys2Proof/Machine/Move.lean ====
section
/-!
DEFINITION. Moves, predicates and X bits, class 0x2 (13_isa_control_move.md, R391 to R396).
-/

namespace Sys2Proof.Machine

/-- MOV R391. -/
def execMov (f : Fields) (s : State) : Host.Outcome State Fault Refusal :=
  .next (s.alu .mov f 4 fun c l => c.put l f.d [c.b32 l f])

/-- MOV64 R391: each register keeps its own X. -/
def execMov64 (f : Fields) (s : State) : Host.Outcome State Fault Refusal :=
  .next (s.alu .mov64 f 4 fun c l => c.put l f.d [c.regB l f.b 0, c.regB l f.b 1])

/-- The flags that SREG clears, once for the wave, when a lane executes: not those that are set in the same cycle (R392). -/
def Wave.clearFlags (w : Wave) (a : Operand) (clr : BitVec 13) : Wave :=
  match a with
  | .special .wstat => { w with wstat := w.wstat &&& ~~~ (clr.setWidth 5 &&& ~~~ w.setNow.setWidth 5) }
  | .special .mstat => { w with mstat := w.mstat &&& ~~~ (clr.setWidth 3 &&& ~~~ w.setNow.extractLsb' 5 3) }
  | _ => w

/-- SREG R392. -/
def execSreg (f : Fields) (s : State) : Host.Outcome State Fault Refusal :=
  .next (s.issue .sreg f noCheck fun c ls s =>
    let s := s.writeFixed c.k 4 (ls.flatMap fun l => c.put32 l f.d (c.a32 l f).val false)
    if ls.isEmpty then s else s.modWave c.k (fun w => w.clearFlags f.a f.mod))

/-- The lane that RDLANE reads (R393). -/
def rdlaneSource (c : Ctx) (b : Word) : Nat := if c.lr.prot then 2 * (b.toNat % 16) else b.toNat % 32

/-- RDLANE R393. A scalar D is written once, the lane operand being uniform. -/
def execRdlane (f : Fields) (s : State) : Host.Outcome State Fault Refusal :=
  .next (s.issue .rdlane f noCheck fun c ls s =>
    (s.writeFixed c.k 6 (ls.flatMap fun l => c.put l f.d [c.reg (rdlaneSource c (c.b32 l f).val) f.a 0])).consumeOthers c ls
      (fun l => rdlaneSource c (c.b32 l f).val) f.a 1)

/-- PSET R394. -/
def execPset (f : Fields) (s : State) : Host.Outcome State Fault Refusal :=
  .next (s.alu .pset f 4 fun c l =>
    let t := c.w.thread l
    let a := t.pred (modField f 3 3) != modBit f 6
    let b := t.pred (modField f 7 3) != modBit f 10
    putPred l (modField f 0 3) (match modField f 11 2 with | 0 => a && b | 1 => a || b | _ => a != b))

/-- PREG R395. -/
def execPreg (f : Fields) (s : State) : Host.Outcome State Fault Refusal :=
  .next (s.alu .preg f 4 fun c l => c.put32 l f.d (BitVec.ofNat 32 ((c.w.thread l).preds.toNat + 128)) false)

/-- REGP R395. -/
def execRegp (f : Fields) (s : State) : Host.Outcome State Fault Refusal :=
  .next (s.alu .regp f 4 fun c l =>
    (List.range 7).flatMap fun j => if modBit f j then putPred l j ((c.a32 l f).val.getLsbD j) else [])

/-- XGET R396. -/
def execXget (f : Fields) (s : State) : Host.Outcome State Fault Refusal :=
  .next (s.alu .xget f 4 fun c l => putPred l (modField f 0 3) ((c.a32 l f).x != modBit f 3))

/-- XCLR R396. -/
def execXclr (f : Fields) (s : State) : Host.Outcome State Fault Refusal :=
  .next (s.alu .xclr f 4 fun c l => c.put32 l f.d (c.a32 l f).val false)

end Sys2Proof.Machine
end

