-- ==== Sys2Proof/Machine/Fetch.lean ====
section
/-!
DEFINITION. Instruction fetch (R95, R249, R353, R354), and the traps of what a fetched slot is not (R357, R369, R370).
-/

namespace Sys2Proof.Machine

/-- How a fetch of a line ends: the line, a wait for its page, a protection trap, a cause of R353, or an address past the range (R355). -/
inductive Fetched where
  | line (l : Line)
  | absent (perm : Bool)
  | denied
  | bad (cause : Nat)
  | outside
deriving DecidableEq, Repr

/-- The fetch of the line at `va` (R94, R95, R353): a line that is not in the instruction cache is translated, read and
checked, and enters the cache. A second parity error reads the same bytes; a line that is no memory of the package counts as
one that fails. -/
def State.fetchLine (s : State) (core : Nat) (pasid : BitVec 20) (va : Nat) : State × Fetched :=
  match s.cachedLine core pasid va with
  | some l => (s, .line l)
  | none =>
    match s.translate pasid va .fetch with
    | (s, .absent) => (s, .absent false)
    | (s, .denied true) => (s, .absent true)
    | (s, .denied false) => (s, .denied)
    | (s, .ok pa _) =>
      match s.localPa pa 64 0 with
      | none => (s.ownRefused pa 64 0, .bad 5)
      | some a =>
        let bytes := s.bytes a 64
        let l := lineOf bytes
        let poisoned := s.poisonIn a 64
        let s := s.decoded a 64
        if poisoned then (s, .bad 5)
        else if !lineParityOk l then (s, .bad 5)
        else if !lineStructureOk l then (s, .bad 4)
        else (s.modCore core (fun x => { x with lines := x.lines ++ [(pasid, va, bytes)] }), .line l)

/-- A slot that is no target of a transfer: literal, past the range, or, for a checked one, without TGT (R354, R355). -/
def badTarget (l : Line) (t : Nat) (checked : Bool) : Bool :=
  slotLimit ≤ t || lineLit l (t % 5) || (checked && !lineTgt l (t % 5))

/-- A thread waits for the page of its fetch (R95). -/
def State.fetchWait (s : State) (k lane : Nat) (pasid : BitVec 20) (byteVa : Nat) (perm : Bool)
    (transfer : Option (SlotAddr × Nat)) : State :=
  let page := pageWait pasid byteVa .fetch perm
  (s.pageFault page (keyCore k) (keySlot k)).modThread k lane fun t => { t with block := some (.fetch page transfer) }

/-- What becomes of an eligible thread whose PC lies in a line that was fetched (R95, R353, R354). A thread that has fallen through to
a literal slot, before the line could be read, goes on to the next slot that is not (R352). A line without a page is one fault for each
thread that waits for it: the manual does not say how many faults CNT of its request counts (R102, notes/assumptions/66.md). -/
def State.fetchThread (s : State) (k lane : Nat) (pasid : BitVec 20) (r : Fetched) : State :=
  let t := s.thread k lane
  let pc := t.pc.toNat
  match r with
  | .line l =>
    if lineLit l (pc % 5) && !t.checked && !t.returned then
      s.modThread k lane (·.goTo (BitVec.ofNat 57 (s.searchSlot (keyCore k) pasid (pc / 5) (pc % 5) 8)))
    else if badTarget l pc t.checked then s.raiseTrap k lane (trapHere 3 (BitVec.ofNat 64 pc) t.pc)
    else s
  | .outside => s.raiseTrap k lane (trapHere 3 (BitVec.ofNat 64 pc) t.pc)
  | .absent perm => (s.fetchWait k lane pasid (slotByte pc) perm none).modWave k (·.unbundle lane)
  | .denied => s.raiseTrap k lane (trapHere 0x0B (BitVec.ofNat 64 (slotByte pc)) t.pc)
  | .bad cause => s.raiseTrap k lane (trapHere cause (BitVec.ofNat 64 (lineByte pc)) t.pc)

/-- INSTRUCTION_FETCH R353: the line at the PC of a thread is fetched, for every eligible thread of the wave whose PC lies in
it. A `glitch` of the first reading is repaired by the refetch. A line past the range of slot addresses is not fetched (R355). -/
def execInstructionFetch (core : Fin 256) (slot : Fin 64) (lane : Fin 32) (_glitch : Bool) (s : State) :
    Host.Outcome State Fault Refusal :=
  let k := waveKey core slot
  let r := s.recOf k
  let w := s.wave k
  let line := lineByte (w.thread lane).pc.toNat
  let f := if slotLimit ≤ (w.thread lane).pc.toNat then (s, .outside) else s.fetchLine core r.pasid line
  let ls := (w.threads.filter (fun e => e.2.eligible && lineByte e.2.pc.toNat == line)).map (·.1)
  let s := ls.foldl (fun s l => s.fetchThread k l r.pasid f.2) f.1
  .next (s.bundleNew k (ls.filter fun l => (s.thread k l).trapMode))

/-- A slot pattern with one of the fates of R369: its executing lanes trap, the others fall through. Under the opcode of a
whole-wave instruction every active lane counts as executing. -/
def State.trapSlot (s : State) (word : BitVec 96) (cause : Nat) (tval : DWord) : State :=
  let r := Raw.ofWord word
  let all := (Op.ofCode r.opc).any Op.wholeWave
  let g := fun (b : BitVec 4) => if all then Guard.ofBits 7 else .ofBits b
  let f : Fields := { d := .z, a := .z, b := .reg .z, c := .z, e := .z, g0 := g r.g0, g1 := g r.g1, ch := 0,
                      sw := false, hold := 0, mod := 0 }
  s.issue .nop f (fun _ _ => some (trapHere cause tval s.cur.pc)) (fun _ _ s => s)

/-- ILLEGAL_INSTRUCTION R369: a slot whose opcode is not listed. -/
def execIllegalInstruction (word : BitVec 96) (s : State) : Host.Outcome State Fault Refusal :=
  .next (s.trapSlot word 1 (word.setWidth 64))

/-- Any other pattern that is no instruction (R357, R370). -/
def State.decodeTrap (s : State) (word : BitVec 96) (e : DecodeError) : State :=
  match e with
  | .illegalInstruction => s.trapSlot word 1 (word.setWidth 64)
  | .privileged => s.trapSlot word 6 0
  | .malformedLine => s.trapSlot word 4 (BitVec.ofNat 64 (lineByte s.cur.pc.toNat))
  | .illegalOperand field code => s.trapSlot word 2 (field.setWidth 64 ||| (code.setWidth 64 <<< 8))

end Sys2Proof.Machine
end

