-- ==== Sys2Proof/Machine/Control.lean ====
section
/-!
DEFINITION. Transfers of control, windows, meeting points, traps and whole-wave control, class 0x0 but SYSC
(13_isa_control_move.md, R376 to R390; R187, R209, R210).
-/

namespace Sys2Proof.Machine

/-! ### Checked transfers (R354, R376, R380) -/

/-- The slide of a call by `n` steps of 16 rows: the window, the link in the callee's v0:v1, the target (R209, R380). -/
def State.slide (s : State) (k lane : Nat) (target : SlotAddr) (n : Nat) : State :=
  let r := s.recOf k
  let t := s.thread k lane
  let ra := s.fallThrough (keyCore k) r.pasid t.pc
  let wb := t.wb.toNat + 16 * n
  let row0 := r.phys wb
  let row1 := r.phys (wb + 1)
  let hi : Word := BitVec.ofNat 7 n ++ ra.extractLsb' 32 25
  let t := ({ t with wb := BitVec.ofNat 24 wb } : Thread).setRow row0 ⟨ra.extractLsb' 0 32, false⟩ |>.setRow row1 ⟨hi, false⟩
  s.modWave k fun w =>
    let fly := w.fly.filter fun x => !(x.dst == .v lane row0 || x.dst == .v lane row1)
    { (w.setThread lane (t.goTo target)).touch row0 with fly := fly }

/-- One lane transfers to `target`; `n` is the shift of a call over 16, or 0. Its PC is the transferring instruction. A link that would
go to a row below RF, in trap mode alone, is an underflow (R211). -/
def State.transferLane (s : State) (k lane : Nat) (target : DWord) (n : Nat) : State :=
  let r := s.recOf k
  let th := s.thread k lane
  let wb := th.wb.toNat + 16 * n
  let t := target.toNat
  if n ≠ 0 && (2 ^ 24 < wb + r.w || r.rows < r.w + wb % 32) then
    s.raiseTrap k lane (trapHere 2 (BitVec.ofNat 64 (7 + wb * 2 ^ 8)) th.pc)
  else if slotLimit ≤ t then s.raiseTrap k lane (trapHere 3 target th.pc)
  else
    match s.fetchLine (keyCore k) r.pasid (lineByte t) with
    | (s, .absent perm) => s.fetchWait k lane r.pasid (slotByte t) perm (some (target.setWidth 57, n))
    | (s, .denied) => s.raiseTrap k lane (trapHere 0x0B (BitVec.ofNat 64 (slotByte t)) th.pc)
    | (s, .bad cause) => s.raiseTrap k lane (trapHere cause (BitVec.ofNat 64 (lineByte t)) th.pc)
    | (s, .outside) => s.raiseTrap k lane (trapHere 3 target th.pc)
    | (s, .line l) =>
      if badTarget l t true then s.raiseTrap k lane (trapHere 3 target th.pc)
      else if n = 0 then s.modThread k lane (·.goTo (target.setWidth 57))
      else if th.rf.toNat + r.rows < wb + r.w then
        let past := wb + r.w - th.rf.toNat - r.rows
        (s.modThread k lane (fun x => { x with wt := BitVec.ofNat 24 wb })).raiseTrap k lane
          (trapHere 7 (BitVec.ofNat 64 ((past + 31) / 32)) th.pc)
      else if wb < th.rf.toNat then s.raiseTrap k lane (trapHere 8 0 th.pc)
      else s.slide k lane (target.setWidth 57) n

/-- A transfer whose target page was answered with CODE 0 goes on with the target it had (R95, R354). -/
def State.transferResume (s : State) (k lane : Nat) : State :=
  match (s.thread k lane).block with
  | some (.fetch _ (some (t, n))) =>
    (s.modThread k lane fun x => { x with block := none, since := s.cycle }).transferLane k lane (t.setWidth 64) n
  | _ => s.modThread k lane fun x => { x with block := none, since := s.cycle }

/-- The target of a displacement: 64 bits, with a bad one not wrapped (R355). -/
def displaced (pc : SlotAddr) (v : BitVec 20) : DWord := pc.setWidth 64 + v.signExtend 64

/-- The displacement in VAL. -/
def disp (b : SrcB) : BitVec 20 := match b with | .int20 v => v | _ => 0

/-- BRA R378. -/
def execBra (f : Fields) (s : State) : Host.Outcome State Fault Refusal :=
  .next (s.issue .bra f noCheck
    (fun c ls s => ls.foldl (fun s l => s.transferLane c.k l (displaced s.cur.pc (disp f.b)) 0) s) (jumps := true))

/-- BRX R379. -/
def execBrx (f : Fields) (s : State) : Host.Outcome State Fault Refusal :=
  .next (s.issue .brx f noCheck
    (fun c ls s => ls.foldl (fun s l => s.transferLane c.k l (c.pair l f.a) 0) s) (jumps := true))

/-- CALL R380. -/
def execCall (f : Fields) (s : State) : Host.Outcome State Fault Refusal :=
  .next (s.issue .call f noCheck
    (fun c ls s => ls.foldl (fun s l =>
      s.transferLane c.k l (displaced s.cur.pc (disp f.b)) (modField f 0 7)) s) (jumps := true))

/-- CALLX R380. -/
def execCallx (f : Fields) (s : State) : Host.Outcome State Fault Refusal :=
  .next (s.issue .callx f noCheck
    (fun c ls s => ls.foldl (fun s l => s.transferLane c.k l (c.pair l f.a) (modField f 0 7)) s) (jumps := true))

/-! ### Returns -/

/-- A target of RET or TRET that R354 or R355 refuses: past the range, or a literal slot of a line that can be read and passes its
checks (R353). -/
def Ctx.refused (c : Ctx) (t : Nat) : Bool :=
  slotLimit ≤ t ||
    (match c.s.lineOfSlot c.core c.lr.pasid t with
     | some l => lineLit l (t % 5)
     | none => false)

/-- The link that RET reads in a lane: v0:v1 of its window (R381). -/
def Ctx.link (c : Ctx) (lane : Nat) : DWord :=
  let t := c.w.thread lane
  (t.v c.lr 1).val ++ (t.v c.lr 0).val

/-- RET's slide, and the underflow that follows it (R210). -/
def State.returnLane (s : State) (k lane : Nat) (link : DWord) : State :=
  let t := s.thread k lane
  let ra := link.extractLsb' 0 57
  let wb := t.wb.toNat - 16 * (link.toNat / 2 ^ 57)
  let t' := { t with wb := BitVec.ofNat 24 wb }
  if wb < t.rf.toNat then
    (s.setThread k lane { t' with wt := BitVec.ofNat 24 wb, pc := ra }).raiseTrap k lane
      { later := false, cause := 8, tval := BitVec.ofNat 64 ((t.rf.toNat - 32 * (wb / 32)) / 32), tpc := ra, res := ra }
  else s.setThread k lane { t'.goTo ra with returned := true }

/-- RET R381. -/
def execRet (f : Fields) (s : State) : Host.Outcome State Fault Refusal :=
  .next (s.issue .ret f
    (fun c l =>
      let link := c.link l
      let n := link.toNat / 2 ^ 57
      let ra := link.toNat % 2 ^ 57
      if !c.resident l (.v 0) 2 then some (trapHere 8 0 s.cur.pc)
      else if n = 0 || (c.w.thread l).wb.toNat < 16 * n then some (trapHere 3 link s.cur.pc)
      else if c.refused ra then some (trapHere 3 (BitVec.ofNat 64 ra) s.cur.pc)
      else none)
    (fun c ls s => ls.foldl (fun s l => s.returnLane c.k l (c.link l)) s) (jumps := true))

/-- TRET R387. -/
def execTret (f : Fields) (s : State) : Host.Outcome State Fault Refusal :=
  .next (s.issue .tret f
    (fun c l =>
      let t := c.w.thread l
      if !t.trapMode then some (trapHere 6 0 s.cur.pc)
      else if c.refused t.res.toNat then some (trapHere 3 (t.res.setWidth 64) s.cur.pc)
      else none)
    (fun c ls s =>
      (ls.foldl (fun s l => s.trapReturn c.k l) s).dropLatch c.k) (jumps := true))

/-! ### Meeting points -/

/-- MEET R382. -/
def execMeet (f : Fields) (s : State) : Host.Outcome State Fault Refusal :=
  .next (s.issue .meet f noCheck fun c ls s =>
    let s := s.writeFixed c.k 4 (ls.flatMap fun l => c.put64 l f.d ((c.w.thread l).mr.setWidth 64) false)
    ls.foldl (fun s l =>
      let target := if f.b.isImm then displaced s.cur.pc (disp f.b) else c.pair l f.a
      s.modThread c.k l fun t => { t with mr := target.setWidth 57 }) s)

/-- MEETR R383. -/
def execMeetr (f : Fields) (s : State) : Host.Outcome State Fault Refusal :=
  .next (s.issue .meetr f noCheck fun c ls s =>
    ls.foldl (fun s l => s.modThread c.k l fun t => { t with mr := (c.pair l f.a).setWidth 57 }) s)

/-! ### Ending, yielding, trapping -/

/-- NOP R377. -/
def execNop (f : Fields) (s : State) : Host.Outcome State Fault Refusal := .next (s.issue .nop f noCheck fun _ _ s => s)

/-- EXIT R384: the threads end, and the barriers of their wave are looked at again (R450). -/
def execExit (f : Fields) (s : State) : Host.Outcome State Fault Refusal :=
  .next (s.issue .exit f (fun c l => c.paired f noCheck (fun _ _ => []) l) fun c ls s =>
    if ls.isEmpty then s else (ls.foldl (fun s l => s.endThread c.k l false) s).settleAll c.k)

/-- YIELD R385: outside trap mode the bundle is not ready for the 8 cycles after its issue. -/
def execYield (f : Fields) (s : State) : Host.Outcome State Fault Refusal :=
  .next (s.issue .yield f noCheck fun c ls s =>
    if ls.isEmpty then s
    else c.active.foldl (fun s l => s.modThread c.k l fun t =>
      if t.trapMode then t else { t with hold := max t.hold (s.cycle + 9) }) s)

/-- The trap of BRK and TRAP: the resume address is the fall-through (R386). -/
def softTrap (cause : Nat) (f : Fields) (c : Ctx) (_ : Nat) : Option PTrap :=
  some { later := false, cause := BitVec.ofNat 8 cause, tval := BitVec.ofNat 64 (modField f 0 8), tpc := c.s.cur.pc,
         res := c.next }

/-- BRK R386. -/
def execBrk (f : Fields) (s : State) : Host.Outcome State Fault Refusal :=
  .next (s.issue .brk f (softTrap 0x0F f) fun _ _ s => s)

/-- TRAP R386. -/
def execTrap (f : Fields) (s : State) : Host.Outcome State Fault Refusal :=
  .next (s.issue .trap f (softTrap 0x0E f) fun _ _ s => s)

/-! ### The whole wave -/

def roleOf (n : Nat) : Role := match n with | 0 => .a | 1 => .l | _ => .e

/-- ROLE R389. -/
def execRole (f : Fields) (s : State) : Host.Outcome State Fault Refusal :=
  .next (s.issue .role f noCheck fun c _ s => s.modWave c.k fun w => { w with role := roleOf (modField f 0 2) })

/-- PREOFF R390. -/
def execPreoff (f : Fields) (s : State) : Host.Outcome State Fault Refusal :=
  .next (s.issue .preoff f noCheck fun c _ s => s.modWave c.k fun w => { w with window := some (w.window.getD 0) })

/-- PREON R390. -/
def execPreon (f : Fields) (s : State) : Host.Outcome State Fault Refusal :=
  .next (s.issue .preon f noCheck fun c _ s => s.modWave c.k fun w => { w with window := none })

end Sys2Proof.Machine
end

