-- ==== Sys2Proof/Machine/Matrix.lean ====
section
/-!
DEFINITION. Matrix instructions, class 0x8 (17_isa_lane_matrix.md, R479 to R487; R195 to R197, R265, R333 to R336).
-/

namespace Sys2Proof.Machine

/-! ### Slots and blocks -/

/-- K of KSZ. -/
def kOf (ksz : Nat) : Nat := 32 * 2 ^ ksz

def Slot.planes (x : Slot) : Nat := x.pm1 + 1
/-- Columns of a group; 0 for none. -/
def Slot.groupSize (x : Slot) : Nat := if x.gsz = 0 then 0 else 16 * 2 ^ x.gsz

/-- What both matrix rows of R331 demand. -/
def Slot.matrixClean (x : Slot) : Bool := x.clean && !x.sce && x.rnd == 0 && !x.sat

/-- An integer-plane or block-float slot of 2 to 16 planes. -/
def Slot.manyPlanes (x : Slot) : Bool := 1 ≤ x.pm1
def Slot.grouped (x : Slot) (k : Nat) : Bool := x.gsz != 0 && x.groupSize ≤ k

/-- The A slot of a matrix instruction (R331, R484). -/
def matrixA (o : Op) (x : Slot) (k : Nat) : Bool :=
  x.matrixClean &&
    (match o with
     | .mma => x.semi == 0 && x.manyPlanes && ((x.fmt == 0x20 && x.gsz == 0) || (x.fmt == 0x21 && x.grouped k))
     | .mmq => x.semi == 0 && x.manyPlanes && x.fmt == 0x20 && x.grouped k
     | _ =>
       x.gsz == 0 && ((1 ≤ x.semi && x.semi ≤ 3 && x.fmt == 0x20 && x.manyPlanes) ||
         (x.semi == 4 && x.fmt == 0x1F && x.pm1 == 0)))

/-- The B slot of a matrix instruction (R331, R484). -/
def matrixB (o : Op) (x : Slot) (semi : Nat) : Bool :=
  x.matrixClean && x.pm1 == 0 && x.gsz == 0 && x.semi == 0 &&
    (match o with
     | .mma => (1 ≤ x.fmt && x.fmt ≤ 5) || (0x10 ≤ x.fmt && x.fmt ≤ 0x12)
     | .mmq => x.fmt == 0x11 || x.fmt == 0x12 || x.fmt == 0x1A
     | _ =>
       if semi = 4 then x.fmt == 0x1F
       else if semi = 3 then 0x18 ≤ x.fmt && x.fmt ≤ 0x1B
       else 0x10 ≤ x.fmt && x.fmt ≤ 0x13)

/-- Bytes of the planes up to the header, and of the whole block (R265); `g` is 0 without a header. -/
def headerAt (p k : Nat) : Nat := 128 * ((2 * k * p + 127) / 128)
def blockBytes (p k g : Nat) : Nat :=
  if g = 0 then 2 * k * p else headerAt p k + 128 * ((64 * k / g + 127) / 128)

/-- The group size of the header of a matrix instruction, 0 where it has none (R484). -/
def headerGroup (o : Op) (x : Slot) : Nat := if o == .mmq || x.fmt == 0x21 then x.groupSize else 0

/-- The checks of R265. -/
def blockCheck (lr : LaunchRec) (off size : Nat) : Option Nat :=
  if lr.window < off + size then some 0x0C else if off % 128 ≠ 0 then some 0x0A else none

/-! ### Plane blocks (R333, R481) -/

/-- The bits of element (i, k) of a block, as a number: plane j gives bit j. -/
def elementBits (block p cols i k : Nat) : Nat :=
  (List.range p).foldl (fun v j => if block.testBit (8 * (2 * cols * j + cols / 8 * i) + k) then v + 2 ^ j else v) 0

/-- The value of an element without its exponent (R333). -/
def elementInt (fmt p semi bits : Nat) : Int :=
  if fmt = 0x21 then
    let m : Int := (bits % 2 ^ (p - 1) : Nat)
    if bits.testBit (p - 1) then -m else m
  else if fmt = 0x20 && semi ≠ 3 then sextNat bits p
  else bits

/-- Row `i` of A. -/
def rowInts (block fmt p semi cols i : Nat) : List Int :=
  (List.range cols).map fun k => elementInt fmt p semi (elementBits block p cols i k)

/-- Header entry (i, g) (R481). -/
def headerEntry (block p cols group i g : Nat) : Nat :=
  let a := 8 * (headerAt p cols + 4 * (i * (cols / group) + g))
  field block (a + 31) a

/-! ### B -/

/-- An element of B: NaN, an infinity, or m * 2^e. -/
inductive BVal where
  | nan
  | inf (neg : Bool)
  | val (m e : Int)
deriving DecidableEq, Repr

def BVal.ofNum (v : Num) : BVal :=
  match v with
  | .nan => .nan
  | .inf neg => .inf neg
  | .fin neg n d => .val (if neg then -(n : Int) else n) (-(Nat.log2 d : Int))

/-- The element width of a B slot (R482). -/
def bWidth (fmt : Nat) : Nat := if fmt = 0x1F then 1 else ((elemFmt fmt).map (·.width)).getD 32

/-- Column j of B from the registers of lane j (R482). -/
def colB (fmt cols : Nat) (rs : List Reg) : List BVal :=
  let w := bWidth fmt
  let n := groupNat rs
  (List.range cols).map fun k =>
    let e := field n (w * k + w - 1) (w * k)
    match elemFmt fmt with
    | some (.float F) => .ofNum (F.value e)
    | some (.int w u) => .val (if u then (e : Int) else sextNat e w) 0
    | none => .val e 0

/-- An integer element. -/
def BVal.int (b : BVal) : Int := match b with | .val m _ => m | _ => 0

/-- Registers of a B group. -/
def bRegs (fmt cols : Nat) : Nat := cols * bWidth fmt / 32

/-! ### Arithmetic (R335, R336) -/

/-- sat32, and whether it changed the value. -/
def sat32 (v : Int) : Int × Bool :=
  let c := clampInt v 32 false
  (c, decide (c ≠ v))

/-- An accumulator on its way: its register, and MSAT, MNAN, MINX so far. -/
structure Acc where
  val : Word
  x : Bool
  sat : Bool
  nan : Bool
  inx : Bool
deriving DecidableEq, Repr

def dotInt (a : List Int) (b : List BVal) : Int := ((a.zip b).map (fun e => e.1 * e.2.int)).foldl (· + ·) 0

/-- The group sum of a floating case: the exact sum, rounded to odd at 2^(e - 57); `ea` is the exponent of the A elements. -/
def floatGroup (a : List Int) (ea : Int) (b : List BVal) : Num × Bool :=
  let ps := a.zip b
  let nan := ps.any fun e => match e.2 with | .nan => true | .inf _ => e.1 == 0 | _ => false
  let infs := ps.filterMap fun e => match e.2 with | .inf s => some (s != decide (e.1 < 0)) | _ => none
  if nan || (infs.contains true && infs.contains false) then (.nan, false)
  else
    match infs with
    | s :: _ => (.inf s, false)
    | [] =>
      let prods := ps.filterMap fun e =>
        match e.2 with
        | .val m x => if e.1 * m = 0 then none else some (e.1 * m, ea + x)
        | _ => none
      match prods with
      | [] => (.fin false 0 1, false)
      | p :: rest =>
        let low := rest.foldl (fun n q => min n q.2) p.2
        let top := (p :: rest).foldl (fun n q => max n ((Nat.log2 q.1.natAbs : Int) + q.2)) (p.2 + Nat.log2 p.1.natAbs)
        let sum := (p :: rest).foldl (fun n q => n + q.1 * 2 ^ (q.2 - low).toNat) (0 : Int)
        let cut := (top - 57 - low).toNat
        let q := sum.natAbs / 2 ^ cut
        let inx := sum.natAbs % 2 ^ cut ≠ 0
        if sum = 0 then (.fin false 0 1, false)
        else (Num.dyadic (decide (sum < 0)) (if inx && q % 2 == 0 then q + 1 else q) (low + cut), inx)

/-- acc := rnd(acc + v, f32, RN). A NaN is no rounding, so it does not set MINX. -/
def Acc.addFloat (t : Acc) (v : Num) (inx : Bool) : Acc :=
  let r := toF32 ⟨0, 0⟩ ((f32Of t.val).add v false)
  let isNan := f32Of r.val == .nan
  { t with val := r.val, x := t.x || inx || r.x, nan := t.nan || v == .nan, inx := t.inx || inx || (r.x && !isNan) }

/-- acc := sat32(acc + v). -/
def Acc.addInt (t : Acc) (v : Int) : Acc :=
  let r := sat32 (t.val.toInt + v)
  { t with val := BitVec.ofInt 32 r.1, x := t.x || r.2, sat := t.sat || r.2 }

/-- One element of MMA, MMQ or MMS: row `a` with its header entries, column `b`. -/
def elementUpdate (o : Op) (x : Slot) (bfmt cols : Nat) (hdr : Nat → Nat) (a : List Int) (b : List BVal) (t : Acc) : Acc :=
  let part := fun {α : Type} (xs : List α) (size g : Nat) => (xs.drop (size * g)).take size
  match o with
  | .mms =>
    if x.semi = 4 then
      { t with val := if t.val ≠ 0 || (a.zip b).any (fun e => e.1 == 1 && e.2.int == 1) then 1 else 0 }
    else
      (a.zip b).foldl (fun t e =>
        let r := sat32 (if x.semi = 3 then e.1 * e.2.int else e.1 + e.2.int)
        let v := if x.semi = 1 then min t.val.toInt r.1 else max t.val.toInt r.1
        { t with val := BitVec.ofInt 32 v, x := t.x || r.2, sat := t.sat || r.2 }) t
  | .mmq =>
    let g := x.groupSize
    (List.range (cols / g)).foldl (fun t i =>
      let h := hdr i
      let bs := part b g i
      let z := sextNat (field h 31 16) 16
      let n := dotInt (part a g i) bs - z * (bs.map BVal.int).foldl (· + ·) 0
      t.addFloat ((FloatFmt.f16.value (field h 15 0)).mul (Num.ofInt n)) false) t
  | _ =>
    if x.fmt = 0x20 && 0x10 ≤ bfmt then
      (List.range (cols / 32)).foldl (fun t i => t.addInt (dotInt (part a 32 i) (part b 32 i))) t
    else
      (List.range (cols / 32)).foldl (fun t i =>
        let h := if x.fmt = 0x21 then hdr (32 * i / x.groupSize) else 0
        if x.fmt = 0x21 && h.testBit 16 then t.addFloat .nan false
        else
          let ea : Int := if x.fmt = 0x21 then sextNat (field h 15 0) 16 - (x.planes - 1 : Nat) + 1 else 0
          let s := floatGroup (part a 32 i) ea (part b 32 i)
          t.addFloat s.1 s.2) t

/-- The sixteen accumulators of a lane after the product. -/
def columnUpdate (o : Op) (x : Slot) (bfmt cols block : Nat) (rows : List (List Int)) (b : List Reg) (d : List Reg) :
    List Acc :=
  let col := colB bfmt cols b
  let bx := b.any (·.x)
  (d.zip rows).zipIdx.map fun e =>
    elementUpdate o x bfmt cols (fun g => headerEntry block x.planes cols (headerGroup o x) e.2 g) e.1.2 col
      { val := e.1.1.val, x := e.1.1.x || bx, sat := false, nan := false, inx := false }

/-! ### Signing and issue (R196, R480, R484) -/

def slA (f : Fields) (lr : LaunchRec) : Slot := lr.slot (modField f 0 3)
def slB (f : Fields) (lr : LaunchRec) : Slot := lr.slot (modField f 3 3)
def matK (f : Fields) : Nat := modField f 6 3
def matCols (f : Fields) : Nat := kOf (modField f 9 2)

def Wave.kreg (w : Wave) (n : Nat) : KReg := SMap.get w.kregs n .blank
def Wave.setKreg (w : Wave) (n : Nat) (r : KReg) : Wave := { w with kregs := SMap.set w.kregs n r .blank }

/-- The trap of an operand that the role does not allow (R342, R370). -/
def groupTrap (field : Nat) (role : FieldRole) (o : Operand) (lr : LaunchRec) (pc : SlotAddr) : Option PTrap :=
  if role.allows lr.w o then none else some (trapHere 2 (BitVec.ofNat 64 (field + o.code.toNat * 2 ^ 8)) pc)

/-- The checks of a signing lane, in the order of R484. -/
def signCheck (o : Op) (f : Fields) (c : Ctx) (lane : Nat) : Option PTrap :=
  let pc := c.s.cur.pc
  let cols := matCols f
  let n := bRegs (slB f c.lr).fmt cols
  let k := c.w.kreg (matK f)
  let conv := trapHere 0x0D (BitVec.ofNat 64 (matK f)) pc
  if !(matrixA o (slA f c.lr) cols && matrixB o (slB f c.lr) (slA f c.lr).semi) then some (illegalHere o f pc)
  else
    ((groupTrap 0 (.dstIn 16 .vOnly) f.d c.lr pc).or
      ((groupTrap 1 (.srcIn 1 .uniform) f.a c.lr pc).or (groupTrap 2 (.srcIn n .vOnly) f.b.operand c.lr pc))).or
      (if (c.w.thread lane).trapMode || !(k.set.getLsbD (c.lr.visible lane)) then some conv
       else if k.signed ≠ 0 && k.spc ≠ pc then some conv
       else none)

/-- The physical lanes of a mask of visible lanes. -/
def LaunchRec.lanesIn (r : LaunchRec) (m : BitVec 32) : List Nat := (List.range 32).filter (fun l => m.getLsbD (r.visible l))

/-- The pages of the window that [off, off + size) touches are pinned (R265). -/
def State.pinRange (s : State) (c off size : Nat) : State :=
  (List.range ((off + size - 1) / 4096 + 1 - off / 4096)).foldl (fun s i => s.pin c (off / 4096 + i)) s

/-- A matrix array of a quarter is occupied (R200, R485). -/
def State.arrayBusy (s : State) (k : Nat) : Bool :=
  s.waves.any fun e => quarterOf e.1 == quarterOf k && e.2.mat.any fun j => s.cycle < j.busyUntil

/-- The cycles for which a matrix instruction occupies the array (R485). -/
def occupancy (planes cols : Nat) (prot : Bool) : Nat := (planes + 1) / 2 * (cols / 32) * (if prot then 2 else 1)

/-- What the array gives for an element, beside its flags: value and X (R486). -/
def Acc.result (a : Acc) : Reg := ⟨a.val, a.x⟩

/-- The issue of a matrix instruction whose set is complete: the block checks, the product, and the signers go on. In a
protected launch the results of the two runs are compared (R486). A lane whose registers have an error consumes it (R248, R249). -/
def State.matrixIssue (s : State) (o : Op) (f : Fields) (c : Ctx) (next : SlotAddr) : State :=
  let w := s.wave c.k
  let kr := w.kreg (matK f)
  let signers := c.lr.lanesIn kr.signed
  let x := slA f c.lr
  let bfmt := (slB f c.lr).fmt
  let cols := matCols f
  let off := kr.offset.toNat
  let size := blockBytes x.planes cols (headerGroup o x)
  let s := s.modWave c.k fun w => w.setKreg (matK f) { kr with signed := 0, barred := none }
  match blockCheck c.lr off size with
  | some cause => signers.foldl (fun s l => s.raiseTrap c.k l (trapHere cause (BitVec.ofNat 64 off) kr.spc)) s
  | none =>
    let s := s.pinRange w.crew off size
    let block := leNat (s.spBytes w.crew off size)
    let rows := (List.range 16).map (rowInts block x.fmt x.planes x.semi cols)
    let c' := { c with s := s, w := w }
    let out := (List.range 32).map fun l =>
      columnUpdate o x bfmt cols block rows (c'.group l f.b.operand (bRegs bfmt cols)) (c'.group l f.d 16)
    let bad := if c.lr.prot then (List.range 16).filter (fun i => (out.getD (2 * i) []).map Acc.result != (out.getD (2 * i + 1) []).map Acc.result) else []
    let s := signers.foldl (fun s l => s.modThread c.k l fun t =>
      { t.goTo next with block := none, since := s.cycle }) s
    let s := (List.range 32).foldl (fun s l =>
      s.readBad c.k l (c'.rows 16 f.d l ++ c'.rows (bRegs bfmt cols) f.b.operand l)) s
    if bad.isEmpty then
      let writes := (List.range 32).flatMap fun l =>
        c'.put l f.d ((out.getD l []).map Acc.result)
      let any := fun (g : Acc → Bool) => out.any (fun col => col.any g)
      let flags := BitVec.ofBool (any (·.inx)) ++ BitVec.ofBool (any (·.nan)) ++ BitVec.ofBool (any (·.sat))
      let job : MatJob :=
        { serial := s.serial, k := matK f, before := kr, writes := writes, flags := flags
          busyUntil := s.cycle + occupancy x.planes cols c.lr.prot }
      { s.modWave c.k fun w => { w with mat := w.mat ++ [job] } with serial := s.serial + 1 }
    else
      (bad.flatMap fun i => [2 * i, 2 * i + 1]).foldl (fun s l => s.raiseFor c l (trapHere 0x10 0 kr.spc)) s

/-- A register or predicate is pending (R207). -/
def Wave.pending (w : Wave) (d : Dst) : Bool :=
  w.pend.any (fun p => p.marks.contains d) || w.mat.any (fun j => j.writes.any (fun e => e.1 == d))

/-- The registers of a lane that a matrix instruction reads and writes (R482). -/
def Ctx.matrixTouches (c : Ctx) (f : Fields) (lane : Nat) : List Dst :=
  (List.range 16).filterMap (c.dst lane f.d) ++
    (List.range (bRegs (slB f c.lr).fmt (matCols f))).filterMap (c.dst lane f.b.operand)

/-- The accumulators and B registers of every lane are free: a matrix instruction that issues reads and writes all of them (R484). -/
def Ctx.matrixFree (c : Ctx) (f : Fields) : Bool :=
  (List.range 32).all fun l => (c.matrixTouches f l).all fun d => !c.w.pending d

/-- MMA, MMQ, MMS: the executing lanes sign, and a complete set issues when the array and its registers are free (R196, R197). -/
def matrixBody (o : Op) (f : Fields) (c : Ctx) (ls : List Nat) (s : State) : State :=
  let n := matK f
  let mask := maskOf (ls.map c.lr.visible)
  let s := if ls.isEmpty then s
    else
      let a := (c.reg (ls.getLast?.getD 0) f.a 0).val
      let s := s.modWave c.k fun w =>
        w.setKreg n { w.kreg n with signed := (w.kreg n).signed ||| mask, spc := s.cur.pc, offset := a }
      ls.foldl (fun s l => s.modThread c.k l fun t => { t with block := some (.signed n) }) s
  let k := (s.wave c.k).kreg n
  if k.signed ≠ 0 && k.signed == k.set && k.spc == s.cur.pc && k.barred ≠ some c.core && !s.arrayBusy c.k && c.matrixFree f then
    s.matrixIssue o f c c.next else s

def State.matrix (s : State) (o : Op) (f : Fields) : State :=
  s.issue o f (fun c l => c.paired f (signCheck o f) (fun _ _ => []) l) (matrixBody o f)

/-- MMA R484. -/
def execMma (f : Fields) (s : State) : Host.Outcome State Fault Refusal := .next (s.matrix .mma f)
/-- MMQ R484. -/
def execMmq (f : Fields) (s : State) : Host.Outcome State Fault Refusal := .next (s.matrix .mmq f)
/-- MMS R484. -/
def execMms (f : Fields) (s : State) : Host.Outcome State Fault Refusal := .next (s.matrix .mms f)

/-- A result lands, and earlier results of the same destination that are still in flight have landed before it (R205). -/
def Wave.landOver (w : Wave) (ws : List (Dst × Reg)) : Wave :=
  let w := { w with fly := w.fly.filter fun x => !(ws.any (fun e => e.1 == x.dst)) }
  w.landAll ws

/-- MATRIX_COMPLETE R484: the accumulators of the oldest instruction in the array are written, and its flags set. -/
def execMatrixComplete (core : Fin 256) (slot : Fin 64) (s : State) : Host.Outcome State Fault Refusal :=
  .next (s.modWave (waveKey core slot) fun w =>
    match w.mat with
    | [] => w
    | j :: rest => { w.landOver j.writes with mat := rest, mstat := w.mstat ||| j.flags, setNow := w.setNow ||| (j.flags ++ 0#5) })

/-! ### CVR (R195, R479) -/

/-- CVR R479. -/
def execCvr (f : Fields) (s : State) : Host.Outcome State Fault Refusal :=
  let n := modField f 0 3
  .next (s.issue .cvr f
    (fun c _ => if (c.w.kreg n).signed ≠ 0 then some (trapHere 0x0D (BitVec.ofNat 64 n) s.cur.pc) else none)
    fun c ls s =>
      match ls with
      | [] => s
      | l :: _ =>
        let dead := (c.w.threads.filter (fun e => e.2.exited)).map (fun e => c.lr.visible e.1)
        let m := (c.b32 l f).val &&& ~~~ (maskOf dead)
        let m := if c.lr.prot then m &&& 0xFFFF else m
        s.modWave c.k fun w => w.setKreg n { w.kreg n with set := m, signed := 0, barred := none })

/-! ### PLANE, PLANX (R334, R483) -/

def planeCols (f : Fields) : Nat := kOf (modField f 3 2)

/-- The slot of PLANE or PLANX (R331, R483). -/
def planeSlot (o : Op) (x : Slot) (k : Nat) : Bool :=
  x.matrixClean && x.semi == 0 &&
    (if o == .planx then x.fmt == 0x21 && x.manyPlanes && x.grouped k
     else x.gsz == 0 && ((x.fmt == 0x20 && x.manyPlanes) || (x.fmt == 0x1F && x.pm1 == 0)))

/-- The row of a lane, its first column and its number of columns. -/
def Ctx.planePart (c : Ctx) (lane k : Nat) : Nat × Nat × Nat :=
  if c.lr.prot then (lane / 2, 0, k) else (lane / 2, lane % 2 * (k / 2), k / 2)

/-- The f32 values of the whole row that a lane works on: its own, or both halves (R483). -/
def Ctx.planeRow (c : Ctx) (lane k : Nat) (o : Operand) : List Num :=
  if c.lr.prot then (c.group lane o k).map (fun r => f32Of r.val)
  else ((c.group (lane / 2 * 2) o (k / 2)) ++ (c.group (lane / 2 * 2 + 1) o (k / 2))).map (fun r => f32Of r.val)

/-- floor(log2 |a|) over the nonzero finite values of a group; -127 where there is none (R334). -/
def groupExponent (vs : List Num) : Int :=
  let es := vs.filterMap fun v => match v with | .fin _ n d => if n = 0 then none else some (floorLog2 n d) | _ => none
  match es with
  | [] => -127
  | e :: rest => rest.foldl max e

/-- The element bits of PLANX: M with its sticky bit, and the sign above (R334). -/
def narrowElement (e : Int) (m : Nat) (v : Num) : Nat :=
  match v with
  | .nan => 0
  | .inf neg => if neg then 2 ^ m else 0
  | .fin neg n d =>
    let u := e - m + 1
    let n' := if 0 ≤ u then n else n * 2 ^ (-u).toNat
    let d' := if 0 ≤ u then d * 2 ^ u.toNat else d
    let q := n' / d'
    (if n' % d' ≠ 0 && q % 2 == 0 then q + 1 else q) + if neg then 2 ^ m else 0

/-- The sign bit of a NaN element, which its value does not hold. -/
def nanSign (w : Word) (m : Nat) : Nat := if w.getLsbD 31 then 2 ^ m else 0

/-- The bytes that a lane of PLANE or PLANX writes, as (offset, bytes). -/
def planeWrites (o : Op) (f : Fields) (c : Ctx) (lane : Nat) : List (Nat × List Byte) :=
  let x := c.lr.slot (modField f 0 3)
  let k := planeCols f
  let off := (c.reg lane f.a 0).val.toNat
  let (row, h, n) := c.planePart lane k
  let src := c.group lane f.b.operand n
  let vals := c.planeRow lane k f.b.operand
  let g := x.groupSize
  let m := x.planes - 1
  let seg := fun i => (vals.drop (g * i)).take g
  let bits : List Nat :=
    if o == .planx then
      (List.range n).map fun i =>
        let w := (src.getD i .zero).val
        let v := f32Of w
        narrowElement (groupExponent (seg ((h + i) / g))) m v + if v == .nan then nanSign w m else 0
    else src.map (·.val.toNat)
  let planes := (List.range x.planes).map fun j =>
    let v := bits.foldr (fun b n => (if b.testBit j then 1 else 0) + 2 * n) 0
    (off + 2 * k * j + k / 8 * row + h / 8, leBytes v (n / 8))
  let header := if o == .planx then
      (List.range (k / g)).filterMap fun i =>
        if h < g * (i + 1) && g * i < h + n then
          let s := seg i
          let bad := s.any fun v => match v with | .fin _ _ _ => false | _ => true
          let word := wrapNat (groupExponent s) 16 + if bad then 2 ^ 16 else 0
          some (off + headerAt x.planes k + 4 * (row * (k / g) + i), leBytes word 4)
        else none
    else []
  planes ++ header

def State.planeIssue (s : State) (o : Op) (f : Fields) : State :=
  let k := planeCols f
  let size := fun (c : Ctx) =>
    let x := c.lr.slot (modField f 0 3)
    blockBytes x.planes k (if o == .planx then x.groupSize else 0)
  s.issuePaired o f
    (fun c l =>
      let off := (c.reg l f.a 0).val.toNat
      if !(planeSlot o (c.lr.slot (modField f 0 3)) k) then some (illegalHere o f c.s.cur.pc)
      else (blockCheck c.lr off (size c)).map fun cause => trapHere cause (BitVec.ofNat 64 off) c.s.cur.pc)
    (fun c l => (planeWrites o f c l).flatMap fun e => e.1 :: e.2.map (·.toNat))
    fun c ls s =>
      ls.foldl (fun s l =>
        (planeWrites o f c l).foldl (fun s e =>
          let s := s.spStore c.w.crew e.1 e.2
          s.tagBytes (2 ^ 60 + c.w.crew * 2 ^ 21 + e.1) e.2.length (fun t => t.sameAgent (s.agent c.k l .wv))
            (s.heads c.k l false .wv)) s) s

/-- PLANE R483. -/
def execPlane (f : Fields) (s : State) : Host.Outcome State Fault Refusal := .next (s.planeIssue .plane f)
/-- PLANX R483. -/
def execPlanx (f : Fields) (s : State) : Host.Outcome State Fault Refusal := .next (s.planeIssue .planx f)

end Sys2Proof.Machine
end

