-- ==== Sys2Proof/Machine/System.lean ====
section
/-!
DEFINITION. System instructions, class 0xF (18_isa_system.md, R488 to R497): thread system registers, window images, ICINV,
MARG, and the checkpoint of CKPT.
-/

namespace Sys2Proof.Machine

/-! ### Thread system registers (R488, R489) -/

/-- What MFSR reads of a system register. -/
def Thread.readSr (t : Thread) (n : Nat) : Reg :=
  match n with
  | 0 => ⟨t.res.extractLsb' 0 32, false⟩
  | 1 => ⟨(t.res.extractLsb' 32 25).setWidth 32, false⟩
  | 2 => ⟨t.tpred.setWidth 32, false⟩
  | 3 => ⟨t.wt.setWidth 32, false⟩
  | 4 => ⟨t.rf.setWidth 32, false⟩
  | 5 => ⟨t.wb.setWidth 32, false⟩
  | 6 => ⟨t.spoff, false⟩
  | _ => SMap.get t.ts n .zero

/-- What MTSR writes: RO fields and RSV bits ignore the write. -/
def Thread.writeSr (t : Thread) (n : Nat) (r : Reg) : Thread :=
  match n with
  | 0 => { t with res := t.res.extractLsb' 32 25 ++ r.val }
  | 1 => { t with res := r.val.extractLsb' 0 25 ++ t.res.extractLsb' 0 32 }
  | 2 => { t with tpred := r.val.extractLsb' 0 7 }
  | 3 | 4 | 5 => t
  | 6 => { t with spoff := r.val }
  | _ => { t with ts := SMap.set t.ts n r .zero }

/-- MFSR R489. -/
def execMfsr (f : Fields) (s : State) : Host.Outcome State Fault Refusal :=
  .next (s.alu .mfsr f 4 fun c l => c.put l f.d [(c.w.thread l).readSr (modField f 0 12)])

/-- MTSR R489. -/
def execMtsr (f : Fields) (s : State) : Host.Outcome State Fault Refusal :=
  .next (s.issue .mtsr f noCheck fun c ls s =>
    ls.foldl (fun s l => s.modThread c.k l (·.writeSr (modField f 0 12) (c.a32 l f))) s)

/-! ### Window images (R211, R212, R492) -/

/-- Bytes of a granule image. -/
def imageSize : Nat := 144

/-- The granule that the instruction moves: RF / 32, or the one below it. -/
def Thread.granule (t : Thread) (fill : Bool) : Nat := t.rf.toNat / 32 - if fill then 1 else 0

/-- The condition of R211 on the window. -/
def Thread.imageAllowed (t : Thread) (r : LaunchRec) (fill : Bool) : Bool :=
  let rf := t.rf.toNat
  if fill then 32 ≤ rf && t.wt.toNat + r.w ≤ rf - 32 + r.rows else rf + 32 ≤ t.wt.toNat

/-- The register of row `j` of granule `g`. -/
def Thread.granuleRow (t : Thread) (r : LaunchRec) (g j : Nat) : Reg := t.row (r.phys (32 * g + j))

/-- The image of granule `g`. -/
def Thread.image (t : Thread) (r : LaunchRec) (g : Nat) : List Byte :=
  let row := t.granuleRow r g
  let xs := (List.range 32).foldl (fun n j => if (row j).x then n + 2 ^ j else n) 0
  (List.range 32).flatMap (fun j => leBytes (row j).val.toNat 4) ++ leBytes xs 16

/-- The rows that an image loads. -/
def imageRows (bs : List Byte) (lane : Nat) (phys : Nat → Nat) (g : Nat) : List (Dst × Reg) :=
  let word := fun i => leNat ((bs.drop (4 * i)).take 4)
  (List.range 32).map fun j =>
    (.v lane (phys (32 * g + j)), ⟨BitVec.ofNat 32 (word j), (word 32).testBit j⟩)

/-- The address of an image (R492), with the checks of the record. -/
def Ctx.imageAddress (c : Ctx) (f : Fields) (fill : Bool) (lane : Nat) : LaneAddr :=
  let r := c.bufRec f.a
  let t := c.w.thread lane
  let o := t.spoff.toNat + (c.b32 lane f).val.toNat + imageSize * t.granule fill
  if !t.imageAllowed c.lr fill then .trap 8 0
  else if r.malformed || r.swz != 0 || !(if fill then r.rdp else r.wrp) then .trap 0x0B 0
  else if !r.flat && r.extent < o + imageSize then if r.oobt then .trap 9 (o % 2 ^ 64) else .oob
  else
    let va := (r.base + o) % 2 ^ 64
    if 2 ^ 57 ≤ va then .trap 0x0B va else if va % 16 ≠ 0 then .trap 0x0A va else .va va

/-- How an attempt at an image ends. -/
inductive ImageOut where
  | pieces (ps : List (Nat × Nat))
  | trap
  | held (p : PageWait)
deriving DecidableEq, Repr

/-- Translation of the pages of an image: all of them, or none is performed. MT 0, 1 or 2 is required. -/
def State.imagePieces (s : State) (k va : Nat) (fill : Bool) : State × ImageOut :=
  let r := s.recOf k
  let need := if fill then Need.read else Need.write
  (pagePieces va imageSize).foldl (fun (acc : State × ImageOut) p =>
    match acc with
    | (s, .pieces ps) =>
      match s.translate r.pasid p.1 need with
      | (s, .ok pa mt) => if mt ≤ 2 then (s, .pieces (ps ++ [(pa, p.2)])) else (s, .trap)
      | (s, .denied false) => (s, .trap)
      | (s, .denied true) =>
        let w := pageWait r.pasid p.1 need true
        (s.pageFault w (keyCore k) (keySlot k), .held w)
      | (s, .absent) =>
        let w := pageWait r.pasid p.1 need false
        (s.pageFault w (keyCore k) (keySlot k), .held w)
    | acc => acc) (s, .pieces [])

/-- An image is performed at its pieces: rows and RF change for every lane of the pair, memory once. A spill stores `bs`, the bytes of
its granule when it issued (R215). -/
def State.imageMove (s : State) (k lane : Nat) (fill : Bool) (bs : List Byte) (ps : List (Nat × Nat)) : State :=
  let r := s.recOf k
  let t := s.thread k lane
  let g := t.granule fill
  let rf := if fill then t.rf.toNat - 32 else t.rf.toNat + 32
  let setRf := fun (s : State) => (r.mirror lane).foldl
    (fun s l => s.modThread k l fun t => { t with rf := BitVec.ofNat 24 rf }) s
  if fill then
    let bad := ps.any fun p => s.threadPoison k p.1 p.2
    let bs := ps.flatMap fun p => s.threadBytes k p.1 p.2
    let s := ps.foldl (fun s p => s.threadDecoded k p.1 p.2) s
    let rows := (r.mirror lane).flatMap fun l =>
      (imageRows bs l r.phys g).map (fun e => if bad then (e.1, (⟨0, true⟩ : Reg)) else e)
    let s := setRf (s.modWave k (·.landOver rows))
    if bad then (r.mirror lane).foldl (fun s l => s.consume k l 0) s else s
  else
    setRf (ps.foldl (fun (acc : State × List Byte) p =>
      (acc.1.threadWrite k lane p.1 (acc.2.take p.2) false false .wv, acc.2.drop p.2)) (s, bs)).1

/-- The access of an image in the operand log. -/
def imageAccess (fill : Bool) : Access :=
  { kind := if fill then .fill else .spill, size := imageSize, acq := false, rel := false, scope := .wv }

/-- The rows that WFILL loads in a lane: the granule below RF. -/
def State.fillRows (s : State) (k lane : Nat) : List Dst :=
  let t := s.thread k lane
  (List.range 32).map fun j => .v lane ((s.recOf k).phys (32 * t.granule true + j))

/-- One visible lane moves its image, traps, or is held in the operand log with its thread blocked (R492); the rows of a held WFILL
join the pending destination `serial` of the instruction. -/
def State.imageLane (s : State) (k lane va serial : Nat) (fill : Bool) : State :=
  let r := s.recOf k
  let t := s.thread k lane
  let bs := if fill then [] else t.image r (t.granule false)
  match s.imagePieces k va fill with
  | (s, .pieces ps) => s.imageMove k lane fill bs ps
  | (s, .trap) => (r.mirror lane).foldl (fun s l => s.raiseTrap k l (trapHere 0x0B (BitVec.ofNat 64 va) t.pc)) s
  | (s, .held page) =>
    let rows := if fill then (r.mirror lane).flatMap (s.fillRows k) else []
    let s := s.modWave k fun w => { w with pend := w.pend.map fun p =>
      if p.serial = serial then { p with marks := p.marks ++ rows, waiting := p.waiting + 1 } else p }
    let s := s.logLanes k (imageAccess fill) serial t.pc
      [{ lane := lane, va := BitVec.ofNat 57 va, data := BitVec.ofNat 1152 (leNat bs), page := page }]
    (r.mirror lane).foldl (fun s l => s.modThread k l fun t => { t with block := some .image }) s

def imageBody (fill : Bool) (f : Fields) (c : Ctx) (ls : List Nat) (s : State) : State :=
  let (qs, oob) := reqsOf (c.imageAddress f fill) (fun _ => 0) ls
  let (s, serial) := if fill then (s.flagOob c.k oob).pendOpen c.k [] [] 0 else (s.flagOob c.k oob, s.serial)
  let s := if fill then s else { s with serial := s.serial + 1 }
  qs.foldl (fun s q => s.imageLane c.k q.lane q.va serial fill) s

/-- WSPILL R492. -/
def execWspill (f : Fields) (s : State) : Host.Outcome State Fault Refusal :=
  .next (s.issuePaired .wspill f (fun c l => (c.imageAddress f false l).check s.cur.pc)
    (fun c l => (c.imageAddress f false l).code ::
      (((c.w.thread l).image c.lr ((c.w.thread l).granule false)).map BitVec.toNat)) (imageBody false f))

/-- WFILL R492. -/
def execWfill (f : Fields) (s : State) : Host.Outcome State Fault Refusal :=
  .next (s.issuePaired .wfill f (fun c l => (c.imageAddress f true l).check s.cur.pc)
    (fun c l => [(c.imageAddress f true l).code]) (imageBody true f))

/-! ### ICINV, MARG (R494, R495) -/

/-- ICINV R494: the core's instruction cache is empty afterwards. -/
def execIcinv (f : Fields) (s : State) : Host.Outcome State Fault Refusal :=
  .next (s.issue .icinv f noCheck fun c _ s => s.modCore c.core (fun x => { x with lines := [] }))

/-- MARG R495. -/
def execMarg (f : Fields) (s : State) : Host.Outcome State Fault Refusal :=
  .next (s.aluVar .marg f fun c l =>
    c.put32 l f.d (BitVec.ofNat 32 (s.hubRead (Off.margin c.core + 8 * modField f 0 2))) false)

/-! ### CKPT (R239, R496) -/

/-- Steps 1 to 4 of R496 are done for a crew: no wave but the one that asked is inside a pre-emption-free window,
nothing is in flight, the operand logs are empty, and the copies of its threads have completed. -/
def State.ckptReady (s : State) (c : Nat) : Bool :=
  let x := s.crew c
  x.live && x.resident && x.rollbackDue.isNone &&
    (s.crewKeys c).all fun k =>
      let w := s.wave k
      (w.window.isNone || x.ckptDue == some w.wid) && w.log.isEmpty && w.mat.isEmpty && w.pend.all (fun p => p.waiting ≠ 0) &&
        w.threads.all (fun e => e.2.copies.isEmpty) && s.outstanding.all (fun o => o.waveKey ≠ k)

/-- The checkpoint that a CKPT of the crew has asked for is taken when it can be. -/
def State.tryCkpt (s : State) (c : Nat) : State :=
  if (s.crew c).ckptDue.isSome && s.ckptReady c then (s.checkpoint c).modCrew c (fun x => { x with ckptDue := none }) else s

/-- CKPT R496: in a crew of an RBK launch that is no task wave, the crew stops until its checkpoint is taken; elsewhere it
only advances. The checkpoint shows the issuing wave past the CKPT. -/
def execCkpt (f : Fields) (s : State) : Host.Outcome State Fault Refusal :=
  let c := s.ctx
  let t := s.issue .ckpt f noCheck fun c _ s =>
    if c.lr.rbk && c.launch.task.isNone then s.modCrew c.w.crew (fun x => { x with ckptDue := x.ckptDue.or (some c.w.wid) }) else s
  .next (t.tryCkpt c.w.crew)

end Sys2Proof.Machine
end

