-- ==== Sys2Proof/Machine/Replay.lean ====
section
/-!
DEFINITION. The replay of operand-log entries (R96, R97, R215), and what an answer to a page request does to the threads that
wait on the page (R95, R104, R128).
-/

namespace Sys2Proof.Machine

/-! ### Answers (R104) -/

/-- A wait for a page takes the answer of its request. -/
def PageWait.answered (p : PageWait) (r : PageReq) (code : BitVec 2) : PageWait :=
  if r.same p && p.answer.isNone then { p with answer := some code } else p

def LogEntry.answered (e : LogEntry) (r : PageReq) (code : BitVec 2) : LogEntry :=
  { e with lanes := e.lanes.map fun l => { l with page := l.page.answered r code } }

def Block.answered (b : Block) (r : PageReq) (code : BitVec 2) : Block :=
  match b with
  | .fetch p t => .fetch (p.answered r code) t
  | .sysc y => .sysc { y with page := y.page.map (·.answered r code) }
  | b => b

def Wave.answered (w : Wave) (r : PageReq) (code : BitVec 2) : Wave :=
  { w with
    log := w.log.map (·.answered r code)
    threads := w.threads.map fun (l, t) => (l, { t with block := t.block.map (·.answered r code) }) }

/-- A page that a block waits on, with an answer of code `c`. -/
def Block.hasAnswer (b : Block) (c : BitVec 2) : Bool :=
  match b with
  | .fetch p _ => p.answer == some c
  | .sysc y => y.page.any (fun p => p.answer == some c)
  | _ => false

/-- The wave holds something that was answered with code `c`. -/
def Wave.hasAnswer (w : Wave) (c : BitVec 2) : Bool :=
  w.log.any (fun e => e.lanes.any (fun l => l.page.answer == some c)) ||
    w.threads.any (fun e => e.2.block.any (·.hasAnswer c))

/-- Answers reach every wave, in its slot or saved. -/
def State.answerPages (s : State) (r : PageReq) (code : BitVec 2) : State :=
  { s with
    waves := s.waves.map fun (k, w) => (k, w.answered r code)
    crews := s.crews.map fun (c, x) => (c, { x with saved := x.saved.map fun (i, w) => (i, w.answered r code) }) }

/-- An answered wait of a fetch or of SYSC is resolved: it goes on, its thread traps, or its launch or task fails. -/
def State.resolveThread (s : State) (k lane : Nat) : State :=
  let t := s.thread k lane
  match t.block with
  | some (.fetch p _) =>
    (match p.answer with
     | none => s
     | some 0 => s.transferResume k lane
     | some 1 => s.raiseTrap k lane (trapHere 0x0B (p.va.setWidth 64) t.pc)
     | some _ => s.killThread k lane 0x0A 8 0)
  | some (.sysc y) =>
    (match y.page with
     | none => s
     | some p =>
       match p.answer with
       | none => s
       | some 0 => (s.syscHold k lane { y with page := none }).syscStep k lane
       | some 1 => s.syscFail k lane { y with page := none } 0x0B p.va.toNat true
       | some _ => ((s.recOf k).mirror lane).foldl
           (fun s l => (s.pendRefuse k y.serial 1 ((s.wave k).marksOf y.serial l)).killThread k l 0x0A 8 0) s)
  | _ => s

def State.resolveWave (s : State) (k : Nat) : State :=
  ((s.wave k).threads.map (·.1)).foldl (fun s l => s.resolveThread k l) s

/-! ### Replay (R96, R97, R215) -/

/-- Lanes that one logged lane stands for: the pair, where an action is made once for it. -/
def LogEntry.lanesOf (e : LogEntry) (r : LaunchRec) (lane : Nat) : List Nat :=
  match e.access.kind with
  | .load _ | .wait => [lane]
  | _ => r.mirror lane

/-- A lane whose access is refused at replay: its destination keeps its value with X = 1 and is pending no more, and the thread traps
before its next issue (R215). -/
def State.replayTrap (s : State) (k : Nat) (e : LogEntry) (lane cause va : Nat) : State :=
  let r := s.recOf k
  let ds := (e.lanesOf r lane).flatMap ((s.wave k).marksOf e.serial)
  let s := s.pendRefuse k e.serial 1 ds
  let s := match e.access.kind with
    | .wait => s.unblock k lane
    | .spill | .fill => (e.lanesOf r lane).foldl (fun s l => s.modThread k l fun t => { t with block := none }) s
    | _ => s
  (e.lanesOf r lane).foldl (fun s l => s.trapLater k l cause (BitVec.ofNat 64 va)) s

/-- A lane whose request was answered with CODE 1 traps; with CODE 2 its launch or task fails (R104, R182). -/
def State.replayRefused (s : State) (k : Nat) (e : LogEntry) (l : LogLane) : State :=
  if l.page.answer == some 1 then s.replayTrap k e l.lane 0x0B l.va.toNat
  else
    let ls := e.lanesOf (s.recOf k) l.lane
    ls.foldl (fun s i => s.killThread k i 0x0A 8 0) (s.pendRefuse k e.serial 1 (ls.flatMap ((s.wave k).marksOf e.serial)))

/-- Loads, stores and atomic operations of an entry are performed for the granted lanes. Answers the lanes that are held
again. -/
def State.replayAccess (s : State) (k : Nat) (e : LogEntry) (ls : List LogLane) : State × List LogLane :=
  let marks := fun l => (s.wave k).marksOf e.serial l
  let p := s.accessLanes k e.access e.serial marks e.pc (ls.map fun l => ⟨l.lane, l.va.toNat, l.data.toNat⟩)
  let silent := p.traps.filter fun t => !p.writes.any (fun w => (marks t.1).contains w.1)
  let s := p.s.pendArrive k e.serial (ls.length - p.logged.length - p.waiting) p.writes
  let s := s.pendRefuse k e.serial 0 (silent.flatMap fun t => marks t.1)
  let s := p.traps.foldl (fun s (l, t) =>
    (e.lanesOf (s.recOf k) l).foldl (fun s i => s.trapLater k i t.cause.toNat t.tval) s) s
  (p.poisoned.foldl (fun s (l, va) => (e.lanesOf (s.recOf k) l).foldl (fun s i => s.consume k i va) s) s, p.logged)

/-- A doorbell of an entry (R468). Answers the lane again where its page is still absent. -/
def State.replayDoorbell (s : State) (k : Nat) (e : LogEntry) (l : LogLane) : State × List LogLane :=
  match s.doorbellPage (s.recOf k).pasid l.va.toNat with
  | (s, .found line) => ((s.spoil (s.wave k).crew).ring k l.lane (128 * line + l.va.toNat % 128) e.access.size (l.data.setWidth 64), [])
  | (s, .trap) => (s.replayTrap k e l.lane 0x0B l.va.toNat, [])
  | (s, .absent perm) =>
    let page := pageWait (s.recOf k).pasid l.va.toNat .write perm
    (s.pageFault page (keyCore k) (keySlot k), [{ l with page := page }])

/-- A window image of an entry (R492): performed, its threads go on; otherwise they are held again or trap. -/
def State.replayImage (s : State) (k : Nat) (e : LogEntry) (l : LogLane) (fill : Bool) : State × List LogLane :=
  let r := s.recOf k
  match s.imagePieces k l.va.toNat fill with
  | (s, .pieces ps) =>
    let rows := if fill then (r.mirror l.lane).flatMap (s.fillRows k) else []
    let s := (s.imageMove k l.lane fill (leBytes l.data.toNat imageSize) ps).modWave k fun w =>
      { w with pend := w.pend.map fun p =>
          if p.serial = e.serial then { p with marks := p.marks.filter fun d => !rows.contains d, waiting := p.waiting - 1 } else p }
    ((r.mirror l.lane).foldl (fun s i => s.unblock k i) s, [])
  | (s, .trap) => (s.replayTrap k e l.lane 0x0B l.va.toNat, [])
  | (s, .held page) => (s, [{ l with page := page }])

/-- The granted lanes of an entry, by what it does; a WAIT reads again. -/
def State.replayGranted (s : State) (k : Nat) (e : LogEntry) (ls : List LogLane) : State × List LogLane :=
  let each := fun (g : State → LogLane → State × List LogLane) =>
    ls.foldl (fun (acc : State × List LogLane) l => ((g acc.1 l).1, acc.2 ++ (g acc.1 l).2)) (s, [])
  match e.access.kind with
  | .load _ | .store | .atom _ => s.replayAccess k e ls
  | .doorbell => each (fun s l => s.replayDoorbell k e l)
  | .spill => each (fun s l => s.replayImage k e l false)
  | .fill => each (fun s l => s.replayImage k e l true)
  | .wait => (s, [])

/-- An entry keeps the lanes `ls`; an entry without lanes is freed. -/
def Wave.setLog (w : Wave) (i : Nat) (e : LogEntry) (ls : List LogLane) : Wave :=
  { w with log := if ls.isEmpty then w.log.eraseIdx i else w.log.set i { e with lanes := ls } }

/-- The replay of entry `i` of a wave: the lanes whose requests were answered. -/
def State.replayEntry (s : State) (k i : Nat) : State :=
  match (s.wave k).log[i]? with
  | none => s
  | some e =>
    let asked := e.lanes.filter (fun l => l.page.answer.isNone)
    let granted := e.lanes.filter (fun l => l.page.answer == some 0)
    let refused := e.lanes.filter (fun l => l.page.answer.any (· != 0))
    let g := s.replayGranted k e granted
    let s := g.1.modWave k (·.setLog i e (asked ++ g.2))
    let s := refused.foldl (fun s l => s.replayRefused k e l) s
    match e.access.kind with
    | .wait => granted.foldl (fun s l => s.waitStep k l.lane) s
    | _ => s

/-- OPERAND_LOG_REPLAY R215. -/
def execOperandLogReplay (core : Fin 256) (slot : Fin 64) (entry : Fin 4) (s : State) : Host.Outcome State Fault Refusal :=
  .next (s.replayEntry (waveKey core slot) entry)

end Sys2Proof.Machine
end

