-- ==== Sys2Proof/Machine/Ready.lean ====
section
/-!
DEFINITION. When an instruction is ready (R190, R200, R207, R214, R73) and which bundle a quarter issues (R200).
-/

namespace Sys2Proof.Machine

/-! ### The registers and predicates that an instruction reads or writes (R207) -/

/-- The predicates that MOD names (R358 to R368). -/
def modPreds (o : Op) (f : Fields) : List Nat :=
  let p := fun lo => modField f lo 3
  match o with
  | .iadd | .isub | .iadd64 | .isub64 => p 2 :: if modBit f 8 then [p 5] else []
  | .icmp => [p 5, p 8]
  | .sel => [p 0]
  | .pset => [p 0, p 3, p 7]
  | .preg => List.range 7
  | .regp => (List.range 7).filter (modBit f)
  | .xget | .elect | .sysc => [p 0]
  | .fcmp => [p 7, p 10]
  | .vote => [p 2, p 5]
  | .matchLanes => [p 1]
  | .push => [p 0, p 3]
  | _ => []

/-- The destinations that a used field covers in a lane. -/
def Ctx.fieldDsts (c : Ctx) (r : FieldRole) (o : Operand) (lane : Nat) : List Dst :=
  if r.used then (List.range r.count).filterMap (c.dst lane o) else []

/-- The rows that an instruction touches beside its operands: the link of calls and returns, the image of a window
instruction, and the registers of other lanes. -/
def Ctx.hiddenDsts (c : Ctx) (o : Op) (f : Fields) (lane : Nat) : List Dst :=
  let t := c.w.thread lane
  let row := fun n => Dst.v lane (c.lr.phys n)
  match o with
  | .call | .callx => [row (t.wb.toNat + 16 * modField f 0 7), row (t.wb.toNat + 16 * modField f 0 7 + 1)]
  | .ret => [row t.wb.toNat, row (t.wb.toNat + 1)]
  | .wspill => (List.range 32).map fun j => row (32 * t.granule false + j)
  | .wfill => (List.range 32).map fun j => row (32 * t.granule true + j)
  | .rdlane => (c.dst (rdlaneSource c (c.b32 lane f).val) f.a 0).toList
  | .shfl => (List.range (if modBit f 2 then 2 else 1)).filterMap (c.dst (c.shflLane f lane) f.a)
  | .planx => if c.lr.prot then [] else (List.range (planeCols f / 2)).filterMap (c.dst (lane ^^^ 1) f.b.operand)
  | _ => []

/-- What a lane's instruction reads or writes. -/
def Ctx.touches (c : Ctx) (o : Op) (f : Fields) (lane : Nat) : List Dst :=
  let rr := o.roles f.mod f.b.isImm (c.decodeCtx [])
  let preds := (f.g0.pred.toNat :: f.g1.pred.toNat :: modPreds o f).filter (· < 7)
  c.fieldDsts rr.d f.d lane ++ c.fieldDsts rr.a f.a lane ++ c.fieldDsts rr.b f.b.operand lane ++
    c.fieldDsts rr.c f.c lane ++ c.fieldDsts rr.e f.e lane ++ preds.map (Dst.p lane) ++ c.hiddenDsts o f lane

def isMatrixOp (o : Op) : Bool := o == .mma || o == .mmq || o == .mms

/-- No register or predicate of the instruction is pending for the lane. -/
def Ctx.scoreboard (c : Ctx) (o : Op) (f : Fields) (lane : Nat) : Bool :=
  (c.touches o f lane).all (fun d => !c.w.pending d) &&
    (!isMatrixOp o || (c.matrixTouches f lane).all (fun d => !c.w.pending d))

/-! ### The operand log and the domain (R214, R73) -/

/-- The instruction issues in the safe slot (R225), as every one does on a core that is DRAINING (R231). -/
def Ctx.safeSlot (c : Ctx) (o : Op) (f : Fields) : Bool :=
  c.s.draining c.core || match o with
  | .push | .dbl | .wake | .sysc | .atom => true
  | .st => c.storesToMt5 f
  | _ => false

/-- The instruction waits while the log holds a lane of its thread (R214). -/
def Ctx.logOrdered (c : Ctx) (o : Op) (f : Fields) : Bool :=
  match o with
  | .fence | .bar | .bara | .barw | .gadd | .stf | .seal | .exit => true
  | .st | .sts | .atoms => modBit f 8 || c.safeSlot o f
  | _ => c.safeSlot o f

/-- The address that a memory instruction gives a lane. The accesses of SYSC look for held lines as they are made (Machine/Sysc.lean). -/
def Ctx.laneVa (c : Ctx) (o : Op) (f : Fields) (lane : Nat) : Option Nat :=
  let a := match o with
    | .ld | .ldk | .cwb | .cinv => c.recAddress f BufRec.rdp (memSize f) true lane
    | .st | .dbl => c.recAddress f BufRec.wrp (memSize f) true lane
    | .atom => c.recAddress f BufRec.atp (memSize f) true lane
    | .wait => c.recAddress f BufRec.rdp (if modBit f 0 then 8 else 4) false lane
    | .wspill => c.imageAddress f false lane
    | .wfill => c.imageAddress f true lane
    | _ => .oob
  match a with
  | .va v => some v
  | _ => none

/-- The log lets the bundle issue (R214): not while it is full, but in trap mode, where a thread whose lanes have no entry waits. -/
def Ctx.logRoom (c : Ctx) : Bool :=
  (c.w.log.length < 4 || c.active.any fun l => (c.w.thread l).trapMode) &&
    c.active.all fun l => !(c.w.log.drop 4).any fun e => e.lanes.any fun x => c.lr.visible x.lane == c.lr.visible l

/-- The log holds a lane of the thread, or of the primary whose action it shares (R214, R235). -/
def Ctx.logHeld (c : Ctx) (lane : Nat) : Bool := c.w.logHolds lane || (c.lr.prot && c.w.logHolds (lane / 2 * 2))

/-- The memory instructions of R305: those that reach memory, the scratchpad or an engine. -/
def reachesMemory : Op → Bool
  | .ld | .st | .lds | .sts | .lde | .stf | .atom | .atoms | .fence | .pref | .cwb | .cinv | .ldk | .bar | .bara | .barw | .ginit
  | .gadd | .gwait | .seal | .bwait | .push | .wait | .wake | .tsig | .dbl | .sysc | .plane | .planx | .wspill | .wfill => true
  | _ => false

/-- The thread whose accesses a lane makes or shares (R235). -/
def Ctx.actor (c : Ctx) (lane : Nat) : Nat := if c.lr.prot then lane / 2 * 2 else lane

/-- The request is one of this thread. -/
def Outstanding.fromThread (o : Outstanding) (k lane : Nat) : Bool := o.who == .thread && o.waveKey == k && o.lane == lane

/-- An acquire access of the thread is not performed in every lane: the log holds it, or its answer has not come (R305, R438). -/
def Ctx.acquiring (c : Ctx) (lane : Nat) : Bool :=
  c.w.log.any (fun e => e.access.acq && e.lanes.any (·.lane == c.actor lane)) ||
    c.s.outstanding.any fun o => o.access.acq && o.fromThread c.k (c.actor lane)

/-- The instruction comes behind what an acquire waits for: a memory instruction behind an acquire access, an acquire fence behind
every access of the thread that is not answered (R285, R305, R438, R447). -/
def Ctx.acquireAdmits (c : Ctx) (o : Op) (f : Fields) (ls : List Nat) : Bool :=
  (!reachesMemory o || ls.all fun l => !c.acquiring l) &&
    (!(o == .fence && modBit f 7) || ls.all fun l => c.s.outstanding.all fun x => !x.fromThread c.k (c.actor l))

/-- The rules of R214 admit the instruction for these executing lanes. -/
def Ctx.logAdmits (c : Ctx) (o : Op) (f : Fields) (ls : List Nat) : Bool :=
  c.logRoom && (!c.logOrdered o f || ls.all fun l => !c.logHeld l) &&
    (c.w.log.isEmpty || ls.all fun l =>
      match c.laneVa o f l with
      | some v => !c.w.logLine v && !((o == .wspill || o == .wfill) && c.w.logLine (v + imageSize - 1))
      | none => true)

/-- The instruction takes effect at SY scope, after the acknowledgements of earlier domain stores (R73). -/
def syRelease (o : Op) (f : Fields) : Bool :=
  match o with
  | .dbl | .push | .wake | .sysc => true
  | .fence | .st | .atom => modBit f 8 && modField f 4 3 == 4
  | _ => false

/-- A domain store or atomic operation that is not acknowledged. Those of every thread count, which covers the ones that a
thread has made its own. -/
def State.domainPending (s : State) : Bool :=
  s.outstanding.any fun o =>
    o.port.isNone && (match o.access.kind with | .store | .atom _ => true | _ => false)

/-! ### Readiness (R190, R200) -/

/-- The matrix duty of a cluster, in eighths: the lowest of its limits (R13, R16). -/
def State.duty (s : State) (cluster : Nat) : Nat :=
  min (min s.power.powerDuty (SMap.get s.power.thermalDuty cluster 8)) (SMap.get s.power.fluxDuty cluster 8)

/-- The array is free and the duty admits the cycle (R200): the first cycles of each eight by the count of cycles since reset,
which is the model's choice, for R13 names no cycles of the eight (notes/assumptions/66.md). -/
def State.arrayFree (s : State) (k : Nat) : Bool :=
  !s.arrayBusy k && s.cycle % 8 < s.duty (keyCore k / 4)

/-- The wave may issue: its partition is resident and not halted, its launch not cancelled (R143), and its crew does not stop (R154, R159, R243, R496). A wave
inside a pre-emption-free window goes on through a stop. -/
def State.waveRuns (s : State) (k : Nat) : Bool :=
  let w := s.wave k
  let x := s.crew w.crew
  let p := (s.recOf k).part
  let ckpt := match x.ckptDue with | some i => w.window.isSome && i ≠ w.wid | none => true
  let halted := s.swapping p
  w.live && !(s.launchAt w.launch).cancelled && x.resident && s.resident p && x.rollbackDue.isNone && ckpt && ((!x.stopping && !halted) || w.window.isSome)

/-- What stands at the slot of a bundle. -/
inductive AtSlot where
  | fetch
  | error (word : BitVec 96) (e : DecodeError)
  | ins (i : Instr)
deriving DecidableEq, Repr

/-- The bundle of some lanes of a wave, as State.cur would name it. -/
def Wave.issueOf (w : Wave) (k : Nat) (lanes : BitVec 32) : Issue :=
  { core := keyCore k, slot := keySlot k, lanes := lanes, pc := (w.thread ((lanesOf lanes).headD 0)).pc }

/-- The instruction of a line at slot address `pc`, for the issuing bundle. -/
def Ctx.decodeAt (c : Ctx) (l : Line) (pc : Nat) : AtSlot :=
  let word := lineSlot l (pc % 5)
  match decode (c.decodeCtx (lineLits l (pc % 5))) word with
  | .ok i => .ins i
  | .error e => .error word e

/-- What the issuing bundle has at its slot: a line that is not cached, or a slot that no lane may issue, is to be fetched. -/
def Ctx.atSlot (c : Ctx) : AtSlot :=
  let pc := c.s.cur.pc.toNat
  match c.s.cachedLine c.core c.lr.pasid (lineByte pc) with
  | none => .fetch
  | some l => if c.active.any (fun n => badTarget l pc (c.w.thread n).checked) then .fetch else c.decodeAt l pc

/-- The instruction at a thread's slot as far as it can be read: R190 asks for no fetch. -/
def Ctx.peekSlot (c : Ctx) : AtSlot :=
  match c.s.lineOfSlot c.core c.lr.pasid c.s.cur.pc.toNat with
  | none => .fetch
  | some l => c.decodeAt l c.s.cur.pc.toNat

/-- A thread is ready: eligible, with nothing pending that its next instruction touches (R190). -/
def State.threadReady (s : State) (k lane : Nat) : Bool :=
  let w := s.wave k
  let c := ({ s with cur := w.issueOf k (maskOf [lane]) } : State).ctx
  (w.thread lane).eligible &&
    (match c.peekSlot with
     | .ins i => (match i.fields? with | some (o, f) => c.scoreboard o f lane | none => true)
     | _ => true)

/-- A stop waits for the wave: a pre-emption or migration of its crew, a halt of its partition, an in-field test of its core
(R390). -/
def State.stopWaits (s : State) (k : Nat) : Bool :=
  let p := (s.recOf k).part
  (s.crew (s.wave k).crew).stopping || s.swapping p ||
    (s.coreAt (keyCore k)).iftDue

/-- The issuing bundle may issue this instruction now (R200, R390). -/
def Ctx.admits (c : Ctx) (o : Op) (f : Fields) : Bool :=
  let ls := c.active.filter (fun l => o.wholeWave || c.executes f l)
  c.active.all (c.scoreboard o f) && (!isMatrixOp o || c.s.arrayFree c.k) && c.logAdmits o f ls && c.acquireAdmits o f ls &&
    !(!ls.isEmpty && syRelease o f && c.s.domainPending) && !(o == .preoff && c.s.stopWaits c.k)

/-- No thread of the bundle is held (R206). -/
def Ctx.unheld (c : Ctx) : Bool := c.active.all fun l => (c.w.thread l).hold ≤ c.s.cycle

/-- The bundle is ready (R200). -/
def Ctx.ready (c : Ctx) : Bool :=
  c.s.waveRuns c.k && c.unheld &&
    (match c.atSlot with
     | .fetch => false
     | .error _ _ => c.logRoom
     | .ins i => (match i.fields? with | some (o, f) => c.admits o f | none => true))

/-! ### Selection (R200) -/

/-- A bundle that a quarter can choose. -/
structure Choice where
  issue : Issue
  trap : Bool
  wait : Nat
  role : Role
  index : Nat
deriving DecidableEq, Repr

/-- The bundles of a wave as they would issue. -/
def State.bundlesOf (s : State) (k : Nat) : List (Nat × Issue) :=
  let w := s.wave k
  (w.bundles.zipIdx.filter (fun b => b.1.lanes != 0)).map fun b => (b.2, w.issueOf k b.1.lanes)

/-- wait(b): cycles since the thread that has waited longest issued or became eligible. -/
def Ctx.waited (c : Ctx) : Nat :=
  c.active.foldl (fun n l => max n (c.s.cycle - (c.w.thread l).since)) 0

/-- The ready bundles of a quarter. -/
def State.choices (s : State) (quarter : Nat) : List Choice :=
  (s.waves.filter (fun e => e.2.live && quarterOf e.1 == quarter)).flatMap fun e =>
    (s.bundlesOf e.1).filterMap fun b =>
      let c := ({ s with cur := b.2 } : State).ctx
      if c.ready then
        some { issue := b.2, trap := c.active.any (fun l => (c.w.thread l).trapMode), wait := c.waited, role := c.w.role,
               index := b.1 }
      else none

/-- The order within the chosen set: the longest wait, the lowest slot, the lowest bundle. -/
def Choice.before (a b : Choice) : Bool :=
  b.wait < a.wait || (a.wait == b.wait &&
    (a.issue.slot < b.issue.slot || (a.issue.slot == b.issue.slot && a.index < b.index)))

def bestChoice (cs : List Choice) : Option Choice :=
  match cs with
  | [] => none
  | c :: rest => some (rest.foldl (fun b x => if x.before b then x else b) c)

/-- AGE of the partition of a bundle (R134). -/
def State.age (s : State) (i : Issue) : Nat :=
  s.hubField (Off.part (s.recOf (waveKey i.core i.slot)).part + 8) 35 24

/-- The bundle that a quarter issues: traps first, then the aged ones, then roles L, A, E. -/
def State.select (s : State) (quarter : Nat) : Option Choice :=
  let cs := s.choices quarter
  let aged := cs.filter (fun c => s.age c.issue ≤ c.wait)
  (bestChoice (cs.filter (·.trap))).or
    ((bestChoice aged).or
      ((bestChoice (cs.filter (·.role == .l))).or
        ((bestChoice (cs.filter (·.role == .a))).or (bestChoice (cs.filter (·.role == .e))))))

/-- The quarters that hold a live wave, ascending. -/
def State.quarters (s : State) : List Nat := ((s.waves.filter (·.2.live)).map (fun e => quarterOf e.1)).eraseDups

/-- The first bundle whose line is to be fetched before it can issue. -/
def State.fetchDue (s : State) : Option (Nat × Nat) :=
  s.waves.findSome? fun e =>
    if s.waveRuns e.1 then
      (s.bundlesOf e.1).findSome? fun b =>
        let c := ({ s with cur := b.2 } : State).ctx
        if c.atSlot = .fetch then some (e.1, c.active.headD 0) else none
    else none

end Sys2Proof.Machine
end

