-- ==== Sys2Proof/Machine/Waves.lean ====
section
/-!
DEFINITION. The steps of a core between issues: trap entry (R216, R490), regrouping (R188, R191, R192), the arrival of
scoreboarded results (R207), rollback (R243), and the re-read of the wake table (R120).
-/

namespace Sys2Proof.Machine

/-! ### TRAP_ENTRY -/

/-- A thread takes its waiting trap now: it would issue next, and its fixed-latency results have landed (R490). -/
def State.trapDue (s : State) (k lane : Nat) : Bool :=
  let t := s.thread k lane
  t.ptrap.isSome && !t.exited && !t.parked && t.block.isNone && (s.wave k).inFlight lane = []

/-- A thread takes the trap that waits in it. -/
def State.takeTrap (s : State) (k lane : Nat) : State :=
  match (s.thread k lane).ptrap with
  | some p => s.enterTrap k lane p
  | none => s

/-- TRAP_ENTRY R490: with the lane enter the others of its wave whose traps are due now, as one bundle in trap mode (R193). -/
def execTrapEntry (core : Fin 256) (slot : Fin 64) (lane : Fin 32) (s : State) : Host.Outcome State Fault Refusal :=
  let k := waveKey core slot
  let ls := (List.range 32).filter (s.trapDue k)
  if ls.contains lane.val then .next ((ls.foldl (fun s l => s.takeTrap k l) s).bundleNew k ls) else .next s

/-! ### REGROUP (R188 to R192) -/

/-- Threads parked at an address are released when no running thread means to meet there (R188). -/
def Wave.release (w : Wave) (cycle : Nat) : Wave :=
  { w with threads := w.threads.map fun (l, t) =>
      if t.parked && !(w.threads.any fun e => !e.2.exited && !e.2.parked && e.2.mr == t.pc) then
        (l, { t with parked := false, since := cycle })
      else (l, t) }

/-- A group of threads with one key (R191). -/
structure Group where
  trap : Bool
  pc : SlotAddr
  lanes : List Nat
  ready : Bool
  starve : Nat
deriving DecidableEq, Repr

/-- The order of groups (R191). -/
def Group.before (a b : Group) : Bool :=
  if a.trap != b.trap then a.trap
  else if a.trap then a.pc < b.pc
  else if a.ready != b.ready then a.ready
  else if a.ready && a.starve != b.starve then b.starve < a.starve
  else a.pc < b.pc

/-- Puts a group behind those that come before it. -/
def insertGroup (g : Group) (gs : List Group) : List Group :=
  match gs with
  | [] => [g]
  | h :: t => if g.before h then g :: h :: t else h :: insertGroup g t

/-- The groups of a wave in order; `ready` says which lanes are ready. -/
def Wave.groups (w : Wave) (ready : Nat → Bool) : List Group :=
  let ls := (w.threads.filter (fun e => e.2.eligible)).map (·.1)
  (groupLanes w ls).foldl (fun gs g =>
    insertGroup
      { trap := g.1.1, pc := g.1.2, lanes := g.2, ready := g.2.any ready
        starve := g.2.foldl (fun n l => max n (w.thread l).starve) 0 } gs) []

/-- The starve count of a thread at a regroup (R192). -/
def Thread.starved (t : Thread) (ready : Bool) : Thread :=
  { t with
    starve := if t.issued then 0 else if t.wasReady then min 255 (t.starve + 1) else t.starve
    issued := false
    wasReady := ready }

/-- The wave re-forms its bundles. -/
def State.regroup (s : State) (k : Nat) : State :=
  let s := s.modWave k (·.release s.cycle)
  let ready := fun l => s.threadReady k l
  let s' := s.modWave k fun w =>
    let w := { w with threads := w.threads.map fun (l, t) => (l, Thread.starved t (ready l)) }
    { w with
      bundles := ((w.groups ready).take 4).map (fun g => ({ lanes := maskOf (Group.lanes g), issued := false } : Bundle))
      regroupDue := false, regrouped := s.cycle }
  match SMap.find s'.latches (quarterOf k) with
  | some h => if h.slot == keySlot k then s'.dropLatch k else s'
  | none => s'

/-- REGROUP R192. -/
def execRegroup (core : Fin 256) (slot : Fin 64) (s : State) : Host.Outcome State Fault Refusal :=
  .next (s.regroup (waveKey core slot))

/-- The wave regroups in this cycle (R192): it was placed or resumed, or, at a multiple of 4, each bundle has issued or holds no
ready thread. -/
def State.regroupNow (s : State) (k : Nat) : Bool :=
  let w := s.wave k
  w.live && w.threads.any (fun e => e.2.eligible || e.2.parked) &&
    (w.regroupDue ||
      (s.cycle % 4 == 0 && w.regrouped ≠ s.cycle &&
        w.bundles.all fun b => b.issued || !(lanesOf b.lanes).any (fun l => s.threadReady k l)))

/-! ### VARIABLE_LATENCY_RESULT -/

/-- The first entry of the scoreboard whose values are all known lands and leaves the pending state (R207). -/
def Wave.landPending (w : Wave) : Wave :=
  match w.pend.findIdx? (fun p => p.waiting == 0) with
  | some i => { w.landOver (w.pend.getD i ⟨0, [], [], 0⟩).writes with pend := w.pend.eraseIdx i }
  | none => w

/-- VARIABLE_LATENCY_RESULT R207. -/
def execVariableLatencyResult (core : Fin 256) (slot : Fin 64) (s : State) : Host.Outcome State Fault Refusal :=
  .next (s.modWave (waveKey core slot) Wave.landPending)

/-! ### Resuming -/

/-- A wait starts again: its thread registers and reads anew (R119). -/
def Block.again (b : Block) : Block :=
  match b with
  | .wait va pa w64 v d sc n _ _ => .wait va pa w64 v d sc n false true
  | .sysc y => .sysc { y with kick := true, spilled := false }
  | b => b

/-- A log entry replays at once, whether or not its requests were answered (R97). -/
def LogLane.again (l : LogLane) : LogLane :=
  { l with page := { l.page with answer := l.page.answer.or (some 0) } }

/-- A saved wave as it goes on in a slot (R97, R119, R192, R221). -/
def Wave.resumed (w : Wave) (cycle : Nat) : Wave :=
  { w with
    bundles := [], regroupDue := true, setNow := 0
    log := w.log.map fun e => { e with lanes := e.lanes.map LogLane.again }
    threads := w.threads.map fun (l, t) => (l, { t with block := t.block.map Block.again, since := cycle }) }

/-! ### ROLLBACK (R243) -/

/-- The instructions in flight of a crew's waves have completed. -/
def State.crewQuiet (s : State) (c : Nat) : Bool :=
  (s.crewKeys c).all fun k => (s.wave k).mat.isEmpty && s.outstanding.all (fun o => o.waveKey ≠ k)

/-- The crew returns to its checkpoint: waves, scratchpad, full/empty bits, and the release sequences in the window, of which the
interval undone is no part (R307). -/
def State.restore (s : State) (c : Nat) (p : Checkpoint) : State :=
  let x := s.crew c
  let s := ((List.range x.slots.length).zip x.slots).foldl
    (fun s e => s.setWave (waveKey x.core e.2) ((SMap.get p.waves e.1 .blank).resumed s.cycle)) s
  let outside := s.releases.filter fun e => !(spKey c 0 ≤ e.1 && e.1 < spKey (c + 1) 0)
  let s : State := { s with releases := p.tags.foldl (fun m e => SMap.set m e.1 e.2 []) outside }
  s.setCrew c { x with
    bytes := p.bytes, poisoned := p.poisoned, fbits := p.fbits, held := [], heldTags := []
    pages := p.pages.map (fun e => (e.1, if e.2.state == .zero then e.2 else .onFrame x.core (List.range 32) true)), logged := []
    rollbacks := x.rollbacks + 1, rollbackDue := none }

/-- ROLLBACK R243: back to the checkpoint while the interval is eligible and has been undone less than twice; otherwise the
launch faults. -/
def execRollback (crew : Nat) (s : State) : Host.Outcome State Fault Refusal :=
  let x := s.crew crew
  match x.rollbackDue with
  | none => .next s
  | some who =>
    let fault := (s.modCrew crew (fun y => { y with rollbackDue := none })).due (.launchFault x.launch 0x0D 0 who)
    match x.ckpt with
    | some p =>
      if x.eligible && x.rollbacks < 2 then .next ((s.restore crew p).hubCount (Off.margin x.core + 0x18) 31 16 1)
      else .next fault
    | none => .next fault

/-! ### WAKE_TABLE_REREAD -/

/-- A registered waiter is to read its word again. -/
def Block.reread (b : Block) : Block :=
  match b with
  | .wait va pa w64 v d sc n false _ => .wait va pa w64 v d sc n false true
  | .sysc y => if y.line.isSome && !y.spilled then .sysc { y with kick := true } else b
  | b => b

/-- WAKE_TABLE_REREAD R120: every registered waiter is to read its word again, the launch engine for launches in WAIT_EV too (R151). -/
def execWakeTableReread (s : State) : Host.Outcome State Fault Refusal :=
  let waves := s.waves.map fun (k, w) =>
    (k, { w with threads := w.threads.map fun (l, t) => (l, { t with block := t.block.map Block.reread }) })
  .next (({ s with waves := waves } : State).rereadEvents fun _ => true)

end Sys2Proof.Machine
end

