-- ==== Sys2Proof/Machine/Place.lean ====
section
/-!
DEFINITION. Crews on cores: what fits (R144, R240, R258), where a crew goes (R145, R181), its start (R148), pre-emption, resume and
migration (R153, R154, R157, R232), and its end.
-/

namespace Sys2Proof.Machine

/-- The first key past those of a map. -/
def nextKey {α : Type} (m : SMap α) : Nat := m.foldl (fun n e => max n (e.1 + 1)) 0

/-! ### What fits (R144) -/

/-- The free wave slots of a quarter, ascending. -/
def State.freeSlots (s : State) (core q : Nat) : List Nat :=
  ((List.range 16).map (16 * q + ·)).filter fun n => !(s.wave (waveKey core n)).live

/-- Register rows that waves take in a quarter. -/
def State.rowsUsed (s : State) (core q : Nat) : Nat :=
  (((List.range 16).map fun n => waveKey core (16 * q + n)).filter fun k => (s.wave k).live).foldl
    (fun n k => n + (s.recOf k).rows) 0

/-- Scratchpad pages of the crews on a core. -/
def State.pagesUsed (s : State) (core : Nat) : Nat :=
  (s.crews.filter fun e => e.2.live && e.2.resident && e.2.core == core).foldl (fun n e => n + e.2.spw) 0

/-- Waves of a crew that go to a quarter. -/
def quarterNeed (creww q : Nat) : Nat := ((List.range creww).filter (fun i => i % 4 == q)).length

def State.quarterFits (s : State) (core q need rows : Nat) : Bool :=
  need == 0 || (need ≤ (s.freeSlots core q).length && s.rowsUsed core q + need * rows ≤ 2048)

/-- A crew of the launch fits a core (R144); the wave of a task wave, one of its quarters. -/
def State.fitsCore (s : State) (l : Launch) (core : Nat) : Bool :=
  let r := l.record
  s.pagesUsed core + r.spw ≤ 256 &&
    (if l.task.isSome then (List.range 4).any fun q => s.quarterFits core q 1 r.rows
     else (List.range 4).all fun q => s.quarterFits core q (quarterNeed r.creww q) r.rows)

/-- Crews of a shape that one empty core holds; 0 where the shape fits no core. -/
def LaunchRec.perCore (r : LaunchRec) : Nat :=
  let waves := min 16 (2048 / r.rows)
  let byWaves := (List.range 4).foldl (fun n q => if quarterNeed r.creww q = 0 then n else min n (waves / quarterNeed r.creww q)) 64
  if r.spw = 0 then byWaves else min byWaves (256 / r.spw)

/-- Free wave slots of a core. -/
def State.freeWaves (s : State) (core : Nat) : Nat := (List.range 4).foldl (fun n q => n + (s.freeSlots core q).length) 0

/-- An area of memory where a backing slot may lie (R258): no part of a vault that is fenced off (R27). -/
def State.backingOk (s : State) (lo n : Nat) : Bool :=
  (s.regionAt lo == .hbm && s.regionAt (lo + n - 1) == .hbm) ||
    (s.regionAt lo == .vault && s.regionAt (lo + n - 1) == .vault && !s.inShadow lo (lo + n))

/-- The backing slot that a crew of partition `p` takes: the lowest free one. -/
def State.freeBacking (s : State) (p : Nat) : Option Nat :=
  (List.range (s.hubField (Off.spback p + 0x10) 15 0)).find? fun i =>
    s.backingOk ((s.hubField (Off.spback p) 51 20 + i) * 2 ^ 20) (2 ^ 20) &&
      s.backingOk ((s.hubField (Off.spback p + 8) 51 10 + i) * 1024) 1024 &&
      !s.crews.any fun e => e.2.live && e.2.slot == some i && (s.launchAt e.2.launch).record.part == p

/-- The cores of a partition on which crews may be placed (R136, R231, R237). -/
def State.partCores (s : State) (p : Nat) : List Nat :=
  (List.range 256).filter fun c => (s.partClusters p).testBit (c / 4) && s.coreInService c && !(s.coreAt c).iftDue

/-- The core with the most free wave slots, the lowest of equals (R145). -/
def State.mostFree (s : State) (cores : List Nat) : Option Nat :=
  cores.foldl (fun best c =>
    match best with
    | none => some c
    | some b => if s.freeWaves b < s.freeWaves c then some c else best) none

/-- The core for a crew of a launch: `old` names a crew that has been placed before and keeps its slot and area. -/
def State.coreFor (s : State) (l : Launch) (old : Option Nat) : Option Nat :=
  let r := l.record
  let p := r.part
  if old.isNone && r.spw ≠ 0 && (s.freeBacking p).isNone then none
  else s.mostFree ((s.partCores p).filter fun c =>
    s.fitsCore l c && (old.isSome || !r.rbk || s.areaFree (c / 4) (nextKey s.crews)))

/-! ### Waves of a crew (R145, R148, R181, R182) -/

/-- The quarter of a task wave: most free wave slots, the lower of equals (R181). -/
def State.taskQuarter (s : State) (core rows : Nat) : Nat :=
  (((List.range 4).filter fun q => s.quarterFits core q 1 rows).foldl (fun best q =>
    match best with
    | none => some q
    | some b => if (s.freeSlots core b).length < (s.freeSlots core q).length then some q else best) none).getD 0

/-- The slots of the waves of a crew on a core, by wave. -/
def State.waveSlots (s : State) (l : Launch) (core : Nat) : List Nat :=
  if l.task.isSome then [(s.freeSlots core (s.taskQuarter core l.record.rows)).headD 0]
  else (List.range l.record.creww).map fun i => (s.freeSlots core (i % 4)).getD (i / 4) 0

/-- A thread as it starts (R148). -/
def Thread.start (entry : SlotAddr) (cycle : Nat) : Thread :=
  { Thread.blank with pc := entry, checked := true, batch := 1, since := cycle }

/-- A wave as it starts (R148). -/
def Wave.start (l : Launch) (launch crew wid cycle : Nat) : Wave :=
  { Wave.blank with
    live := true, launch := launch, crew := crew, wid := wid, regroupDue := true
    threads := (List.range 32).map fun n => (n, Thread.start l.record.entry cycle)
    sregs := SMap.set (SMap.set [] 0 (⟨lo32 l.argp, false⟩ : Reg) .zero) 1 (⟨hi32 l.argp, false⟩ : Reg) .zero }

/-- The waves of a crew stand in slots of a core. -/
def State.seatWaves (s : State) (core : Nat) (slots : List Nat) (wave : Nat → Wave) : State :=
  ((List.range slots.length).zip slots).foldl (fun s (i, n) => s.setWave (waveKey core n) (wave i)) s

/-- The next crew of a launch is placed on a core (R145, R148, R239, R257, R258). The wave of a task wave has no thread until its
tiles are there (R178). -/
def State.placeNew (s : State) (n core : Nat) : State :=
  let l := s.launchAt n
  let r := l.record
  let c := nextKey s.crews
  let slots := s.waveSlots l core
  let wave := fun (i : Nat) =>
    let w := Wave.start l n c i s.cycle
    if l.task.isSome then { w with threads := [] } else w
  let backing := if r.spw = 0 then none else s.freeBacking r.part
  let s := (s.seatWaves core slots wave).setCrew c { Crew.blank with
    live := true, launch := n, number := l.nextCrew, resident := true, core := core, slots := slots, spw := r.spw
    slot := backing }
  (s.modLaunch n fun l => { l with nextCrew := l.nextCrew + 1, state := .active }).checkpoint c

/-- Waves that stand in their slots again: fetches and calls whose page requests were answered meanwhile are resolved (R104), batches
that completed meanwhile are seen. -/
def State.goOn (s : State) (keys : List Nat) : State :=
  keys.foldl (fun s k => ((s.wave k).threads.map (·.1)).foldl (fun s l => s.batchCheck k l) (s.resolveWave k)) s

/-- A crew that was pre-empted or migrated goes on on a core (R154). -/
def State.placeAgain (s : State) (c core : Nat) : State :=
  let x := s.crew c
  let slots := s.waveSlots (s.launchAt x.launch) core
  let s := (s.seatWaves core slots fun i => (SMap.get x.saved i .blank).resumed s.cycle).setCrew c
    { x with resident := true, core := core, slots := slots, saved := [], stopping := false }
  s.goOn (slots.map (waveKey core))

/-! ### Stopping a crew (R154, R157, R221) -/

/-- Nothing of the crew is in flight and no window is open: its context can be saved. -/
def State.savable (s : State) (c : Nat) : Bool :=
  let x := s.crew c
  x.rollbackDue.isNone && x.ckptDue.isNone && s.crewQuiet c && (s.crewKeys c).all fun k => (s.wave k).window.isNone

/-- The waves of a crew leave their slots for their shadow records or a context slot; its pages are unpinned. -/
def State.saveCrew (s : State) (c : Nat) (swap : Bool) : State :=
  let x := s.crew c
  let saved := ((List.range x.slots.length).zip x.slots).map fun (i, n) => (i, (s.wave (waveKey x.core n)).context s.cycle)
  let s := (s.crewKeys c).foldl (fun s k => { s.dropLatch k with waves := SMap.erase s.waves k }) s
  s.setCrew c { x.unpin with saved := saved, resident := false, stopping := false, slots := if swap then x.slots else [] }

/-- Bytes of a crew's shadow record (R157). -/
def LaunchRec.shadowBytes (r : LaunchRec) : Nat := r.creww * ((132 * r.rows + 16384 + 4095) / 4096 * 4096)

/-- Bytes of shadow records in a vault. -/
def State.shadowUsed (s : State) (v : Nat) : Nat :=
  (s.crews.filter fun e => e.2.live && e.2.saved != [] && e.2.slots == [] && e.2.core / 4 == v).foldl
    (fun n e => n + (s.launchAt (Crew.launch e.2)).record.shadowBytes) 0

/-- The shadow records of a vault have room for one more crew of this shape. -/
def State.shadowRoom (s : State) (v : Nat) (r : LaunchRec) : Bool := s.shadowUsed v + r.shadowBytes ≤ 4 * 2 ^ 20

/-! ### The end of a crew -/

/-- A crew leaves the package: its slots, rows, window, backing slot and log area are free (R257). -/
def State.dropCrew (s : State) (c : Nat) : State :=
  let keys := s.crewKeys c
  let s := keys.foldl (fun s k => { s.dropLatch k with waves := SMap.erase s.waves k }) s
  let s := { s with outstanding := s.outstanding.filter fun o => !keys.contains o.waveKey }
  let x := s.crew c
  s.setCrew c { Crew.blank with launch := x.launch, number := x.number, core := x.core }

/-- Every thread of a crew has exited, and its stores, atomic operations and copies are done (R149); a task wave also waits for
the retirement of its tasks (R180), and a cancelled launch faults (R143). A killed thread elsewhere faults its launch (R218), whose crews wait for its record (R131). -/
def State.crewOver (s : State) (c : Nat) : Bool :=
  let x := s.crew c
  x.live && x.resident && !(s.launchAt x.launch).ended && !(s.launchAt x.launch).cancelled && s.crewQuiet c && x.tasks.all (·.ended) &&
    (s.crewKeys c).all fun k =>
      !(s.wave k).threads.isEmpty && (s.wave k).log.isEmpty &&
        (s.wave k).threads.all fun e =>
          e.2.exited && ((s.launchAt x.launch).task.isSome || !e.2.killed) && e.2.copies.isEmpty

/-- Crews that are over leave, their held stores written first. -/
def State.reapCrews (s : State) : State :=
  (s.crews.filter fun e => s.crewOver e.1).foldl
    (fun s e => ((s.releaseHeld e.1).dropCrew e.1).modLaunch (Crew.launch e.2) fun l =>
      if l.task.isSome then { l with doneCrews := 1, state := .done, ended := true } else { l with doneCrews := l.doneCrews + 1 }) s

/-! ### The order of placement (R152, R184) -/

/-- A crew of the launch was pre-empted. -/
def State.preempted (s : State) (n : Nat) : List Nat :=
  (s.crews.filter fun e => e.2.live && e.2.launch == n && !e.2.resident && e.2.slots == []).map (·.1)

/-- A launch waits for a placement. -/
def State.unplaced (s : State) (n : Nat) : Bool :=
  let l := s.launchAt n
  !l.ended && !l.cancelled && (l.state == .ready || l.state == .active) && (l.nextCrew < l.record.ncrew || s.preempted n != [])

/-- Rounds of task queues (R184): a queue that has placed its WEIGHT waits for the next round. -/
def State.roundKey (s : State) (q : Nat) : Nat :=
  (if (s.tqAt q).round < max 1 (s.hubField (Off.tq q + 8) 25 22) then 0 else 64) + q

/-- The order in which launches of a partition are placed. -/
def State.launchBefore (s : State) (a b : Launch) : Bool :=
  if a.record.prio != b.record.prio then b.record.prio < a.record.prio
  else if a.thyme.isSome != b.thyme.isSome then a.thyme.isSome
  else if a.ready != b.ready then a.ready < b.ready
  else
    match a.task, b.task with
    | some q, some r => if q = r then a.accepted < b.accepted else s.roundKey q < s.roundKey r
    | _, _ => a.accepted < b.accepted

/-- Puts a launch behind those that come before it. -/
def State.insertLaunch (s : State) (n : Nat) (ns : List Nat) : List Nat :=
  match ns with
  | [] => [n]
  | m :: t => if s.launchBefore (s.launchAt n) (s.launchAt m) then n :: m :: t else m :: s.insertLaunch n t

/-- The launches of a partition with unplaced crews, in order. -/
def State.placeLine (s : State) (p : Nat) : List Nat :=
  ((s.launches.filter fun e => e.2.record.part == p && s.unplaced e.1).map (·.1)).foldr (fun n ns => s.insertLaunch n ns) []

/-! ### Placing (R145, R146) -/

/-- One crew of a launch is placed where it fits: a pre-empted one before a new one. -/
def State.placeOne (s : State) (n : Nat) : Option State :=
  let l := s.launchAt n
  match s.preempted n with
  | c :: _ => (s.coreFor l (some c)).map (s.placeAgain c)
  | [] => if l.nextCrew < l.record.ncrew then (s.coreFor l none).map (s.placeNew n) else none

/-- `k` crews in turn, all or none. -/
def State.placeAll (s : State) (n k : Nat) : Option State :=
  match k with
  | 0 => some s
  | k + 1 => (s.placeOne n).bind (fun s => s.placeAll n k)

/-- The placement of a launch that is due: every crew of a co-resident launch at once (R146), one crew of another. -/
def State.placeStep (s : State) (n : Nat) : Option State :=
  let l := s.launchAt n
  if !s.resident l.record.part || !s.unplaced n then none
  else if l.record.cores && l.nextCrew = 0 then s.placeAll n l.record.ncrew
  else s.placeOne n

/-- A task wave that is formed and was never placed: TASK_WAVE_PLACE places it. -/
def Launch.formed (l : Launch) : Bool := l.task.isSome && l.nextCrew == 0

/-- CREW_PLACE R145. -/
def execCrewPlace (launch : Nat) (s : State) : Host.Outcome State Fault Refusal :=
  if (s.launchAt launch).formed then .next s else .next ((s.placeStep launch).getD s)

/-! ### Pre-emption (R153, R154) -/

/-- Crew `a` is pre-empted before crew `b`. -/
def State.victimBefore (s : State) (a b : Nat) : Bool :=
  let x := s.launchAt (s.crew a).launch
  let y := s.launchAt (s.crew b).launch
  if x.record.prio != y.record.prio then x.record.prio < y.record.prio
  else if x.accepted != y.accepted then y.accepted < x.accepted
  else (s.crew b).number < (s.crew a).number

/-- Puts a crew behind those that are pre-empted before it. -/
def State.insertVictim (s : State) (c : Nat) (cs : List Nat) : List Nat :=
  match cs with
  | [] => [c]
  | d :: t => if s.victimBefore c d then c :: d :: t else d :: s.insertVictim c t

/-- Bytes of the shadow record of a crew. -/
def State.recordBytes (s : State) (c : Nat) : Nat := (s.launchAt (s.crew c).launch).record.shadowBytes

/-- The crew stands on a core that is leaving service or is due for a test. -/
def State.mustMove (s : State) (c : Nat) : Bool :=
  (s.crew c).live && (s.crew c).resident && (!s.coreInService (s.crew c).core || (s.coreAt (s.crew c).core).iftDue)

/-- The crews that may be pre-empted for a launch of PRIO `prio` in partition `p`, first to last: those whose shadow records fit their
vaults together with the records of the ones before (R153, R157). A crew that must leave its core is migrated instead, for its core
takes no other (R232; notes/assumptions/66.md). -/
def State.victims (s : State) (p prio : Nat) : List Nat :=
  let all := (s.crews.filter fun e =>
    let l := s.launchAt (Crew.launch e.2)
    e.2.live && e.2.resident && l.record.part == p && l.record.prio < prio && !l.record.cores && l.task.isNone &&
      !s.mustMove e.1).map (·.1)
  (all.foldr s.insertVictim []).foldl (fun cs c =>
    let v := (s.crew c).core / 4
    let before := ((cs.filter fun d => (s.crew d).core / 4 == v).map s.recordBytes).sum
    if s.shadowUsed v + before + s.recordBytes c ≤ 4 * 2 ^ 20 then cs ++ [c] else cs) []

/-- The state in which these crews hold no core. -/
def State.without (s : State) (cs : List Nat) : State :=
  cs.foldl (fun s c =>
    let s := (s.crewKeys c).foldl (fun s k => { s with waves := SMap.erase s.waves k }) s
    s.modCrew c fun x => { x with resident := false }) s

/-- CREW_PREEMPT R154: the crew stops; once nothing of it is in flight and no window is open, its context is saved. -/
def execCrewPreempt (crew : Nat) (s : State) : Host.Outcome State Fault Refusal :=
  let x := s.crew crew
  let l := s.launchAt x.launch
  if !x.live || !x.resident then .next s
  else if l.record.cores || l.task.isSome || !s.shadowRoom (x.core / 4) l.record then
    .next (s.modCrew crew fun x => { x with stopping := false })
  else if s.savable crew then .next (s.saveCrew crew false)
  else .next (s.modCrew crew fun x => { x with stopping := true })

/-- PREEMPT_WINDOW_LIMIT R155: the window ends, with the flag PLIM. -/
def execPreemptWindowLimit (core : Fin 256) (slot : Fin 64) (s : State) : Host.Outcome State Fault Refusal :=
  let k := waveKey core slot
  let limit := s.hubField (Off.part (s.recOf k).part + 8) 51 36 + 1
  if (s.wave k).window.any (limit ≤ ·) then .next ((s.modWave k fun w => { w with window := none }).setWstat k 4) else .next s

/-! ### Migration (R232) -/

/-- A crew of partition `p` that the engine has chosen to pre-empt is still stopping. -/
def State.stopsFor (s : State) (p : Nat) : Bool :=
  s.crews.any fun e => e.2.live && e.2.stopping && (s.launchAt (Crew.launch e.2)).record.part == p && !s.mustMove e.1

/-- The crew leaves a core that is in service, for its test (R237). -/
def State.leavesForTest (s : State) (c : Nat) : Bool :=
  s.mustMove c && s.coreInService (s.crew c).core && (s.coreAt (s.crew c).core).iftDue

/-- The migration of a core moves one crew at a time (R232): another of its crews has stopped to be moved. -/
def State.otherMoves (s : State) (c : Nat) : Bool :=
  s.crews.any fun e => e.1 != c && e.2.stopping && e.2.core == (s.crew c).core && s.mustMove e.1

/-- No core can be made free for a crew that must move: it keeps running, and a test that waits for it is tried again after 10 ms of
%gtime (R232, R237). -/
def State.moveFails (s : State) (c : Nat) : State :=
  let late := s.leavesForTest c
  let core := (s.crew c).core
  let s := s.modCrew c fun x => { x with stopping := false }
  if late then s.modCore core fun y => { y with testRetry := s.gtime + 10000000 } else s

/-- CREW_MIGRATION R232: the crew stops and goes to another core of its partition, before every other placement; where none is
free, crews of lower priority may be pre-empted for it; otherwise it keeps running. One crew of a core moves at a time. -/
def execCrewMigration (crew : Nat) (s : State) : Host.Outcome State Fault Refusal :=
  let x := s.crew crew
  let l := s.launchAt x.launch
  if !s.mustMove crew || !s.resident l.record.part || s.otherMoves crew then .next s
  else
    match s.coreFor l (some crew) with
    | some core =>
      if s.savable crew then .next ((s.saveCrew crew false).placeAgain crew core)
      else .next (s.modCrew crew fun x => { x with stopping := true })
    | none =>
      let vs := s.victims l.record.part l.record.prio
      match vs.head? with
      | some v =>
        if ((s.without vs).coreFor l (some crew)).isSome then .next (s.due (.crewPreempt v))
        else .next (s.moveFails crew)
      | none => .next (s.moveFails crew)

/-- What the engine does next in a partition. -/
inductive PlaceChoice where
  | place (launch : Nat)
  | preempt (crew : Nat)
  | wait
deriving DecidableEq, Repr

/-- The next placement or pre-emption in a partition (R145, R146, R152, R153). A co-resident launch holds the cores that free up while it
heads the line of R152; while a Thyme instance or an ACTIVE launch of its PRIO heads it, that one is placed (notes/assumptions/66.md). -/
def State.placeChoice (s : State) (p : Nat) : PlaceChoice :=
  match s.placeLine p with
  | [] => .wait
  | n :: rest =>
    let l := s.launchAt n
    let later := match rest.find? fun m => (s.placeStep m).isSome with
      | some m => PlaceChoice.place m
      | none => .wait
    if (s.placeStep n).isSome then .place n
    else if l.record.cores || s.stopsFor p then .wait
    else
      let vs := s.victims p l.record.prio
      match vs.head? with
      | some v => if ((s.without vs).coreFor l (s.preempted n).head?).isSome then .preempt v else later
      | none => later

/-- The step of that choice. -/
def State.placeDue (s : State) (p : Nat) : Option Instr :=
  match s.placeChoice p with
  | .place n =>
    (match (s.launchAt n).task with
     | some q => if (s.launchAt n).nextCrew = 0 then some (.taskWavePlace (Fin.ofNat 64 q)) else some (.crewPlace n)
     | none => some (.crewPlace n))
  | .preempt v => some (.crewPreempt v)
  | .wait => none

end Sys2Proof.Machine
end

