-- ==== Sys2Proof/Machine/Launch.lean ====
section
/-!
DEFINITION. Launches: records and their checks (R137 to R142, R147), cancelling (R143), after-events and ends (R149 to R151), the
failure queue (R131), and the Thyme table (R162 to R167).
-/

namespace Sys2Proof.Machine

/-! ### The completion word (R149) -/

/-- `n` bytes of a page that an engine reads at a physical address: this package's memory, hub MMIO, or what a peer or an endpoint
answers, a free value; none where the data is poisoned or the path carries no read. -/
def State.paRead (s : State) (pa n : Nat) : State × Option (List Byte) :=
  let free := fun (s : State) =>
    (({ s with fresh := s.fresh + n } : State), some ((List.range n).map fun i => (Config.freeWord (s.fresh + i)).setWidth 8))
  match s.localPa pa n 0 with
  | some a => if s.poisonIn a n then (s.decoded a n, none) else (s.decoded a n, some (s.bytes a n))
  | none =>
    match s.regionAt pa with
    | .hubMmio => (s, some (s.mmioBytes (pa - hubBase) n))
    | .pcie => if (s.pcieRoute pa).any fun r => (s.portAt r.1).up then free s else (s, none)
    | .domain => if s.isPeer pa && s.peerReachable pa then free s else (s.ownRefused pa n 0, none)
    | _ => (s, none)

/-- An engine reads [va, va + n) of a space: each page with read permission. None where a page is absent or denied (R82, R94), or
where it cannot be read. -/
def State.vaRead (s : State) (pasid : BitVec 20) (va n : Nat) : State × Option (List Byte) :=
  (pagePieces va n).foldl
    (fun (s, acc) (lo, k) =>
      match acc with
      | none => (s, none)
      | some bs =>
        match s.translate pasid lo .read with
        | (s, .ok pa _) => let r := s.paRead pa k; (r.1, r.2.map (bs ++ ·))
        | (s, _) => (s, none))
    (s, some [])

/-- An engine adds to a 64-bit word, over the paths that carry it (R74): memory, a domain peer, a PCIe endpoint behind a port
with ATOMEG = 1. `sub` is that of its record if it fails (R132). -/
def State.engineAdd (s : State) (sub : Nat) (pasid : BitVec 20) (va n : Nat) : State × WordOut :=
  if va % 8 ≠ 0 then (s, .failed)
  else
    match s.translate pasid va .both with
    | (t, .ok pa _) =>
      if s.regionAt pa == .pcie then
        match s.pcieRoute pa with
        | some (p, a) =>
          if (s.portAt p).up && s.hubField (Off.portCfg (p / 4)) 17 17 == 1 then
            (t.agentRequest (.word sub pasid va) (some p) (.atom 0) 8 pa a n, .sent)
          else (t, .failed)
        | none => (t, .failed)
      else s.vaAdd (.word sub pasid va) pasid va n
    | (s, _) => (s, .failed)

/-- DONEW of a launch goes up by `n` and its line is woken, or a record says that it could not be written (R149). -/
def State.doneAdd (s : State) (r : LaunchRec) (n : Nat) : State :=
  if r.donew = 0 then s
  else State.wordEnd (s.engineAdd 1 r.pasid r.donew.toNat n) 1 r.pasid r.donew.toNat true

/-! ### Ends of launches -/

/-- The Thyme entry of an instance that has ended or was withdrawn (R166): a held slot is submitted by the entry's next step. -/
def State.thymeEnded (s : State) (n : Nat) : State :=
  (List.range 64).foldl (fun s i =>
    let e := s.thymeAt i
    if e.instLaunch = some n then
      let s := s.modThyme i fun e => { e with instLaunch := none, state := if e.state = 2 then 2 else 0 }
      if e.state = 2 then s.due (.thymeSlotDue (Fin.ofNat 64 i)) else s
    else s) s

/-- The crews of a launch give up what they hold. -/
def State.freeCrews (s : State) (n : Nat) : State :=
  (s.crews.filter fun e => e.2.live && e.2.launch == n).foldl (fun s e => s.dropCrew e.1) s

/-- Every thread of a launch stops, at its next issue; held stores are discarded. -/
def State.stopThreads (s : State) (n : Nat) : State :=
  let s := (s.waves.filter fun e => e.2.live && e.2.launch == n).foldl (fun s e =>
    (e.2.threads.filter fun t => !(Thread.exited t.2)).foldl (fun s t => s.endThread e.1 t.1 true) s) s
  (s.crews.filter fun e => e.2.live && e.2.launch == n).foldl
    (fun s e => s.modCrew e.1 fun x => { x with held := [], rollbackDue := none, ckptDue := none }) s

/-- A launch faults (R149, R150): one failure record, and its cores are free unless the hub's buffer is full (R131). -/
def State.launchFail (s : State) (n sub : Nat) (addr : Nat) (who : DWord) : State :=
  let l := s.launchAt n
  if l.ended || l.task.isSome then s
  else
    let s := (s.stopThreads n).modLaunch n fun l => { l with state := .faulted, ended := true }
    let full := 256 ≤ s.failures.length
    let s := s.failureRecord { mkRecord 0x40 sub (some l.record.pasid) addr who with launch := some n }
    (if full then s else s.freeCrews n).thymeEnded n

/-- LAUNCH_FAULT R149. -/
def execLaunchFault (launch : Nat) (sub : Byte) (addr who : DWord) (s : State) : Host.Outcome State Fault Refusal :=
  .next (s.launchFail launch sub.toNat addr.toNat who)

/-- Every crew of a launch has been placed and is over; a cancelled launch faults instead (R143). -/
def State.launchOver (s : State) (n : Nat) : Bool :=
  let l := s.launchAt n
  l.state == .active && !l.ended && !l.cancelled && l.task.isNone && l.nextCrew == l.record.ncrew && l.doneCrews == l.record.ncrew

/-- LAUNCH_DONE R149. -/
def execLaunchDone (launch : Nat) (s : State) : Host.Outcome State Fault Refusal :=
  if s.launchOver launch then
    let l := s.launchAt launch
    .next (((s.modLaunch launch fun l => { l with state := .done, ended := true }).doneAdd l.record 1).thymeEnded launch)
  else .next s

/-- FAILURE_RECORD_APPEND R131: the oldest record of the buffer enters the queue; then the launch that it ends gives up its cores
and DONEW counts the fault. -/
def execFailureRecordAppend (s : State) : Host.Outcome State Fault Refusal :=
  match s.failures with
  | [] => .next s
  | r :: rest =>
    if s.queueFull Off.failQ then .next s
    else
      let s := { s.ringAppend Off.failQ (r.bytes s.gtime) with failures := rest }
      match r.launch with
      | none => .next s
      | some n => .next ((s.freeCrews n).doneAdd (s.launchAt n).record (2 ^ 32))

/-! ### The launch record (R137, R138) -/

/-- Bytes [o, o + n) of a record, as a number. -/
def recField (v o n : Nat) : Nat := field v (8 * (o + n) - 1) (8 * o)

/-- The fields of a record. -/
def recordOf (v : Nat) : LaunchRec :=
  let d := fun o => BitVec.ofNat 64 (recField v o 8)
  let ctl := recField v 0x20 4
  { entry := BitVec.ofNat 57 (recField v 0 8), trapv := BitVec.ofNat 57 (recField v 8 8)
    w := field (recField v 0x10 4) 10 0, stackr := field (recField v 0x10 4) 23 16
    creww := field (recField v 0x14 4) 5 0, ncrew := field (recField v 0x18 4) 24 0, spw := field (recField v 0x1C 4) 8 0
    prio := field ctl 2 0, part := field ctl 11 8, prot := ctl.testBit 16, rbk := ctl.testBit 17, cores := ctl.testBit 18
    strict := ctl.testBit 19, pasid := BitVec.ofNat 20 (recField v 0x24 4)
    gtab := d 0x28, sysr := d 0x30, argp := d 0x38, rngkey := d 0x40, donew := d 0x48
    aev0 := d 0x50, aval0 := d 0x58, aev1 := d 0x60, aval1 := d 0x68
    slots := (List.range 8).map fun k => BitVec.ofNat 128 (recField v (0x100 + 16 * k) 16)
    consts := (List.range 128).map fun j => BitVec.ofNat 32 (recField v (0x200 + 4 * j) 4) }

/-- The bits that must be 0 are 0. -/
def reservedOk (v : Nat) : Bool :=
  let win := recField v 0x10 4
  let ctl := recField v 0x20 4
  field (recField v 0 8) 63 57 == 0 && field (recField v 8 8) 63 57 == 0 && field win 15 11 == 0 && field win 31 24 == 0 &&
    recField v 0x14 4 / 64 == 0 && recField v 0x18 4 / 2 ^ 25 == 0 && recField v 0x1C 4 / 512 == 0 &&
    field ctl 7 3 == 0 && field ctl 15 12 == 0 && field ctl 31 20 == 0 && recField v 0x24 4 / 2 ^ 20 == 0 &&
    recField v 0x70 0x90 == 0 && recField v 0x180 0x80 == 0

/-- A well-formed record (R137, R138). -/
def recordOk (v : Nat) : Bool :=
  let r := recordOf v
  reservedOk v && 8 ≤ r.w && r.w ≤ 1536 && r.w % 8 == 0 && r.rows ≤ 2048 && 1 ≤ r.creww && r.creww ≤ 32 &&
    1 ≤ r.ncrew && r.ncrew ≤ 2 ^ 24 && r.spw ≤ 256 &&
    recField v 0x28 8 % 64 == 0 && recField v 0x30 8 % 64 == 0 &&
    recField v 0x48 8 % 8 == 0 && recField v 0x50 8 % 8 == 0 && recField v 0x60 8 % 8 == 0 &&
    (recField v 0x28 8 == 0 || r.cores) && !(r.rbk && r.cores)

/-! ### Group tables (R147) -/

/-- An entry of a group table: its two words. -/
structure GroupEntry where
  w0 : Nat
  w1 : Nat
deriving DecidableEq, Repr

def groupV (e : GroupEntry) : Bool := e.w0.testBit 63
def groupN (e : GroupEntry) : Nat := field e.w1 15 0

/-- A member list of words, ascending, within the launch. -/
def membersOk (r : LaunchRec) (ms : List Nat) : Bool :=
  ms.all (fun m => m < 2 ^ 29 && m % 2 ^ 24 < r.ncrew && m / 2 ^ 24 < r.creww) && (ms.zip (ms.drop 1)).all fun p => p.1 < p.2

/-- The word of an entry that is not a member list. -/
def groupEntryOk (e : GroupEntry) : Bool :=
  if groupV e then
    field e.w0 62 57 == 0 && e.w0 % 4 == 0 && 1 ≤ groupN e && field e.w1 63 16 == 0
  else e.w0 == 0 && e.w1 == 0

/-- No wave is a member of more than three entries. -/
def membershipOk (gs : SMap (List Nat)) : Bool :=
  let all := gs.flatMap (·.2)
  all.eraseDups.all fun m => (all.filter (· == m)).length ≤ 3

/-- How the reading of the group table ends. -/
inductive GroupsOut where
  | ok (gs : SMap (List Nat))
  | unreadable
  | malformed
deriving DecidableEq, Repr

/-- The words of 4 bytes of a list of bytes. -/
def words4 (bs : List Byte) : List Nat :=
  (List.range (bs.length / 4)).map fun i => leNat ((bs.drop (4 * i)).take 4)

/-- The group table of a record and its member lists are read once. -/
def State.readGroups (s : State) (r : LaunchRec) : State × GroupsOut :=
  if r.gtab = 0 then (s, .ok [])
  else
    match s.vaRead r.pasid r.gtab.toNat 4096 with
    | (s, none) => (s, .unreadable)
    | (s, some bs) =>
      let es := (List.range 256).map fun g =>
        (g, (⟨leNat ((bs.drop (16 * g)).take 8), leNat ((bs.drop (16 * g + 8)).take 8)⟩ : GroupEntry))
      let lists := (es.filter fun e => groupV e.2).foldl (fun (acc : State × Option (SMap (List Nat))) e =>
        match acc with
        | (s, none) => (s, none)
        | (s, some gs) =>
          match s.vaRead r.pasid (field e.2.w0 56 0) (4 * groupN e.2) with
          | (s, none) => (s, none)
          | (s, some bs) => (s, some (gs ++ [(e.1, words4 bs)]))) (s, some [])
      match lists with
      | (s, none) => (s, .unreadable)
      | (s, some gs) =>
        if es.all (fun e => groupEntryOk e.2) && gs.all (fun g => membersOk r g.2) && membershipOk gs then (s, .ok gs)
        else (s, .malformed)

/-! ### Acceptance (R139, R142) -/

/-- The enabled partitions with the same clusters (R136). -/
def State.swapSet (s : State) (p : Nat) : List Nat :=
  (List.range 16).filter fun q => s.partEn q && s.partClusters q == s.partClusters p

/-- The swap sets with a member that could come in, by their lowest members (R158). -/
def State.swapRows (s : State) : List Instr :=
  ((List.range 16).filter fun p => s.partEn p && (s.swapSet p).head? == some p && (s.swapSet p).any fun q => !s.resident q).map fun p =>
    .swapDecision (Fin.ofNat 16 p)

/-- An acceptance is a moment of the swap decision (R140, R158). -/
def State.decideSwaps (s : State) : State := s.swapRows.foldr (fun i s => s.due i) s

/-- A launch that faults at acceptance is entered as faulted, so that its record and its DONEW follow R149. DONEW is written through the
space of the command, whatever PASID the record names (notes/assumptions/66.md). -/
def State.rejectLaunch (s : State) (r : LaunchRec) (pasid : BitVec 20) (tag : DWord) (sub : Nat) : State :=
  let n := nextKey s.launches
  (s.setLaunch n { Launch.blank with tag := tag, record := { r with pasid := pasid }, ended := false }).launchFail n sub 0 0

/-- A fault of a command whose record cannot be read. -/
def State.rejectCommand (s : State) (pasid : BitVec 20) (sub : Nat) : State :=
  s.failureRecord (mkRecord 0x40 sub (some pasid) 0 0)

/-- A launch that names a PASID without a space leaves a fault record too (R82). -/
def State.noSpace (s : State) (pasid : BitVec 20) : State :=
  if (s.spaceOf pasid.toNat).isNone then s.faultRecord (mkRecord 5 0 (some pasid) 0 0) else s

/-- The line of an after-event word, where its page can be read. -/
def State.eventLine (s : State) (pasid : BitVec 20) (va : DWord) : Option Nat :=
  if va = 0 then none
  else
    match (s.translate pasid va.toNat .read).2 with
    | .ok pa _ => some ((s.localPa pa 8 0).getD pa / 64)
    | _ => none

/-- The engine registers on the lines of a launch's after-event words, or finds the wake table full (R119, R121, R151). -/
def State.registerEvents (s : State) (n : Nat) : State :=
  let r := (s.launchAt n).record
  ([r.aev0, r.aev1].filterMap (s.eventLine r.pasid)).eraseDups.foldl (fun s line =>
    if s.wakeLines.contains line || s.wakeLines.length < 8192 then s.modLaunch n fun l => { l with lines := l.lines ++ [line] }
    else s.hubCount Off.wakeStat 63 32 1) s

/-- The first of the later conditions of R142 that a record meets, before its group table. -/
def State.recordCode (s : State) (r : LaunchRec) (pasid : BitVec 20) : Nat :=
  if r.pasid ≠ pasid || s.hubField (Off.part r.part + 8) 19 0 ≠ r.pasid.toNat || (s.spaceOf r.pasid.toNat).isNone then 2
  else if !s.partEn r.part then 3
  else if r.perCore = 0 then 4
  else
    let cores := 4 * ((List.range 64).filter fun c => (s.partClusters r.part).testBit c).length
    if r.cores && cores * r.perCore < r.ncrew then 5 else 0

/-- A LAUNCH: its record is read and checked, and the launch waits for its after-events, which are then read, or is ready when it names
none. Answers the launch, unless it faults at acceptance. -/
def State.readLaunch (s : State) (cmdOk : Bool) (recva : Nat) (pasid : BitVec 20) (tag argo : DWord) (thyme : Option Nat) :
    State × Option Nat :=
  let none' := fun (s : State) => (s, (none : Option Nat))
  match s.vaRead pasid recva 1024 with
  | (s, none) => none' ((s.noSpace pasid).rejectCommand pasid (if cmdOk && recva % 1024 = 0 then 7 else 1))
  | (s, some bs) =>
    let v := leNat bs
    let r := recordOf v
    if !cmdOk || recva % 1024 ≠ 0 || !recordOk v then none' (s.rejectLaunch r pasid tag 1)
    else
      let code := s.recordCode r pasid
      if code ≠ 0 then none' ((s.noSpace r.pasid).rejectLaunch r pasid tag code)
      else
        match s.readGroups r with
        | (s, .unreadable) => none' (s.rejectLaunch r pasid tag 7)
        | (s, .malformed) => none' (s.rejectLaunch r pasid tag 6)
        | (s, .ok gs) =>
          let n := nextKey s.launches
          let waits := r.aev0 ≠ 0 || r.aev1 ≠ 0
          let s := s.setLaunch n { Launch.blank with
            tag := tag, record := r, argp := if argo = 0 then r.argp else argo
            state := if waits then .waitEv else .ready
            accepted := n, ready := s.cycle, groups := gs, thyme := thyme, ended := false }
          (if waits then (s.registerEvents n).due (.afterEventSatisfied n) else s, some n)

/-- A LAUNCH is accepted (R140, R158). -/
def State.acceptLaunch (s : State) (cmdOk : Bool) (recva : Nat) (pasid : BitVec 20) (tag argo : DWord) (thyme : Option Nat) :
    State × Option Nat :=
  let a := s.readLaunch cmdOk recva pasid tag argo thyme
  (a.1.decideSwaps, a.2)

/-- The oldest command of a queue is taken. -/
def State.takeCommand (s : State) (q : Nat) : State × Option QCmd :=
  match s.queueAt q with
  | [] => (s, none)
  | c :: rest => (s.setQueue q rest, some c)

/-- Doubleword `i` of a command. -/
def QCmd.word64 (c : QCmd) (i : Nat) : Nat := (c.words.getD (2 * i) 0).toNat + (c.words.getD (2 * i + 1) 0).toNat * 2 ^ 32

/-- The unlisted bytes of a launch-engine command are 0 (R141). -/
def QCmd.launchOk (c : QCmd) : Bool := c.word64 0 < 256 && (List.range 4).all fun i => c.word64 (4 + i) == 0

/-- LAUNCH R142: the command at the head of queue 0x140; one that is neither LAUNCH nor CANCEL is malformed. -/
def execLaunch (s : State) : Host.Outcome State Fault Refusal :=
  match s.takeCommand 0x140 with
  | (s, none) => .next s
  | (s, some c) =>
    if c.word64 0 % 256 = 1 then
      .next (s.acceptLaunch (c.launchOk && c.word64 1 < 2 ^ 57) (c.word64 1) c.pasid (BitVec.ofNat 64 (c.word64 2))
        (BitVec.ofNat 64 (c.word64 3)) none).1
    else .next (s.rejectCommand c.pasid 1).decideSwaps

/-- A thread has an operation in flight that issued in the safe slot (R143, R225): a doorbell that waits for room in the proxy, or a call
that has claimed its ticket and is still to publish its entry (R128). That these are the operations in flight is DEDUCED
(notes/assumptions/66.md). -/
def Thread.safeInFlight (t : Thread) : Bool :=
  match t.block with
  | some (.doorbell _ _ _ _) => true
  | some (.sysc y) => (match y.phase with | .claimed _ _ => true | _ => false)
  | _ => false

/-- Operations of a launch are in flight that a cancellation lets complete: those, and atomic operations that are not answered. -/
def State.safeInFlight (s : State) (n : Nat) : Bool :=
  s.waves.any fun e =>
    e.2.live && e.2.launch == n &&
      (e.2.threads.any (fun t => Thread.safeInFlight t.2) ||
        s.outstanding.any fun o => o.who == .thread && o.waveKey == e.1 && (match o.access.kind with | .atom _ => true | _ => false))

/-- CANCEL R143: no thread of a selected launch issues again, and the launch faults, once its operations in flight are complete. -/
def execCancel (s : State) : Host.Outcome State Fault Refusal :=
  match s.takeCommand 0x140 with
  | (s, none) => .next s
  | (s, some c) =>
    if !(c.launchOk && c.word64 0 = 2 && c.word64 1 = 0 && c.word64 3 = 0) then .next (s.rejectCommand c.pasid 1).decideSwaps
    else
      let hit := s.launches.filter fun e =>
        !e.2.ended && e.2.task.isNone && e.2.record.pasid == c.pasid && e.2.tag.toNat == c.word64 2
      .next (hit.foldl (fun s e =>
        if s.safeInFlight e.1 then s.modLaunch e.1 fun l => { l with cancelled := true } else s.launchFail e.1 0x0B 0 0) s).decideSwaps

/-! ### After-events (R151) -/

/-- What a condition finds: whether it holds; none where the word cannot be read. -/
def State.eventHolds (s : State) (r : LaunchRec) (va value : DWord) : State × Option Bool :=
  if va = 0 then (s, some true)
  else
    match s.vaRead r.pasid va.toNat 8 with
    | (s, some bs) => (s, some (decide (value.toNat ≤ leNat bs)))
    | (s, none) => (s, none)

/-- AFTER_EVENT_SATISFIED R151: the words are read, at acceptance, after a wake of their lines and every 50 µs (R120); a condition that
holds is not checked again; with none left the launch is READY; a word that cannot be read faults it. -/
def execAfterEventSatisfied (launch : Nat) (s : State) : Host.Outcome State Fault Refusal :=
  let l := s.launchAt launch
  let r := l.record
  if l.state ≠ .waitEv || l.ended then .next s
  else
    match s.eventHolds r r.aev0 r.aval0 with
    | (s, none) => .next (s.launchFail launch 7 0 0)
    | (s, some b0) =>
      match s.eventHolds r r.aev1 r.aval1 with
      | (s, none) => .next (s.launchFail launch 7 0 0)
      | (s, some b1) =>
        let left := { r with aev0 := if b0 then 0 else r.aev0, aev1 := if b1 then 0 else r.aev1 }
        let lines := [left.aev0, left.aev1].filterMap (s.eventLine r.pasid)
        .next (s.modLaunch launch fun l =>
          { l with
            record := left, lines := l.lines.filter lines.contains
            state := if b0 && b1 then .ready else .waitEv
            ready := s.cycle })

/-- A launch in WAIT_EV has a word on whose line it found no place: it reads again every 1 µs (R121). -/
def State.eventSpilled (s : State) (n : Nat) : Bool :=
  let l := s.launchAt n
  l.state == .waitEv && !l.ended && ([l.record.aev0, l.record.aev1].filterMap (s.eventLine l.record.pasid)).any fun x => !l.lines.contains x

/-! ### The Thyme table (R162 to R166) -/

/-- A well-formed Thyme command. -/
def QCmd.thymeOk (c : QCmd) : Bool :=
  (c.word64 0 % 256 == 1 || c.word64 0 % 256 == 2) && c.word64 0 < 2 ^ 14 && c.word64 3 < 2 ^ 57 && c.word64 4 < 2 ^ 34 &&
    field (c.word64 4) 33 32 != 3 && c.word64 6 == 0 && c.word64 7 == 0

/-- The first slot of an entry that is written at `now` (R163). -/
def firstSlot (start period now : Nat) : Nat :=
  if now ≤ start || period = 0 then start else start + (now - start + period - 1) / period * period

/-- A slot time that %gtime, a count of 64 bits, never reaches (R163, R164). -/
def pastTime (t : Nat) : Bool := 2 ^ 64 ≤ t

/-- The entry's next slot is at `t`; a slot past the last time of %gtime never comes, and NEXT is a free value as when no slot is left
(notes/assumptions/66.md). -/
def State.thymeNext (s : State) (i t : Nat) : State :=
  if pastTime t then
    { s.modThyme i (fun e => { e with spent := true, next := Config.freeWord s.fresh }) with fresh := s.fresh + 1 }
  else s.modThyme i fun e => { e with next := BitVec.ofNat 64 t }

/-- THYME_WRITE R163: the command at the head of queue 0x141; a malformed one is discarded with a record. The new entry counts RUNS and
MISS from 0 (notes/assumptions/66.md). -/
def execThymeWrite (s : State) : Host.Outcome State Fault Refusal :=
  match s.takeCommand 0x141 with
  | (s, none) => .next s
  | (s, some c) =>
    if !c.thymeOk || c.word64 0 % 256 ≠ 1 then .next (s.rejectCommand c.pasid 1)
    else
      let d := fun (n : Nat) => BitVec.ofNat 64 n
      let i := field (c.word64 0) 13 8
      .next ((s.modThyme i fun _ =>
        { Thyme.blank with
          start := d (c.word64 1), period := d (c.word64 2), recva := BitVec.ofNat 57 (c.word64 3)
          maxlate := BitVec.ofNat 32 (c.word64 4), rule := BitVec.ofNat 2 (field (c.word64 4) 33 32), valid := true
          tag := d (c.word64 5), pasid := c.pasid }).thymeNext i (firstSlot (c.word64 1) (c.word64 2) s.gtime.toNat))

/-- THYME_CLEAR R163. A slot that the entry holds is still submitted when its previous instance ends in time (R166,
notes/assumptions/66.md). -/
def execThymeClear (s : State) : Host.Outcome State Fault Refusal :=
  match s.takeCommand 0x141 with
  | (s, none) => .next s
  | (s, some c) =>
    if !c.thymeOk || c.word64 0 % 256 ≠ 2 then .next (s.rejectCommand c.pasid 1)
    else .next (s.modThyme (field (c.word64 0) 13 8) fun e => { e with valid := false })

/-- A saturating count of 32 bits. -/
def satAdd (a : BitVec 32) (n : Nat) : BitVec 32 := BitVec.ofNat 32 (min (2 ^ 32 - 1) (a.toNat + n))

def State.thymeMiss (s : State) (i n : Nat) : State := s.modThyme i fun e => { e with miss := satAdd e.miss n }

/-- An instance is submitted for a slot time (R164); it may place its first crew until MAXLATE after it (R165). -/
def State.thymeSubmit (s : State) (i : Nat) (slot : DWord) : State :=
  let e := s.thymeAt i
  let a := s.acceptLaunch true e.recva.toNat e.pasid e.tag 0 (some i)
  let late := min (2 ^ 64 - 1) (slot.toNat + e.maxlate.toNat)
  let s := match a.2 with
    | some n => a.1.modLaunch n fun l => { l with late := some (BitVec.ofNat 64 late) }
    | none => a.1
  s.modThyme i fun e =>
    { e with instLaunch := a.2, state := if a.2.isSome then 1 else 0, slotTime := slot, runs := satAdd e.runs 1, held := none }

/-- A slot of an entry is due: its time has come and it has not been taken. -/
def Thyme.due (e : Thyme) (gtime : DWord) : Bool := e.valid && !e.spent && e.next.toNat ≤ gtime.toNat

/-- The latest due slot is taken out of the schedule; earlier ones count in MISS (R164). NEXT is a free value once no slot is
left. Answers the slot time. -/
def State.thymeTake (s : State) (i : Nat) : State × DWord :=
  let e := s.thymeAt i
  if e.period = 0 then
    (s.thymeNext i (2 ^ 64), e.next)
  else
    let late := (s.gtime.toNat - e.next.toNat) / e.period.toNat
    let t := e.next.toNat + late * e.period.toNat
    ((s.thymeMiss i late).thymeNext i (t + e.period.toNat), BitVec.ofNat 64 t)

/-- A held slot may still be submitted (R166). -/
def Thyme.heldInTime (e : Thyme) (gtime : DWord) : Bool := e.held.any fun t => gtime.toNat ≤ t.toNat + e.maxlate.toNat

/-- A held slot that is past its lateness is dropped (R166). -/
def State.dropLateHeld (s : State) (i : Nat) : State :=
  let e := s.thymeAt i
  if e.state = 2 && e.held.isSome && !e.heldInTime s.gtime then
    (s.thymeMiss i 1).modThyme i fun e => { e with held := none, state := if e.instLaunch.isSome then 1 else 0 }
  else s

/-- THYME_SLOT_DUE R164, R166: a held slot that is too late is dropped, and one whose previous instance has ended is submitted; else a slot
that is due is treated by the entry's RULE. -/
def execThymeSlotDue (entry : Fin 64) (s : State) : Host.Outcome State Fault Refusal :=
  let i := entry.val
  let s := s.dropLateHeld i
  let e := s.thymeAt i
  if e.state = 2 && e.instLaunch.isNone && e.heldInTime s.gtime then .next (s.thymeSubmit i (e.held.getD 0))
  else if !e.due s.gtime then .next s
  else
    let (s, t) := s.thymeTake i
    match e.instLaunch with
    | none => .next (s.thymeSubmit i t)
    | some n =>
      if e.rule = 0 then .next (s.thymeMiss i 1)
      else if e.rule = 1 then
        if e.state = 2 then .next (s.thymeMiss i 1)
        else .next (s.modThyme i fun e => { e with state := 2, held := some t })
      else .next ((s.launchFail n 0x0C 0 0).thymeSubmit i t)

/-- An instance of an entry, or of one that it replaced, that has placed no crew by its slot time plus MAXLATE (R165). -/
def State.thymeLate (s : State) (i : Nat) : Option Nat :=
  (s.launches.find? fun e =>
    let l := (e.2 : Launch)
    l.thyme == some i && !l.ended && l.nextCrew == 0 && l.late.any fun t => t.toNat < s.gtime.toNat).map (·.1)

/-- THYME_WITHDRAW R165: DONEW keeps its value and no record is written. MISS counts where the instance is still the entry's own: for one
of a replaced entry the manual names no count (notes/assumptions/66.md). -/
def execThymeWithdraw (entry : Fin 64) (s : State) : Host.Outcome State Fault Refusal :=
  let i := entry.val
  match s.thymeLate i with
  | some n =>
    let own := (s.thymeAt i).instLaunch = some n
    let t := s.modLaunch n fun l => { l with state := .done, ended := true }
    .next ((if own then t.thymeMiss i 1 else t).thymeEnded n)
  | none => .next s

/-- THYME_HELD_EXPIRE R166. -/
def execThymeHeldExpire (entry : Fin 64) (s : State) : Host.Outcome State Fault Refusal := .next (s.dropLateHeld entry)

end Sys2Proof.Machine
end

