-- ==== Sys2Proof/Machine/Partition.lean ====
section
/-!
DEFINITION. Partitions: enabling and disabling (R134 to R136) and swaps (R156 to R159).
-/

namespace Sys2Proof.Machine

/-! ### PART_CFG word 1 (R134, R135) -/

/-- The fields beside EN and PASID that a write of word 1 sets: AGE within its limits, PMAXM1, QUANTUM; a 1 clears ERR. -/
def State.partFields (s : State) (p d : Nat) : State :=
  let o := Off.part p + 8
  let s := if field d 21 21 = 1 then s.hubSetField o 21 21 0 else s
  let s := if 16 ≤ field d 35 24 then s.hubSetField o 35 24 (field d 35 24) else s
  (s.hubSetField o 51 36 (field d 51 36)).hubSetField o 59 52 (field d 59 52)

/-- Two sets of clusters are equal or disjoint. -/
def clustersAgree (a b : Nat) : Bool := a == b || a &&& b == 0

/-- The conditions of R135 on enabling a partition. -/
def State.enableOk (s : State) (p : Nat) : Bool :=
  let cl := s.partClusters p
  cl != 0 && cl &&& s.hubGet Off.clusterAvail == cl && (s.spaceOf (s.hubField (Off.part p + 8) 19 0)).isSome &&
    (List.range 16).all fun q => q == p || !s.partEn q || clustersAgree cl (s.partClusters q)

/-- The resident member of a swap set. -/
def State.residentOf (s : State) (p : Nat) : Option Nat := (s.swapSet p).find? s.resident

/-- A swap of the partitions with these clusters is under way: the one that comes in stands for the resident member (R136, R159). -/
def State.setSwaps (s : State) (p : Nat) : Bool :=
  s.swaps.any fun v => s.partClusters v.fromPart == s.partClusters p || s.partClusters v.toPart == s.partClusters p

/-- A partition becomes resident, or ceases to be, now. -/
def State.setResident (s : State) (p : Nat) (b : Bool) : State :=
  { s with residents := SMap.set s.residents p b false, residentSince := SMap.set s.residentSince p s.gtime 0 }

/-- PARTITION_ENABLE R135: a machine-mode write of word 1 with EN = 1. -/
def execPartitionEnable (machineMode : Bool) (part : Fin 16) (data : DWord) (s : State) : Host.Outcome State Fault Refusal :=
  let p := part.val
  let o := Off.part p + 8
  if !machineMode then .next s
  else
    let s := s.partFields p data.toNat
    if s.partEn p then .next s
    else
      let s := s.hubSetField o 19 0 (field data.toNat 19 0)
      if s.enableOk p then
        let s := s.hubSetField o 20 20 1
        .next (s.setResident p ((s.residentOf p).isNone && !s.setSwaps p))
      else .next (s.hubSetField o 21 21 1)

/-- The partition has an accepted, waiting or running launch. A task wave is no launch. -/
def State.partBusy (s : State) (p : Nat) : Bool :=
  s.launches.any fun e => e.2.record.part == p && !e.2.ended && e.2.task.isNone

/-- PARTITION_DISABLE R135: a machine-mode write of word 1 with EN = 0. -/
def execPartitionDisable (machineMode : Bool) (part : Fin 16) (data : DWord) (s : State) : Host.Outcome State Fault Refusal :=
  let p := part.val
  let o := Off.part p + 8
  if !machineMode then .next s
  else
    let s := s.partFields p data.toNat
    if !s.partEn p then .next (s.hubSetField o 19 0 (field data.toNat 19 0))
    else if s.partBusy p then .next (s.hubSetField o 21 21 1)
    else .next ((s.hubSetField o 20 20 0).setResident p false)

/-! ### Swaps (R157 to R159) -/

/-- The PRIOs of the launches of a partition in some states; task waves are none. -/
def State.prios (s : State) (p : Nat) (states : List LState) : List Nat :=
  (s.launches.filter fun e => e.2.record.part == p && !e.2.ended && e.2.task.isNone && states.contains e.2.state).map fun e => e.2.record.prio

/-- The highest of some PRIOs, plus 1; 0 for none. -/
def topPrio (ps : List Nat) : Nat := ps.foldl (fun n p => max n (p + 1)) 0

/-- Member `b` may take the place of the resident member `a` (R158). -/
def State.swapWanted (s : State) (a b : Nat) : Bool :=
  let ready := topPrio (s.prios b [.ready])
  let mine := topPrio (s.prios a [.ready, .active])
  let quantum := s.hubField (Off.part a + 8) 59 52
  let elapsed := quantum * 100000 ≤ s.gtime.toNat - (SMap.get s.residentSince a 0).toNat
  ready ≠ 0 && (mine = 0 || mine < ready || (quantum ≠ 0 && elapsed && mine ≤ ready))

/-- Among candidates: the highest ready PRIO, then the one swapped out longest. -/
def State.swapBetter (s : State) (b c : Nat) : Bool :=
  let x := topPrio (s.prios b [.ready])
  let y := topPrio (s.prios c [.ready])
  y < x || (x == y && (SMap.get s.residentSince b 0).toNat < (SMap.get s.residentSince c 0).toNat)

/-- Every vault of the swap set has a free context slot (R157). -/
def State.slotsForSwap (s : State) (p : Nat) : Bool :=
  (List.range 64).all fun v =>
    !(s.partClusters p).testBit v ||
      s.slotsSwapped v + (s.logSlots v (nextKey s.crews)).length < s.contextSlots

/-- The member that is swapped in next, if any. Where the set has no resident member, any member with a READY launch is one. -/
def State.swapChoice (s : State) (p : Nat) : Option Nat :=
  let others := (s.swapSet p).filter fun b => !s.resident b && topPrio (s.prios b [.ready]) ≠ 0
  let wanted := match s.residentOf p with
    | some a => others.filter (s.swapWanted a)
    | none => others
  wanted.foldl (fun best b =>
    match best with
    | none => some b
    | some c => if s.swapBetter b c then some b else best) none

/-- SWAP_DECISION R158. Where the set has no resident member, the member that comes in stands for both. -/
def execSwapDecision (part : Fin 16) (s : State) : Host.Outcome State Fault Refusal :=
  let p := part.val
  match s.swapChoice p with
  | none => .next s
  | some b =>
    let a := (s.residentOf p).getD b
    if !(s.swapSet p).any s.swapping && s.slotsForSwap p then .next (s.due (.partitionSwap (Fin.ofNat 16 a) (Fin.ofNat 16 b)))
    else .next s

/-- PARTITION_SWAP R159: the cluster set halts. Swaps of disjoint sets of clusters go on beside one another. -/
def execPartitionSwap (fromPart toPart : Fin 16) (s : State) : Host.Outcome State Fault Refusal :=
  if (s.swapSet toPart).any s.swapping || !s.partEn toPart || s.resident toPart ||
      s.partClusters fromPart ≠ s.partClusters toPart then .next s
  else .next { s with swaps := s.swaps ++ [{ fromPart := fromPart, toPart := toPart, saved := false }] }

/-- The crews of a partition that stand in their slots, and those that a swap took out of them. -/
def State.partCrews (s : State) (p : Nat) (resident : Bool) : List Nat :=
  (s.crews.filter fun e =>
    e.2.live && e.2.resident == resident && e.2.slots != [] && (s.launchAt (Crew.launch e.2)).record.part == p).map (·.1)

/-- Every crew of the partition that leaves has stopped, with nothing in flight. -/
def State.halted (s : State) (p : Nat) : Bool := (s.partCrews p true).all s.savable

/-- A crew of the partition that comes back stands in its slots again; one whose core has left service waits for a placement. -/
def State.restoreCrew (s : State) (c : Nat) : State :=
  let x := s.crew c
  if s.coreInService x.core then
    let s := (s.seatWaves x.core x.slots fun i => (SMap.get x.saved i .blank).resumed s.cycle).setCrew c
      { x with resident := true, saved := [] }
    s.goOn (x.slots.map (waveKey x.core))
  else s.setCrew c { x with slots := [] }

/-- PARTITION_SWAP_DONE R159: first the crews of one partition are saved, and its STATE becomes 2; then those of the other are restored,
and its STATE becomes 1, unless it was disabled meanwhile. -/
def execPartitionSwapDone (fromPart toPart : Fin 16) (s : State) : Host.Outcome State Fault Refusal :=
  let a := fromPart.val
  let b := toPart.val
  let w : Swap := { fromPart := a, toPart := b, saved := false }
  let done : Swap := { fromPart := a, toPart := b, saved := true }
  if s.swaps.contains w then
    if s.halted a then
      let s := (s.partCrews a true).foldl (fun s c => s.saveCrew c true) s
      .next { s.setResident a false with swaps := s.swaps.map fun v => if v == w then done else v }
    else .next s
  else if s.swaps.contains done then
    let s := (s.partCrews b false).foldl (fun s c => s.restoreCrew c) (s.setResident b (s.partEn b))
    .next { s with swaps := s.swaps.filter (· ≠ done) }
  else .next s

end Sys2Proof.Machine
end

