-- ==== Sys2Proof/Machine/Tasks.lean ====
section
/-!
DEFINITION. The task engine (06_task_engine.md, R168 to R184; R462).
-/

namespace Sys2Proof.Machine

/-! ### TQ_CFG word 1 (R168 to R171) -/

/-- WEIGHT, and ERR by a 1. -/
def State.tqFields (s : State) (q d : Nat) : State :=
  let o := Off.tq q + 8
  (if field d 21 21 = 1 then s.hubSetField o 21 21 0 else s).hubSetField o 25 22 (field d 25 22)

/-- A record that may bind a queue of space `pasid` (R169, R170). -/
def State.bindOk (s : State) (v pasid : Nat) : Bool :=
  let r := recordOf v
  recordOk v && r.creww == 1 && r.ncrew == 1 && r.gtab == 0 && !r.cores && !r.rbk && r.donew == 0 && r.aev0 == 0 &&
    r.aev1 == 0 && r.pasid.toNat == pasid && s.hubField (Off.part r.part + 8) 19 0 == pasid && s.partEn r.part &&
    r.perCore != 0

/-- TQ_ENABLE R170: a machine-mode write of word 1 with EN = 1; the binding record is read. -/
def execTqEnable (machineMode : Bool) (queue : Fin 64) (data : DWord) (s : State) : Host.Outcome State Fault Refusal :=
  let q := queue.val
  let o := Off.tq q + 8
  if !machineMode then .next s
  else
    let s := s.tqFields q data.toNat
    let s := if s.hubField o 20 20 = 1 then s else s.hubSetField o 19 0 (field data.toNat 19 0)
    let pasid := s.hubField o 19 0
    let va := s.hubGet (Off.tq q)
    match (if va % 1024 = 0 then s.vaRead (BitVec.ofNat 20 pasid) va 1024 else (s, none)) with
    | (s, some bs) =>
      if s.bindOk (leNat bs) pasid then
        .next ((s.hubSetField o 20 20 1).modTq q fun x => { x with binding := some (recordOf (leNat bs)) })
      else .next (s.hubSetField o 21 21 1)
    | (s, none) => .next (s.hubSetField o 21 21 1)

/-- A task of a descriptor that is only named: its body is read for its status word. -/
def State.readTask (s : State) (pasid : BitVec 20) (va : SlotAddr) : State × Option Task :=
  match s.vaRead pasid va.toNat 64 with
  | (s, some bs) => (s, some ⟨va, BitVec.ofNat 512 (leNat bs)⟩)
  | (s, none) => (s, none)

/-- A task that is only named fails (R183). -/
def State.failNamed (s : State) (q : Nat) (pasid : BitVec 20) (va : SlotAddr) (sub : Nat) : State :=
  match s.readTask pasid va with
  | (s, some t) => s.taskFail q pasid t sub 0
  | (s, none) => s.taskFail q pasid ⟨va, 0⟩ sub 0

/-- A well-formed task-post command (R462). -/
def QCmd.postOk (c : QCmd) : Bool :=
  c.word64 0 == 1 && c.word64 1 % 64 == 0 && c.word64 1 < 2 ^ 57 && (List.range 6).all fun i => c.word64 (2 + i) == 0

/-- A command that names a task: a well-formed one, or a released task, which fails as one where its descriptor is not well formed (R174,
R183). -/
def QCmd.names (c : QCmd) : Bool := c.released || c.postOk

/-- A task-post command at the head of its queue is discarded (R462). -/
def State.discardPost (s : State) (q : Nat) (c : QCmd) : State :=
  (s.hubCount (Off.tq q + 0x18) 63 32 1).failureRecord (mkRecord 0x41 1 (some c.pasid) (c.word64 1 % 2 ^ 57) 0)

/-- TQ_DISABLE R171: a machine-mode write of word 1 with EN = 0; what is queued or gathering fails. -/
def execTqDisable (machineMode : Bool) (queue : Fin 64) (data : DWord) (s : State) : Host.Outcome State Fault Refusal :=
  let q := queue.val
  let o := Off.tq q + 8
  if !machineMode then .next s
  else
    let s := s.tqFields q data.toNat
    if s.hubField o 20 20 = 0 then .next (s.hubSetField o 19 0 (field data.toNat 19 0))
    else
      let pasid := BitVec.ofNat 20 (s.hubField o 19 0)
      let x := s.tqAt q
      let cmds := s.queueAt (0x100 + q)
      let s := ((s.hubSetField o 20 20 0).setQueue (0x100 + q) []).modTq q fun x =>
        { x with queued := [], head := none, gathers := [], released := [] }
      let s := (x.gathers.flatMap (·.tasks) ++ x.head.toList).foldl (fun s t => s.taskFail q pasid t 0x0A 0) s
      let s := (x.queued.drop x.head.toList.length).foldl (fun s va => s.failNamed q pasid va 0x0A) s
      let s := cmds.foldl (fun s c =>
        if c.names then s.failNamed q pasid (BitVec.ofNat 57 (c.word64 1)) 0x0A else s.discardPost q c) s
      .next (x.released.foldl (fun s va => s.failNamed q pasid va 0x0A) s)

/-! ### Posting and gathering (R173 to R179) -/

/-- TASK_POST R462: a command at the head of its queue names a task. -/
def execTaskPost (queue : Fin 64) (s : State) : Host.Outcome State Fault Refusal :=
  let q := queue.val
  match s.takeCommand (0x100 + q) with
  | (s, none) => .next s
  | (s, some c) =>
    if c.names then .next (s.modTq q fun x => { x with queued := x.queued ++ [BitVec.ofNat 57 (c.word64 1)] })
    else .next (s.discardPost q c)

/-- A successor word (R172). -/
def successorOk (w : Nat) : Bool :=
  if w.testBit 63 then
    !w.testBit 62 && (if w.testBit 57 then field w 56 0 % 8 == 0 else field w 56 0 % 64 == 0 && field w 61 58 == 0)
  else w == 0

/-- A well-formed descriptor (R172). -/
def Task.ok (t : Task) : Bool :=
  t.va.toNat % 64 == 0 && t.word 0 != 0 && t.word 0 < 2 ^ 57 && t.word 1 < 2 ^ 57 &&
    t.word 2 < 2 ^ 59 && field (t.word 2) 58 50 ≤ 256 && t.word 3 < 2 ^ 59 && field (t.word 3) 58 50 ≤ 256 &&
    successorOk (t.word 4) && successorOk (t.word 5) && field (t.word 6) 31 23 == 0 &&
    t.word 7 < 2 ^ 57 && t.word 7 % 8 == 0

/-- Lines of the tiles of a task. -/
def Task.lines (t : Task) : Nat := field (t.word 2) 58 50 + field (t.word 3) 58 50

/-- Tasks that a gather holds at most (R179). -/
def LaunchRec.gatherLimit (r : LaunchRec) : Nat := if r.prot then 16 else 32

/-- A gather closes: its wave is formed, as a launch of its own that waits for a placement (R178, R184). -/
def State.formWave (s : State) (q : Nat) (r : LaunchRec) (g : Gather) : State :=
  let n := nextKey s.launches
  (s.setLaunch n { Launch.blank with
    record := { r with entry := g.entry }, argp := r.argp, state := .ready, accepted := n, ready := s.cycle, task := some q
    ended := false }).modTq q fun x => { x with formed := x.formed ++ [(n, g)] }

/-- The open gathers of a queue are replaced; one that is full closes. -/
def State.setGathers (s : State) (q : Nat) (r : LaunchRec) (gs : List Gather) : State :=
  let s := s.modTq q fun x => { x with gathers := gs.filter fun g => g.tasks.length < r.gatherLimit }
  (gs.filter fun g => r.gatherLimit ≤ g.tasks.length).foldl (fun s g => s.formWave q r g) s

/-- The head task joins or opens a gather (R179). Answers whether it could. -/
def State.gatherTask (s : State) (q : Nat) (r : LaunchRec) (t : Task) : State × Bool :=
  let gs := (s.tqAt q).gathers
  let entry := BitVec.ofNat 57 (t.word 0)
  let fresh : Gather := { entry := entry, tasks := [t], lines := t.lines, since := s.gtime }
  match gs.find? (fun g => g.entry == entry) with
  | some g =>
    if g.lines + t.lines ≤ r.spw * 32 then
      (s.setGathers q r (gs.map fun h =>
        if h.entry == entry then { h with tasks := h.tasks ++ [t], lines := h.lines + t.lines } else h), true)
    else ((s.formWave q r g).setGathers q r ((gs.filter fun h => h.entry != entry) ++ [fresh]), true)
  | none => if gs.length < 4 then (s.setGathers q r (gs ++ [fresh]), true) else (s, false)

/-- Why the head task fails as it is read (R175, R179); 0 where it may gather. -/
def Task.refusal (t : Task) (r : LaunchRec) : Nat :=
  if !t.ok then 1 else if field (t.word 6) 15 0 ≠ 0 then 2 else if r.spw * 32 < t.lines then 5 else 0

/-- TASK_DEQUEUE R178: the head task is read, once (R174), and checked (R175, R179); it gathers, or waits with its queue for a gather to
close. -/
def execTaskDequeue (queue : Fin 64) (s : State) : Host.Outcome State Fault Refusal :=
  let q := queue.val
  let x := s.tqAt q
  let pasid := BitVec.ofNat 20 (s.hubField (Off.tq q + 8) 19 0)
  match x.queued, x.binding with
  | va :: rest, some r =>
    let leave := fun (s : State) => s.modTq q fun x => { x with queued := rest, head := none }
    (match (match x.head with | some t => (s, some t) | none => s.readTask pasid va) with
     | (s, none) => .next ((leave s).taskFail q pasid ⟨va, 0⟩ 1 0)
     | (s, some t) =>
       if t.refusal r ≠ 0 then .next ((leave s).taskFail q pasid t (t.refusal r) 0)
       else
         match s.gatherTask q r t with
         | (s, true) => .next (leave s)
         | (s, false) => .next (s.modTq q fun x => { x with head := some t }))
  | _, _ => .next s

/-- A queue has a head to read, or its head can gather now: not while four gathers of other entries are open. -/
def State.dequeueDue (s : State) (q : Nat) : Bool :=
  let x := s.tqAt q
  !x.queued.isEmpty && x.binding.isSome &&
    (match x.head with
     | none => true
     | some t => x.gathers.length < 4 || x.gathers.any fun g => g.entry.toNat == t.word 0)

/-- A gather that has been open for 2 µs. -/
def Gather.late (g : Gather) (gtime : DWord) : Bool := g.since.toNat + 2000 ≤ gtime.toNat

/-- GATHER_TIMEOUT R179. -/
def execGatherTimeout (queue : Fin 64) (s : State) : Host.Outcome State Fault Refusal :=
  let q := queue.val
  let x := s.tqAt q
  match x.gathers.find? (fun g => g.late s.gtime), x.binding with
  | some g, some r =>
    let s := (s.modTq q fun x => { x with gathers := x.gathers.filter (· ≠ g) }).formWave q r g
    .next (s.hubCount (Off.tq q + 0x20) 31 0 1)
  | _, _ => .next s

/-! ### Placing and starting (R181, R182, R184) -/

/-- The rounds of R184 after a placement of queue `q` in partition `p`: a new round begins for the queues of that partition. -/
def State.countRound (s : State) (q p : Nat) : State :=
  let s := if s.roundKey q < 64 then s
    else ((List.range 64).filter fun i => (s.tqAt i).binding.any fun r => r.part == p).foldl
      (fun s i => s.modTq i fun x => { x with round := 0 }) s
  s.modTq q fun x => { x with round := x.round + 1 }

/-- The formed wave of a queue whose turn it is in its partition (R184). -/
def State.formedNext (s : State) (q : Nat) : Option (Nat × Gather) :=
  (s.tqAt q).formed.find? fun e => s.placeChoice (s.launchAt e.1).record.part == .place e.1

/-- TASK_WAVE_PLACE R181: the formed wave of a queue whose turn it is is placed; its tasks take lanes in the order they joined. -/
def execTaskWavePlace (queue : Fin 64) (s : State) : Host.Outcome State Fault Refusal :=
  let q := queue.val
  match s.formedNext q with
  | none => .next s
  | some (n, g) =>
    let c := nextKey s.crews
    let tasks := ((List.range g.tasks.length).zip g.tasks).map fun (i, t) => (⟨t, i, false⟩ : TaskLane)
    let s := (s.placeStep n).getD s
    .next (((s.modCrew c fun x => { x with tasks := tasks }).modTq q fun x =>
      { x with formed := x.formed.filter fun e => e.1 != n }).countRound q (s.launchAt n).record.part)

/-- A tile: its VA, its bytes, and its offset in the window. -/
structure Tile where
  va : Nat
  size : Nat
  offset : Nat
deriving DecidableEq, Repr

/-- Tile `i` of a task. -/
def Task.tile (t : Task) (i offset : Nat) : Tile :=
  { va := field (t.word (2 + i)) 49 0 * 128, size := field (t.word (2 + i)) 58 50 * 128, offset := offset }

/-- The two tiles of each task, in lane order from offset 0. -/
def tilesOf (tasks : List Task) (offset : Nat) : List (Tile × Tile) :=
  match tasks with
  | [] => []
  | t :: rest =>
    let a := t.tile 0 offset
    let b := t.tile 1 (offset + a.size)
    (a, b) :: tilesOf rest (offset + a.size + b.size)

/-- Bytes with their poison, as an engine that is no reader of poison takes them (R249), over the paths of State.paRead; none where a page
fails. -/
def State.vaCarry (s : State) (pasid : BitVec 20) (va n : Nat) : State × Option (List (Byte × Bool)) :=
  (pagePieces va n).foldl
    (fun (acc : State × Option (List (Byte × Bool))) p =>
      match acc with
      | (s, none) => (s, none)
      | (s, some bs) =>
        match s.translate pasid p.1 .read with
        | (s, .ok pa _) =>
          match s.localPa pa p.2 0 with
          | some a => (s, some (bs ++ (List.range p.2).map fun i => (s.byte (a + i), s.isPoisoned ((a + i) / 32))))
          | none => let r := s.paRead pa p.2; (r.1, r.2.map fun new => bs ++ new.map (·, false))
        | (s, _) => (s, none))
    (s, some [])

/-- Bytes with poison go into the window of a crew, page by page (R246, R261). -/
def State.spCarry (s : State) (c o : Nat) (bs : List (Byte × Bool)) : State :=
  let s := (pagePieces o bs.length).foldl
    (fun (s : State) p => s.spAgentStore c p.1 (((bs.drop (p.1 - o)).take p.2).map (·.1))) s
  (sectorsOf o bs.length).foldl (fun s k =>
    if ((List.range bs.length).zip bs).any (fun e => (o + e.1) / 32 == k && e.2.2) then s.spSetPoison c k true else s) s

/-- The tiles of one task are copied; none where one cannot be read. -/
def State.loadTiles (s : State) (c : Nat) (pasid : BitVec 20) (ts : Tile × Tile) : State × Bool :=
  match s.vaCarry pasid ts.1.va ts.1.size with
  | (s, none) => (s, false)
  | (s, some a) =>
    match s.vaCarry pasid ts.2.va ts.2.size with
    | (s, none) => (s, false)
    | (s, some b) => ((s.spCarry c ts.1.offset a).spCarry c ts.2.offset b, true)

/-- A lane of a task wave as it starts (R182). -/
def Thread.startTask (t : Task) (ts : Tile × Tile) (cycle : Nat) : Thread :=
  let off := fun (x : Tile) => if x.size = 0 then (BitVec.allOnes 32 : Word) else BitVec.ofNat 32 x.offset
  let words : List Word :=
    [BitVec.ofNat 32 (t.word 1), BitVec.ofNat 32 (t.word 1 / 2 ^ 32), off ts.1, off ts.2,
      BitVec.ofNat 32 (field (t.word 6) 63 32)]
  { Thread.start (BitVec.ofNat 57 (t.word 0)) cycle with
    regs := ((List.range 5).zip words).foldl (fun m e => SMap.set m e.1 (⟨e.2, false⟩ : Reg) .zero) [] }

/-- The task of a visible lane has ended. -/
def State.endTask (s : State) (c lane : Nat) : State :=
  s.modCrew c fun x => { x with tasks := x.tasks.map fun e => if e.lane == lane then { e with ended := true } else e }

/-- TASK_WAVE_START R181: the tiles of every task are copied, and the lanes start. -/
def execTaskWaveStart (crew : Nat) (s : State) : Host.Outcome State Fault Refusal :=
  let x := s.crew crew
  let l := s.launchAt x.launch
  let r := l.record
  let k := waveKey x.core (x.slots.headD 0)
  match l.task with
  | none => .next s
  | some q =>
    if !x.live || !x.resident || x.tasks.isEmpty || !(s.wave k).threads.isEmpty then .next s
    else
      let tiles := tilesOf (x.tasks.map (·.task)) 0
      let idle := (List.range 32).map fun i => (i, { Thread.start r.entry s.cycle with exited := true })
      let s := s.modWave k fun w => { w with threads := idle }
      .next ((x.tasks.zip tiles).foldl (fun (s : State) e =>
        match s.loadTiles crew r.pasid e.2 with
        | (s, true) =>
          let lanes := if r.prot then [2 * e.1.lane, 2 * e.1.lane + 1] else [e.1.lane]
          lanes.foldl (fun s i => s.setThread k i (.startTask e.1.task e.2 s.cycle)) s
        | (s, false) =>
          (s.endTask crew e.1.lane).taskFail q r.pasid e.1.task 4 (whoThread (keyCore k) (keySlot k) e.1.lane)) s)

/-! ### Retirement and release (R176, R177, R180) -/

/-- The command that names a task (R462). -/
def postWords (va : SlotAddr) : List Word :=
  [1, 0, BitVec.ofNat 32 va.toNat, BitVec.ofNat 32 (va.toNat / 2 ^ 32)] ++ List.replicate 12 0

/-- A released task arrives at a queue, behind the posts that arrived before it (R174). -/
def State.arrive (s : State) (q : Nat) (pasid : BitVec 20) (va : SlotAddr) : State :=
  s.setQueue (0x100 + q) (s.queueAt (0x100 + q) ++ [{ words := postWords va, pasid := pasid, pusher := none, batch := 0, released := true }])

/-- A released task enters its home queue, waits for room there, or fails where the queue is disabled. -/
def State.release (s : State) (q : Nat) (pasid : BitVec 20) (va : SlotAddr) : State :=
  if s.hubField (Off.tq q + 8) 20 20 = 0 then s.failNamed q pasid va 0x0A
  else if 1024 ≤ s.queueUsed (0x100 + q) || (s.tqAt q).released != [] then
    s.modTq q fun x => { x with released := x.released ++ [va] }
  else s.arrive q pasid va

/-- Tasks in the buffer of released ones. -/
def State.releasedCount (s : State) : Nat := s.tqs.foldl (fun n e => n + (TaskQueue.released e.2).length) 0

/-- A signal that finds the count word `w`; `take` makes the subtraction (R176). -/
def State.signalCount (s : State) (pasid : BitVec 20) (d : Nat) (who : DWord) (w : Nat) (take : State → State) : State :=
  if w % 2 ^ 16 = 0 then s.failureRecord (mkRecord 0x41 3 (some pasid) d who)
  else if w % 2 ^ 16 = 1 then (take s).release (field w 21 16) pasid (BitVec.ofNat 57 d)
  else take s

/-- A signal to the descriptor at `d` (R176). Answers whether it could be made. A domain peer makes the subtraction at its own home (R71), and
the count that it answers is a free value (notes/assumptions/15.md). -/
def State.signal (s : State) (pasid : BitVec 20) (d : Nat) (who : DWord) : State × Bool :=
  if d % 8 ≠ 0 then (s, false)
  else
    match s.translate pasid (d + 0x30) .both with
    | (s, .ok pa mt) =>
      (match (if mt ≤ 2 || mt = 7 then s.localPa pa 8 2 else none) with
       | none =>
         if s.isPeer pa && s.peerReachable pa then
           let w := (Config.freeWord s.fresh).toNat
           (({ s with fresh := s.fresh + 1 } : State).signalCount pasid d who w
             (fun s => s.emit (.peer pa true (leBytes (2 ^ 64 - 1) 8) false)), true)
         else (if mt ≤ 2 || mt = 7 then s.ownRefused pa 8 2 else s, false)
       | some a =>
         let w := s.readNat a 8
         (s.signalCount pasid d who w
           (fun s => (s.memWrite a (leBytes (w - 1) 8)).tagBytes a 8 (fun _ => true) [engineTag]), true))
    | (s, _) => (s, false)

/-- A signal whose target cannot be reached leaves a record (R180). -/
def State.signalOr (s : State) (pasid : BitVec 20) (d : Nat) (who : DWord) : State × Bool :=
  match s.signal pasid d who with
  | (s, true) => (s, true)
  | (s, false) => (s.failureRecord (mkRecord 0x41 9 (some pasid) d who), false)

/-- The signals of one successor word: of a list, word by word. A list that cannot be read leaves one record, with its address (R180). -/
def State.signalWord (s : State) (pasid : BitVec 20) (w : Nat) (who : DWord) : State × Bool :=
  let va := field w 56 0
  if w.testBit 57 then
    let all := (List.range (field w 61 58 + 1)).foldl (fun (acc : State × Bool × Bool) i =>
      match acc.1.vaRead pasid (va + 8 * i) 8 with
      | (s, none) => (if acc.2.2 then s.failureRecord (mkRecord 0x41 9 (some pasid) va who) else s, false, false)
      | (s, some bs) =>
        let r := s.signalOr pasid (field (leNat bs) 56 0) who
        (r.1, acc.2.1 && r.2, acc.2.2)) (s, true, true)
    (all.1, all.2.1)
  else s.signalOr pasid va who

/-- A lane whose task may retire: it has exited by EXIT, and its stores, atomic operations and copies are done. -/
def State.retireDue (s : State) (k lane : Nat) : Option (Nat × TaskLane) :=
  let w := s.wave k
  let r := s.recOf k
  let lanes := r.mirror lane
  match (s.launchOf k).task, (s.crew w.crew).taskOf (r.visible lane) with
  | some q, some t =>
    let quiet := lanes.all fun l =>
      (w.thread l).exited && !(w.thread l).killed && (w.thread l).copies.isEmpty && !w.logHolds l &&
        s.outstanding.all (fun o => !(o.waveKey == k && o.lane == l))
    if w.live && !w.threads.isEmpty && !t.ended && quiet && (!r.prot || lane % 2 == 0) then some (q, t) else none
  | _, _ => none

/-- TASK_RETIRE R180: signals, the status word, DONE; it waits while the buffer of released tasks has no room. -/
def execTaskRetire (core : Fin 256) (slot : Fin 64) (lane : Fin 32) (s : State) : Host.Outcome State Fault Refusal :=
  let k := waveKey core slot
  match s.retireDue k lane with
  | none => .next s
  | some (q, t) =>
    let r := s.recOf k
    let who := whoThread core slot (r.visible lane)
    let sig := (s.thread k lane).tsig
    let chosen := fun (j : Nat) =>
      (t.task.word (4 + j)).testBit 63 && ((t.task.word 6).testBit 22 || sig.getLsbD j)
    let out := ([0, 1].filter chosen).foldl (fun (acc : State × Bool) j =>
      let x := acc.1.signalWord r.pasid (t.task.word (4 + j)) who
      (x.1, acc.2 && x.2)) (s, true)
    if 4096 < out.1.releasedCount then .next s
    else
      let u := out.1.taskStatus r.pasid t.task (if out.2 then 1 else 2)
      .next ((u.hubCount (Off.tq q + 0x18) 31 0 1).endTask (s.wave k).crew t.lane)

/-- A queue that has room for a released task that waits. -/
def State.enqueueDue (s : State) : Option Nat :=
  (s.tqs.find? fun e => (TaskQueue.released e.2) != [] && s.queueUsed (0x100 + e.1) < 1024).map (·.1)

/-- RELEASED_TASK_ENQUEUE R177. -/
def execReleasedTaskEnqueue (s : State) : Host.Outcome State Fault Refusal :=
  match s.enqueueDue with
  | none => .next s
  | some q =>
    let x := s.tqAt q
    let t := s.modTq q fun x => { x with released := x.released.drop 1 }
    .next ((x.released.take 1).foldl (fun s va => s.arrive q (BitVec.ofNat 20 (s.hubField (Off.tq q + 8) 19 0)) va) t)

end Sys2Proof.Machine
end

