-- ==== Sys2Proof/Machine/Copy.lean ====
section
/-!
DEFINITION. The copy engines (R457 to R461), error injection (R463, R464), and the page traffic of the scratchpad that needs
no instruction (R259, R260).
-/

namespace Sys2Proof.Machine

/-! ### The command (R457, R458) -/

def QCmd.bit (c : QCmd) (n : Nat) : Bool := (c.word64 0).testBit n
def QCmd.ck (c : QCmd) : Nat := field (c.word64 0) 11 10
def QCmd.src (c : QCmd) : Nat := field (c.word64 1) 56 0
def QCmd.dst (c : QCmd) : Nat := field (c.word64 2) 56 0
def QCmd.len (c : QCmd) : Nat := field (c.word64 3) 31 0
def QCmd.seed (c : QCmd) : Word := BitVec.ofNat 32 (field (c.word64 4) 31 0)
def QCmd.expect (c : QCmd) : Word := BitVec.ofNat 32 (field (c.word64 4) 63 32)
def QCmd.gate (c : QCmd) : Nat := field (c.word64 5) 19 0
def QCmd.evva (c : QCmd) : Nat := field (c.word64 6) 56 0
def QCmd.resva (c : QCmd) : Nat := field (c.word64 7) 56 0
def QCmd.ssp (c : QCmd) : Bool := c.bit 8
def QCmd.dsp (c : QCmd) : Bool := c.bit 9
def QCmd.chain (c : QCmd) : Bool := c.bit 12
def QCmd.verify (c : QCmd) : Bool := c.bit 13
def QCmd.cmp (c : QCmd) : Bool := c.bit 14
def QCmd.gv (c : QCmd) : Bool := c.bit 15

/-- The window of the crew that pushed a command, in bytes; 0 through the push window. -/
def State.pusherWindow (s : State) (c : QCmd) : Nat :=
  match c.pusher with
  | some p => (s.launchAt (s.crew p.crew).launch).record.window
  | none => 0

/-- A well-formed copy command (R458). -/
def State.copyOk (s : State) (c : QCmd) : Bool :=
  let w := s.pusherWindow c
  field (c.word64 0) 7 0 == 1 && c.ck ≠ 3 && field (c.word64 0) 18 16 ≤ 5 && 1 ≤ c.len && c.len ≤ 2 ^ 30 &&
    (c.ck ≠ 0 || !(c.chain || c.verify || c.cmp)) &&
    (c.ck == 0 || (c.len % 4 == 0 && c.src % 4 == 0 && c.dst % 4 == 0)) &&
    (!c.chain || c.seed == 0) && (c.pusher.isSome || !(c.ssp || c.dsp || c.gv)) &&
    (!c.ssp || c.src + c.len ≤ w) && (!c.dsp || c.dst + c.len ≤ w) &&
    (!c.gv || (c.gate % 128 == 0 && c.gate + 128 ≤ w)) && c.evva % 8 == 0 && c.resva % 16 == 0 &&
    c.word64 0 < 2 ^ 19 && c.word64 1 < 2 ^ 57 && c.word64 2 < 2 ^ 57 && c.word64 3 < 2 ^ 32 && c.word64 5 < 2 ^ 20 &&
    c.word64 6 < 2 ^ 57 && c.word64 7 < 2 ^ 57

/-! ### Check values (R459) -/

/-- One byte into a reflected CRC-32C register. -/
def crcByte (r : Word) (b : Byte) : Word :=
  (List.range 8).foldl (fun r _ => if r.getLsbD 0 then (r >>> 1) ^^^ 0x82F63B78#32 else r >>> 1) (r ^^^ b.setWidth 32)

/-- CRC-32C continued from the value `v` of the bytes before. -/
def crc32c (v : Word) (bs : List Byte) : Word := ~~~ (bs.foldl crcByte (~~~ v))

/-- SUM32 continued from `v`: an end-around carry for each word. -/
def sum32 (v : Word) (bs : List Byte) : Word :=
  (List.range (bs.length / 4)).foldl (fun v i =>
    let t := v.toNat + leNat ((bs.drop (4 * i)).take 4)
    BitVec.ofNat 32 (if 2 ^ 32 ≤ t then t - 2 ^ 32 + 1 else t)) v

/-- The check value of a kind CK. -/
def checkValue (ck : Nat) (v : Word) (bs : List Byte) : Word :=
  match ck with
  | 1 => crc32c v bs
  | 2 => sum32 v bs
  | _ => 0

/-! ### The data of a copy (R460) -/

/-- Bytes, each with the poison of the sector that it comes from. -/
abbrev Carried := List (Byte × Bool)

/-- What a copy has come to: the package, what it has read or how many bytes it has written, and whether it has failed. -/
structure CopyRun where
  s : State
  answer : Option CopyAnswer
  got : Carried
  written : Nat
  failed : Bool
deriving DecidableEq, Repr

/-- A copy stops. `sub` is that of a failure at the target, which leaves a record (R132). -/
def CopyRun.fail (r : CopyRun) (sub : Option Nat) (pasid : BitVec 20) (pa : Nat) : CopyRun :=
  { r with
    failed := true
    s := match sub with
      | some n => r.s.faultRecord (mkRecord 1 n (some pasid) pa 0)
      | none => r.s }

/-- `n` bytes of memory with their poison. -/
def State.carried (s : State) (a n : Nat) : Carried :=
  (List.range n).map fun i => (s.byte (a + i), s.isPoisoned ((a + i) / 32))

/-- `n` bytes that the outside answers; silence is a timeout. -/
def CopyRun.outside (r : CopyRun) (pasid : BitVec 20) (pa n : Nat) : CopyRun :=
  match r.answer with
  | none => r.fail (some 3) pasid pa
  | some a =>
    match a.readFails with
    | some k => r.fail (some k.val) pasid pa
    | none =>
      { r with got := r.got ++ ((a.data.take n).map fun b => (b, a.poisoned))
               answer := some { a with data := a.data.drop n } }

/-- Bytes of one page are read. -/
def CopyRun.readPage (r : CopyRun) (pasid : BitVec 20) (va n : Nat) : CopyRun :=
  if r.failed then r
  else
    match r.s.translate pasid va .read with
    | (s, .ok pa mt) =>
      let r := { r with s := s }
      if mt = 6 then r.fail none pasid pa
      else
        (match s.localPa pa n 0 with
         | some a => { r with s := s.decoded a n, got := r.got ++ s.carried a n }
         | none =>
           match s.regionAt pa with
           | .hubMmio => { r with got := r.got ++ (s.mmioBytes (pa - hubBase) n).map fun b => (b, false) }
           | .pcie =>
             (match s.pcieRoute pa with
              | none => r.fail (some 1) pasid pa
              | some (p, _) => if (s.portAt p).up then r.outside pasid pa n else r.fail (some 4) pasid pa)
           | .domain =>
             if !s.isPeer pa then
               { r with s := s.ownRefused pa n 0 }.fail (some (if s.exported (field pa 42 0) n 0 then 5 else 6)) pasid pa
             else if s.peerReachable pa then r.outside pasid pa n else r.fail (some 7) pasid pa
           | _ => r.fail (some 5) pasid pa)
    | (s, _) => ({ r with s := s }).fail none pasid va

/-- Data with its poison goes into memory: a whole sector replaces its poison, a part keeps it (R246). -/
def State.putCarried (s : State) (a : Nat) (bs : Carried) : State :=
  let s := s.agentWrite a (bs.map (·.1))
  (sectorsOf a bs.length).foldl (fun s k =>
    if ((List.range bs.length).zip bs).any (fun e => (a + e.1) / 32 == k && e.2.2) then s.setPoison k true else s) s

/-- The pieces of [a, a + n) that lie in one sector each. -/
def sectorPieces (a n : Nat) : List (Nat × Nat) :=
  (sectorsOf a n).map fun k => (max a (32 * k), min (a + n) (32 * k + 32) - max a (32 * k))

/-- Data leaves the package, a sector at a time, each with its poison (R249). -/
def State.sendCarried (s : State) (a : Nat) (bs : Carried) (send : State → Nat → List Byte → Bool → State) : State :=
  (sectorPieces a bs.length).foldl (fun s p =>
    let part := (bs.drop (p.1 - a)).take p.2
    send s p.1 (part.map (·.1)) (part.any (·.2))) s

/-- Bytes of one page are written. -/
def CopyRun.writePage (r : CopyRun) (pasid : BitVec 20) (va : Nat) (bs : Carried) : CopyRun :=
  let n := bs.length
  if r.failed then r
  else
    match r.s.translate pasid va .write with
    | (s, .ok pa mt) =>
      let r := { r with s := s }
      let done := fun (s : State) => { r with s := s, written := r.written + n }
      if mt = 4 || mt = 6 then r.fail none pasid pa
      else
        (match s.localPa pa n 1 with
         | some a => done (s.putCarried a bs)
         | none =>
           match s.regionAt pa with
           | .hubMmio =>
             done ((List.range (n / 4)).foldl (fun s i =>
               s.imsicWrite (pa - hubBase + 4 * i) 4 (leNat (((bs.drop (4 * i)).take 4).map (·.1)))) s)
           | .pcie =>
             (match s.pcieRoute pa with
              | none => r.fail (some 1) pasid pa
              | some (p, a) =>
                if (s.portAt p).up then
                  done (s.sendCarried a bs fun (s : State) b d ep => s.sendPosted p b d ep none)
                else { r with s := s.dropPosted p }.fail (some 4) pasid pa)
           | .domain =>
             if !s.isPeer pa then
               { r with s := s.ownRefused pa n 1 }.fail (some (if s.exported (field pa 42 0) n 1 then 5 else 6)) pasid pa
             else if !s.peerReachable pa then r.fail (some 7) pasid pa
             else
               let s := s.sendCarried pa bs fun (s : State) b d ep => s.emit (.peer b false d ep)
               (match r.answer with
                | none => ({ r with s := s }).fail (some 3) pasid pa
                | some a =>
                  match a.writeFails with
                  | some k => ({ r with s := s }).fail (some k.val) pasid pa
                  | none => done s)
           | _ => r.fail (some 5) pasid pa)
    | (s, _) => ({ r with s := s }).fail none pasid va

/-- Bytes of a side of a copy are read: from the window of the pusher's crew, or through the space of the command. -/
def CopyRun.read (r : CopyRun) (c : QCmd) (sp : Bool) (addr : Nat) : CopyRun :=
  let r := { r with got := [] }
  match sp, c.pusher with
  | true, some p =>
    if (r.s.crew p.crew).live then
      let s := (List.range ((addr + c.len - 1) / 4096 + 1 - addr / 4096)).foldl (fun s i => s.readReach p.crew (addr / 4096 + i)) r.s
      { r with
        s := s
        got := (List.range c.len).map fun i => (s.spByte p.crew (addr + i), s.spPoisonIn p.crew (addr + i) 1) }
    else r.fail none c.pasid addr
  | true, none => r.fail none c.pasid addr
  | false, _ => (pagePieces addr c.len).foldl (fun r p => r.readPage c.pasid p.1 p.2) r

/-- The data of a copy is written, in ascending address order. -/
def CopyRun.write (r : CopyRun) (c : QCmd) (bs : Carried) : CopyRun :=
  match c.dsp, c.pusher with
  | true, some p =>
    if (r.s.crew p.crew).live then { r with s := r.s.spCarry p.crew c.dst bs, written := bs.length }
    else r.fail none c.pasid c.dst
  | true, none => r.fail none c.pasid c.dst
  | false, _ =>
    (pagePieces c.dst bs.length).foldl (fun r p => r.writePage c.pasid p.1 ((bs.drop (p.1 - c.dst)).take p.2)) r

/-! ### The engine -/

/-- The oldest armed FLIP that a copy of `len` bytes on engine `e` uses (R463): the byte that it inverts a bit of. -/
def State.takeFlip (s : State) (e len : Nat) : State × Option Flip :=
  match s.flips.findIdx? (fun f => f.engine == e && decide (f.offset < len)) with
  | some i => ({ s with flips := s.flips.eraseIdx i }, s.flips[i]?)
  | none => (s, none)

/-- A bit inverted on its way to the destination. -/
def flipped (bs : Carried) (f : Option Flip) : Carried :=
  match f with
  | some f => bs.modify f.offset fun b => (b.1 ^^^ BitVec.ofNat 8 (2 ^ f.bit), b.2)
  | none => bs

/-- STATUS of a copy whose data has been written: VERIFY, then CMP (R460). -/
def copyStatus (c : QCmd) (src final : Word) : Nat :=
  if c.verify && final ≠ src then 3 else if c.cmp && final ≠ c.expect then 2 else 1

/-- The ranges of the two sides of a copy are in one space, differ, and meet. -/
def QCmd.meets (c : QCmd) : Bool :=
  c.ssp == c.dsp && c.src ≠ c.dst && c.src < c.dst + c.len && c.dst < c.src + c.len

/-- What is read where the ranges of a copy meet: a byte that the copy writes is read before it or after it, for no order
is set (R298, R460); `pick i` says which for byte `i`. A write follows its own read. -/
def meetingReads (pick : Nat → Bool) (c : QCmd) (f : Option Flip) (got : Carried) : Carried :=
  let n := got.length
  let one := fun (d : Nat → Nat) (inside : Nat → Bool) (acc : Carried) (i : Nat) =>
    if inside i && pick i then acc.set i ((flipped acc f).getD (d i) (0, false)) else acc
  if c.dst < c.src then
    let d := c.src - c.dst
    (List.range n).reverse.foldl (one (· + d) fun i => i + d < n) got
  else
    let d := c.dst - c.src
    (List.range n).foldl (one (· - d) fun i => d ≤ i) got

/-- The reads of a copy take their place among its writes: a free choice where the ranges meet. -/
def CopyRun.order (r : CopyRun) (c : QCmd) (f : Option Flip) : CopyRun :=
  if c.meets then
    { r with got := meetingReads (fun i => (Config.freeWord (r.s.fresh + i)).getLsbD 0) c f r.got
             s := { r.s with fresh := r.s.fresh + r.got.length } }
  else r

/-- A copy whose source fails (R460): how many of the bytes that it has read are written by then is a free choice, and so
whether the destination fails first. -/
def State.sourceFails (s : State) (c : QCmd) (f : Option Flip) (outside : Option CopyAnswer) (got : Carried) : State × CopyJob :=
  let n := (Config.freeWord s.fresh).toNat % (got.length + 1)
  let s := { s with fresh := s.fresh + 1 }
  let w := (CopyRun.mk s outside [] 0 false).write c (flipped (got.take n) f)
  if w.failed then (w.s, ⟨c, 5, 0, w.written, none⟩)
  else
    let r := ({ w with answer := outside }).read c c.ssp c.src
    (r.s, ⟨c, 4, 0, w.written, none⟩)

/-- A copy runs (R460): reads and writes, then VERIFY. Answers the package, STATUS, the final check value, DONEB. -/
def State.runCopy (s : State) (e : Nat) (c : QCmd) (start : Word) (outside : Option CopyAnswer) : State × CopyJob :=
  let x := s.takeFlip e c.len
  let r := (CopyRun.mk x.1 outside [] 0 false).read c c.ssp c.src
  if r.failed then (if r.got.isEmpty then (r.s, ⟨c, 4, 0, 0, none⟩) else x.1.sourceFails c x.2 outside r.got)
  else
    let r := r.order c x.2
    let bytes := r.got.map (·.1)
    let src := checkValue c.ck start bytes
    let r := r.write c (flipped r.got x.2)
    if r.failed then (r.s, ⟨c, 5, 0, r.written, none⟩)
    else if c.verify then
      let v := r.read c c.dsp c.dst
      if v.failed then (v.s, ⟨c, 5, 0, v.written, none⟩)
      else
        let dst := checkValue c.ck start (v.got.map (·.1))
        (v.s, ⟨c, copyStatus c src dst, dst, v.written, none⟩)
    else (r.s, ⟨c, copyStatus c src src, src, r.written, none⟩)

/-- COPY R460: the engine takes the command at the head of its queue and performs it. `outside` is what targets outside the
package answer. -/
def execCopy (engine : Fin 256) (outside : Option CopyAnswer) (s : State) : Host.Outcome State Fault Refusal :=
  let e := engine.val
  if (s.engineAt e).job.isSome then .next s
  else
    match s.takeCommand e with
    | (s, none) => .next s
    | (s, some c) =>
      let x :=
        if !s.copyOk c then (s, (⟨c, 6, 0, 0, none⟩ : CopyJob))
        else
          match c.chain, (s.engineAt e).previous with
          | false, _ => s.runCopy e c c.seed outside
          | true, some (1, v) => s.runCopy e c v outside
          | true, _ => (s, ⟨c, 7, 0, 0, none⟩)
      .next (x.1.modEngine e fun g => { g with job := some x.2 })

/-- The copies of a lane lose one of a batch (R454): it is complete. -/
def State.batchDone (s : State) (p : Pusher) (batch : Word) : State :=
  if !(s.crew p.crew).live then s
  else
    let s := s.modCrewWave p.crew p.wid fun w =>
      w.setThread p.lane { w.thread p.lane with copies := (w.thread p.lane).copies.erase batch }
    let s := match (s.crewKeys p.crew)[p.wid]? with
      | some k => s.batchCheck k p.lane
      | none => s
    if (s.launchAt (s.crew p.crew).launch).record.rbk then s.settle p.crew crewBarrier 3 else s

/-- The credit of a copy (R264, R296). -/
def State.copyCredit (s : State) (j : CopyJob) : State :=
  match j.cmd.pusher with
  | some p =>
    if j.cmd.gv && 1 ≤ j.status && j.status ≤ 3 && (s.crew p.crew).live then
      (s.agentReach p.crew (j.cmd.gate / 4096)).credit p.crew j.cmd.gate j.cmd.len
    else s
  | none => s

/-- The 16 bytes of a result record (R461). -/
def CopyJob.record (j : CopyJob) : List Byte :=
  leBytes (j.status + (if j.cmd.ck = 0 || 4 ≤ j.status then 0 else j.final.toNat) * 2 ^ 32) 8 ++ leBytes j.doneb 8

/-- The result record is written, where RESVA is aligned and can be written (R458, R461). -/
def State.copyResult (s : State) (j : CopyJob) : State :=
  if j.cmd.resva = 0 || j.cmd.resva % 16 ≠ 0 then s
  else State.wordEnd (s.vaPut (.word 4 j.cmd.pasid j.cmd.resva) j.cmd.pasid j.cmd.resva j.record false) 4 j.cmd.pasid j.cmd.resva false

/-- The page of the event word is one of I/O space, MT 5 or 6 (R461). -/
def State.eventIo (s : State) (c : QCmd) : Bool :=
  match (s.translate c.pasid c.evva .both).2 with
  | .ok _ mt => mt == 5 || mt == 6
  | _ => false

/-- The event word goes up, by 1 for STATUS 1 and by 2^32 for another, and its line is woken (R460, R461). -/
def State.copyEvent (s : State) (j : CopyJob) : State :=
  if j.cmd.evva = 0 || j.cmd.evva % 8 ≠ 0 then s
  else if s.eventIo j.cmd then s.wordFailed 3 j.cmd.pasid j.cmd.evva
  else State.wordEnd (s.engineAdd 3 j.cmd.pasid j.cmd.evva (if j.status = 1 then 1 else 2 ^ 32)) 3 j.cmd.pasid j.cmd.evva true

/-- The end of a copy behind its result record: the event word, the batch, and what a command chained to it will find. -/
def State.copyEnd (s : State) (e : Nat) (j : CopyJob) : State :=
  let s := (s.copyEvent j).modEngine e fun _ => { job := none, previous := some (j.status, j.final) }
  match j.cmd.pusher with
  | some p => s.batchDone p j.cmd.batch
  | none => s

/-- COPY_COMPLETION R460: the credit, the result record, the event word, the batch. A record on its way to a domain peer is acknowledged
before the event word goes up (R73, R300, R461). -/
def execCopyCompletion (engine : Fin 256) (s : State) : Host.Outcome State Fault Refusal :=
  let e := engine.val
  match (s.engineAt e).job with
  | none => .next s
  | some j =>
    match j.sent with
    | none =>
      let t := (s.copyCredit j).copyResult j
      if t.nextTag = s.nextTag then .next (t.copyEnd e j)
      else .next (t.modEngine e fun g => { g with job := some { j with sent := some s.nextTag } })
    | some tag => .next (if s.outstanding.any fun o => o.tag == tag then s else s.copyEnd e j)

/-- A piece of a copy lies outside the package and answers: such a copy waits for its answer, an input. -/
def State.answersOutside (s : State) (pasid : BitVec 20) (va n : Nat) (need : Need) (posted : Bool) : Bool :=
  (pagePieces va n).any fun p =>
    match (s.translate pasid p.1 need).2 with
    | .ok pa mt =>
      mt ≠ 6 &&
        ((s.isPeer pa && s.peerReachable pa) ||
          (!posted && s.regionAt pa == .pcie && (s.pcieRoute pa).any fun r => (s.portAt r.1).up))
    | _ => false

/-- A chained command whose predecessor did not end with STATUS 1, or that has none (R459). -/
def State.chainBroken (s : State) (e : Nat) (c : QCmd) : Bool := c.chain && !((s.engineAt e).previous.any fun x => x.1 == 1)

/-- The copy at the head of queue `e` can run with what is inside the package. -/
def State.copyDue (s : State) (e : Nat) : Bool :=
  match (s.engineAt e).job, s.queueAt e with
  | none, c :: _ =>
    !s.copyOk c || s.chainBroken e c ||
      !((!c.ssp && s.answersOutside c.pasid c.src c.len .read false) ||
        (!c.dsp && s.answersOutside c.pasid c.dst c.len .write (!c.verify)))
  | _, _ => false

/-! ### Error injection (R463, R464) -/

/-- Every byte that the table does not list is 0: words from `i` up. -/
def QCmd.restZero (c : QCmd) (i : Nat) : Bool := (List.range (8 - i)).all fun j => c.word64 (i + j) == 0

/-- FLIP R463: the command at the head of queue 0x1F0 arms an engine. -/
def execFlip (s : State) : Host.Outcome State Fault Refusal :=
  match s.takeCommand 0x1F0 with
  | (s, none) => .next s
  | (s, some c) =>
    if c.word64 0 == 1 && c.word64 1 < 2 ^ 11 && c.word64 2 < 2 ^ 32 && c.restZero 3 then
      let f : Flip := { engine := field (c.word64 1) 7 0, bit := field (c.word64 1) 10 8, offset := c.word64 2 }
      .next { s with flips := s.flips ++ [f] }
    else .next s

/-- POISON R463: the command at the head of queue 0x1F0 gives a sector the poison tag. -/
def execPoison (s : State) : Host.Outcome State Fault Refusal :=
  match s.takeCommand 0x1F0 with
  | (s, none) => .next s
  | (s, some c) =>
    if c.word64 0 == 2 && c.word64 1 < 2 ^ 57 && c.word64 1 % 32 == 0 && c.restZero 2 then
      match s.translate c.pasid (c.word64 1) .write with
      | (s, .ok pa _) =>
        (match s.localPa pa 32 1 with
         | some a => .next (s.setPoison (a / 32) true)
         | none => .next (s.ownRefused pa 32 1))
      | (s, _) => .next s
    else .next s

/-! ### Scratchpad pages (R259, R260) -/

/-- PAGE_WRITEBACK_DONE R259. -/
def execPageWritebackDone (crew : Nat) (page : Fin 256) (s : State) : Host.Outcome State Fault Refusal :=
  .next (s.writeback crew page)

/-- PAGE_REFILL R260: a BACKED page of a resident crew takes a frame again. -/
def execPageRefill (crew : Nat) (page : Fin 256) (s : State) : Host.Outcome State Fault Refusal :=
  if (s.crew crew).resident && ((s.crew crew).page page).state == .backed then .next (s.pin crew page) else .next s

end Sys2Proof.Machine
end

