-- ==== Sys2Proof/Machine/Margin.lean ====
section
/-!
DEFINITION. Timing detections, margin steps, quarantine and the in-field test (R222 to R238), the patrol scrubber and L2
profiles (R245 to R254), and the service requests (R36, R38, R255).
-/

namespace Sys2Proof.Machine

/-! ### The fields of MARGIN_CTL (R230) -/

def State.mTarget (s : State) (n : Nat) : Nat := s.hubField (Off.margin n) 3 0
def State.mLimit (s : State) (n : Nat) : Nat := max 1 (s.hubField (Off.margin n) 11 8)
def State.mThresh (s : State) (n : Nat) : Nat := s.hubField (Off.margin n) 31 16
def State.mRelax (s : State) (n : Nat) : Nat := s.hubField (Off.margin n) 35 32
def State.mFreeze (s : State) (n : Nat) : Bool := s.hubField (Off.margin n) 36 36 == 1
def State.mCur (s : State) (n : Nat) : Nat := s.hubField (Off.margin n + 8) 3 0
def State.mCount (s : State) (n : Nat) : Nat := s.hubField (Off.margin n + 8) 31 16
/-- QSTATE: 0 IN_SERVICE, 1 DRAINING, 2 TESTING, 3 OUT. -/
def State.qstate (s : State) (n : Nat) : Nat := s.hubField (Off.margin n + 8) 9 8
def State.setQstate (s : State) (n q : Nat) : State := s.hubSetField (Off.margin n + 8) 9 8 q
/-- The supply of a core at once at a step, a relax under way being dropped (R226). -/
def State.setCur (s : State) (n v : Nat) : State :=
  (s.hubSetField (Off.margin n + 8) 3 0 v).modCore n (fun x => { x with relaxTo := none })

/-- Raises the margin by one step (R226). -/
def State.raiseMargin (s : State) (n : Nat) : State :=
  ((s.setCur n (s.mCur n - 1)).hubCount (Off.margin n + 0x10) 63 32 1).modCore n
    (fun x => { x with raised := true, quietRun := 0 })

/-! ### Quarantine (R231) -/

/-- A record of kind 0x42 about a core (R231). -/
def State.coreRecord (s : State) (n sub : Nat) : State :=
  s.failureRecord (mkRecord 0x42 sub none 0 (BitVec.ofNat 64 n))

/-- A core in service begins to drain. -/
def State.leaveService (s : State) (n sub : Nat) (cause : LeaveCause) : State :=
  (((s.setQstate n 1).setCur n 0).modCore n (fun x => { x with cause := cause, wayBack := false, iftDue := false })).coreRecord
    n sub

/-- An automatic quarantine, of a core that is in service. -/
def State.quarantine (s : State) (n sub : Nat) : State :=
  if s.qstate n ≠ 0 then s
  else (s.leaveService n sub .automatic).modCore n (fun x => { x with quarantinedAt := x.quarantinedAt ++ [s.gtime] })

/-- A core is back in service: TARGET and CUR as after reset (R229, R231), its converter generators seeded again (R320). -/
def State.backInService (s : State) (n : Nat) : State :=
  let s := (((s.setQstate n 0).setCur n 0).hubSetField (Off.margin n) 3 0 (Config.marginFuse n).toNat).modCore n
    (fun x => { x with cause := .inService, wayBack := false, iftDue := false, detections := [], highAtZero := false })
  { s with
    reseeds := SMap.put s.reseeds n (SMap.get s.reseeds n 0 + 1)
    gens := s.gens.filter (fun e => e.1 / 4 ≠ n) }

/-! ### Detections and windows (R222 to R228) -/

/-- A matrix instruction in an array of a draining core is undone: its signers stand at SPC, blocked, with SIGNED equal to SET, and
it does not issue on this core again; an open window ends; the crew is to be moved at once (R233). -/
def State.undoMatrix (s : State) (n serial : Nat) : State :=
  let hit := s.waves.filter fun e => e.2.live && keyCore e.1 == n && e.2.mat.any (·.serial == serial)
  hit.foldl (fun s e =>
    let k := e.1
    let r := s.recOf k
    let s := s.modWave k fun w =>
      (w.mat.filter (·.serial == serial)).foldr (fun j w =>
        let w := w.setKreg j.k { j.before with barred := some n }
        (r.lanesIn j.before.signed).foldl (fun w l =>
          w.setThread l { w.thread l with pc := j.before.spc, parked := false, block := some (.signed j.k) }) w) w
    let s := s.modWave k fun w => { w with mat := w.mat.filter (·.serial != serial) }
    let s := if (s.wave k).window.isSome then (s.modWave k (fun w => { w with window := none })).setWstat k 4 else s
    s.due (.crewMigration e.2.crew)) s

/-- TIMING_DETECTION R222: the replay itself changes no architectural state (R222 to R224); the detection counts for its
instance, its window and DETECT, and an instance that reaches LIMIT raises the margin or quarantines the core (R227). On a core that
drains it is a matrix instruction, which is undone (R233). -/
def execTimingDetection (core : Fin 256) (serial : Nat) (s : State) : Host.Outcome State Fault Refusal :=
  let n := core.val
  let s := (s.hubCount (Off.margin n + 8) 31 16 1).hubCount (Off.margin n + 0x10) 31 0 1
  let c := SMap.get (s.coreAt n).detections serial 0 + 1
  let count := fun (v : Nat) (s : State) => s.modCore n fun x => { x with detections := SMap.set x.detections serial v 0 }
  if c < s.mLimit n then .next (count c s)
  else if s.qstate n = 1 then .next ((count 0 s).undoMatrix n serial)
  else if s.mCur n ≠ 0 then .next ((count 0 s).raiseMargin n)
  else .next ((count 0 s).quarantine n 2)

/-- MARGIN_SUPPLY_SETTLED R226: CUR reads the step that a relax has reached. -/
def execMarginSupplySettled (core : Fin 256) (s : State) : Host.Outcome State Fault Refusal :=
  match (s.coreAt core).relaxTo with
  | some v => .next (s.setCur core v.1.toNat)
  | none => .next s

/-- MARGIN_WINDOW_END R228. -/
def execMarginWindowEnd (core : Fin 256) (s : State) : Host.Outcome State Fault Refusal :=
  let n := core.val
  let x := s.coreAt n
  let high := s.mThresh n < s.mCount n
  let run := if s.mCount n = 0 && !x.raised then x.quietRun + 1 else 0
  let zero := s.mCur n == 0
  let again := fun (run : Nat) (s : State) =>
    (s.hubSetField (Off.margin n + 8) 31 16 0).modCore n
      (fun y => { y with raised := false, highAtZero := high && zero, quietRun := run })
  if high && !zero then .next (again 0 (s.raiseMargin n))
  else if high && x.highAtZero then .next (again 0 (s.quarantine n 1))
  else if 2 ^ s.mRelax n ≤ run && !s.mFreeze n && s.mCur n < s.mTarget n && x.relaxTo.isNone then
    .next (again 0 (s.modCore n fun y => { y with relaxTo := some (BitVec.ofNat 4 (s.mCur n + 1), s.gtime + 1000) }))
  else .next (again run s)

/-- MARGIN_CTL_WRITE R229: word 0 of MARGIN_CTL of a core. -/
def execMarginCtlWrite (machineMode : Bool) (core : Fin 256) (data : DWord) (s : State) : Host.Outcome State Fault Refusal :=
  let n := core.val
  let o := Off.margin n
  match machineMode, hubReg o with
  | true, some r =>
    let s := s.hubPut o (r.written (s.hubGet o) data.toNat (2 ^ 64 - 1))
    let s := if s.mTarget n < s.mCur n then s.setCur n (s.mTarget n) else s
    .next ((s.hubSetField (o + 8) 31 16 0).modCore n (fun x => { x with raised := false, windowStart := s.gtime }))
  | _, _ => .next s

/-- Windows of core `n`, counted from `start`, that have ended by time `t` (R228). -/
def State.windowsEnded (s : State) (n : Nat) (start t : DWord) : Nat :=
  (t - start).toNat / (1000 * 2 ^ s.hubField (Off.margin n) 15 12)

/-- The cores whose window ends between two times (R228). -/
def State.windowEnds (s : State) (old new : DWord) : List Nat :=
  let near := fun (start : DWord) => (old - start).toNat / 1000 != (new - start).toNat / 1000
  let ends := fun (n : Nat) (start : DWord) => near start && s.windowsEnded n start old != s.windowsEnded n start new
  (s.cores.filter fun e => ends e.1 (CoreState.windowStart e.2)).map (·.1) ++
    (if near 0 then (List.range 256).filter fun n => (SMap.find s.cores n).isNone && ends n 0 else [])

/-- The in-field test of a core falls due (R237). -/
def State.testDue (s : State) (n : Nat) : Bool :=
  let period := s.hubField (Off.service + 16) 15 0 * 3600 * 10 ^ 9
  period != 0 && period ≤ s.gtime.toNat && s.qstate n == 0 && !(s.coreAt n).iftDue &&
    period ≤ (s.gtime - (s.coreAt n).testedAt).toNat &&
    (List.range 4).all fun i => s.qstate (n / 4 * 4 + i) != 2 && !(s.coreAt (n / 4 * 4 + i)).iftDue

/-! ### Draining and the in-field test (R231, R237, R238) -/

/-- No wave is on the core. -/
def State.coreEmpty (s : State) (n : Nat) : Bool := s.waves.all fun e => !(e.2.live && keyCore e.1 == n)

/-- No other core of the cluster is under test (R237). -/
def State.testFree (s : State) (n : Nat) : Bool :=
  (List.range 4).all fun i => n / 4 * 4 + i == n || s.qstate (n / 4 * 4 + i) ≠ 2

/-- DRAIN_COMPLETE R231: the last wave has left a core that drains, or that a test waits for; the test runs. -/
def execDrainComplete (core : Fin 256) (s : State) : Host.Outcome State Fault Refusal :=
  let n := core.val
  if (s.qstate n = 1 || (s.qstate n = 0 && (s.coreAt n).iftDue)) && s.coreEmpty n && s.testFree n then .next (s.setQstate n 2)
  else .next s

/-- IFT_DUE R237: a test falls due; no new crew is placed on the core and its crews move. -/
def execIftDue (core : Fin 256) (s : State) : Host.Outcome State Fault Refusal :=
  let n := core.val
  let other := (List.range 4).any fun i =>
    n / 4 * 4 + i ≠ n && (s.qstate (n / 4 * 4 + i) = 2 || (s.coreAt (n / 4 * 4 + i)).iftDue)
  if s.qstate n = 0 && s.hubField (Off.service + 16) 15 0 ≠ 0 && !other then
    .next (s.modCore n (fun x => { x with iftDue := true, testRetry := 0 }))
  else .next s

/-- A service request ends with RESULT (R255). -/
def State.serviceEnd (s : State) (result : Nat) : State :=
  { s.hubSetField (Off.service + 8) 3 1 result with service := none }

/-- The four cores of a cluster that is taken out are OUT: the request is done (R36). -/
def State.clusterOutDone (s : State) : State :=
  match s.service with
  | some (.clusterOut n) => if (List.range 4).all (fun i => s.qstate (4 * n + i) = 3) then s.serviceEnd 0 else s
  | _ => s

/-- IFT_COMPLETE R238: by the cause for which the core left service (R231). -/
def execIftComplete (core : Fin 256) (pass : Bool) (s : State) : Host.Outcome State Fault Refusal :=
  let n := core.val
  let x := s.coreAt n
  let s := if s.qstate n = 2 then s.modCore n (fun y => { y with testedAt := s.gtime }) else s
  let out := s.setQstate n 3
  let failed := if pass then out else out.coreRecord n 3
  if s.qstate n ≠ 2 then .next s
  else if x.wayBack then
    .next (if pass then (s.backInService n).serviceEnd 0
           else (failed.modCore n (fun y => { y with wayBack := false })).serviceEnd 2)
  else
    match x.cause with
    | .requested => .next (failed.serviceEnd 0)
    | .cluster => .next failed.clusterOutDone
    | .automatic => .next (if !pass then failed else if 3 ≤ s.quarantines n then out.coreRecord n 4 else s.backInService n)
    | .inService => .next (if pass then s.backInService n else failed.modCore n (fun y => { y with iftDue := false }))

/-! ### Errors in memory and the L2 profiles (R245 to R254) -/

/-- PATROL_SCRUB R247: a sector is read and decoded (R245): as the error says that the state holds for it, else as found. -/
def execPatrolScrub (stack : Fin 8) (sector : BitVec 47) (found : SectorDecode) (way : Option L2Way) (s : State) :
    Host.Outcome State Fault Refusal :=
  if (SMap.find s.upsets sector.toNat).isSome then .next (s.decodeSector sector.toNat)
  else match found with
  | .good => .next s
  | .corrected => .next (s.errorFound stack sector.toNat way true)
  | .address | .uncorrectable => .next ((s.errorFound stack sector.toNat way false).setPoison sector.toNat true)

/-- L2_PROFILE_WRITE R252: PROF of a slice; the slice flushes before the new profile is in force. -/
def execL2ProfileWrite (machineMode : Bool) (slice : Fin 64) (data : DWord) (s : State) : Host.Outcome State Fault Refusal :=
  if machineMode then
    .next ((s.hubSetField (Off.l2rel slice) 1 0 data.toNat).modSlice slice
      (fun x => { x with flushing := some (data.setWidth 2) }))
  else .next s

/-- SLICE_FLUSH_COMPLETE R252. -/
def execSliceFlushComplete (slice : Fin 64) (s : State) : Host.Outcome State Fault Refusal :=
  .next (s.modSlice slice fun x => { x with prof := x.flushing.getD x.prof, flushing := none })

/-- L2_WMASK_WRITE R253: the disabled ways of set WIDX. -/
def execL2WmaskWrite (machineMode : Bool) (slice : Fin 64) (data : DWord) (s : State) : Host.Outcome State Fault Refusal :=
  if machineMode then .next (s.setWays slice (s.hubField (Off.l2rel slice + 8) 11 0) (data.setWidth 16)) else .next s

/-- A setting of the SRAM rail of a die that R252 admits. -/
def State.srailOk (s : State) (die below : Nat) : Bool :=
  below ≤ (Config.sramFuse die).toNat ||
    (List.range 16).all fun c =>
      let x := s.sliceAt (16 * die + c)
      !x.inService || x.prof == 2 || x.prof == 3

/-! ### Service requests (R36, R38, R255) -/

/-- A request is taken only while none runs. -/
def State.serviceIdle (s : State) (g : State → State) : Host.Outcome State Fault Refusal :=
  .next (if s.service.isNone then g s else s)

/-- SERVICE_CORE_TAKE_OUT R255. -/
def execServiceCoreTakeOut (core : Fin 256) (s : State) : Host.Outcome State Fault Refusal :=
  s.serviceIdle fun s =>
    if s.coreInService core then { s.leaveService core 5 .requested with service := some (.coreOut core) }
    else s.serviceEnd 1

/-- SERVICE_CORE_RETURN R255: the test of the way back runs, once no other core of its cluster is under test (R237). -/
def execServiceCoreReturn (core : Fin 256) (s : State) : Host.Outcome State Fault Refusal :=
  let s := if s.service == some (.coreBack core) && s.qstate core = 3 then { s with service := none } else s
  s.serviceIdle fun s =>
    if s.qstate core ≠ 3 then s.serviceEnd 1
    else if s.testFree core then
      { (s.setQstate core 2).modCore core (fun x => { x with wayBack := true }) with service := some (.coreBack core) }
    else { s with service := some (.coreBack core) }

/-- A request to return a core waits, and the way to its test is clear (R237). -/
def State.returnDue (s : State) : Option Instr :=
  match s.service with
  | some (.coreBack n) => if s.qstate n = 3 && s.testFree n then some (.serviceCoreReturn (Fin.ofNat 256 n)) else none
  | _ => none

/-- A page entry maps a part of vault `v`. -/
def entryInVault (v : Nat) (z : Nat) (e : PageEntry) : Bool :=
  let lo := entryPpn e * 4096
  let base := 0x8000000000 + v * 2 ^ 25
  entryV e && entryMt e == 1 && lo < base + 2 ^ 25 && base < lo + 2 ^ pageShift z

/-- Some page of vault `v` is mapped (R36): an entry of a table of some space names it. -/
def State.vaultMapped (s : State) (v : Nat) : Bool :=
  (List.range (2 ^ s.hubField Off.xltPdir 4 0)).any fun p =>
    match s.spaceOf p with
    | none => false
    | some desc =>
      (List.range 4).any fun z =>
        [s.descCur desc z, s.descNew desc z].any fun t =>
          tableEn t && lognOk (tableLogn t) &&
            (List.range (3 * 2 ^ tableLogn t * 4)).any fun i => entryInVault v z (s.entryAt (tableBase t + 16 * i))

/-- SERVICE_CLUSTER_TAKE_OUT R36: its cores drain, its L2 slice is flushed and left out, and CLUSTER_AVAIL loses its bit (R32,
R136). -/
def execServiceClusterTakeOut (cluster : Fin 64) (s : State) : Host.Outcome State Fault Refusal :=
  let n := cluster.val
  s.serviceIdle fun s =>
    if !(s.hubGet Off.clusterAvail).testBit n || s.vaultMapped n then s.serviceEnd 1
    else
      let s := (List.range 4).foldl
        (fun s i =>
          if s.qstate (4 * n + i) = 0 then s.leaveService (4 * n + i) 5 .cluster
          else if s.qstate (4 * n + i) = 3 then s
          else s.modCore (4 * n + i) (fun x => { x with cause := .cluster })) s
      let s := (s.modSlice n (fun x => { x with inService := false })).hubPut Off.clusterAvail
        (setField (s.hubGet Off.clusterAvail) n n 0)
      ({ s with service := some (.clusterOut n) } : State).clusterOutDone

/-- SERVICE_CLUSTER_RETURN R38: the self-test of R27 runs first. -/
def execServiceClusterReturn (cluster : Fin 64) (s : State) : Host.Outcome State Fault Refusal :=
  s.serviceIdle fun s =>
    if (s.hubGet Off.clusterAvail).testBit cluster then s.serviceEnd 1
    else { s with service := some (.clusterBack cluster) }

/-- A cluster is fenced off, its vault not mapped, or no longer (R27). -/
def State.setFenced (s : State) (n : Nat) (b : Bool) : State :=
  { s with fenced := BitVec.ofNat 64 (setField s.fenced.toNat n n b.toNat) }

/-- CLUSTER_RETURN_TEST_DONE R38: a cluster that passes is mapped again, one that fails is fenced off (R27). -/
def execClusterReturnTestDone (cluster : Fin 64) (pass : Bool) (s : State) : Host.Outcome State Fault Refusal :=
  let n := cluster.val
  if s.service ≠ some (.clusterBack n) then .next s
  else if pass then
    let s := (List.range 4).foldl
      (fun s i => if (s.coreAt (4 * n + i)).cause == .cluster then s.backInService (4 * n + i) else s) s
    .next ((((s.setFenced n false).modSlice n (fun x => { x with inService := !x.retired })).hubPut Off.clusterAvail
      (setField (s.hubGet Off.clusterAvail) n n 1)).serviceEnd 0)
  else .next (((s.setFenced n true).failureRecord (mkRecord 0x43 n none 0 0)).serviceEnd 2)

/-- SERVICE_L2_SLICE_TAKE_OUT R36. -/
def execServiceL2SliceTakeOut (slice : Fin 64) (s : State) : Host.Outcome State Fault Refusal :=
  s.serviceIdle fun s =>
    if (s.sliceAt slice).inService then (s.modSlice slice (fun x => { x with inService := false })).serviceEnd 0
    else s.serviceEnd 1

/-- SERVICE_L2_SLICE_RETURN R255: the slice of a cluster that is fenced off stays out, and the request is refused (R27,
notes/assumptions/66.md). -/
def execServiceL2SliceReturn (slice : Fin 64) (s : State) : Host.Outcome State Fault Refusal :=
  s.serviceIdle fun s =>
    if (s.sliceAt slice).inService || s.fenced.getLsbD slice then s.serviceEnd 1
    else (s.modSlice slice (fun x => { x with inService := true, retired := false })).serviceEnd 0

/-- SERVICE_LOAM_HART_TAKE_OUT R36, R255: not the last hart in service. -/
def execServiceLoamHartTakeOut (hart : Fin 16) (s : State) : Host.Outcome State Fault Refusal :=
  s.serviceIdle fun s =>
    let others := (List.range 16).any fun h => h ≠ hart.val && (s.hartAt h).inService
    if (s.hartAt hart).inService && others then
      (s.modHart hart (fun x => { x with inService := false, reserved := none })).serviceEnd 0
    else s.serviceEnd 1

/-- SERVICE_LOAM_HART_RETURN R255. -/
def execServiceLoamHartReturn (hart : Fin 16) (s : State) : Host.Outcome State Fault Refusal :=
  s.serviceIdle fun s =>
    if (s.hartAt hart).inService then s.serviceEnd 1
    else (s.modHart hart (fun x => { x with inService := true })).serviceEnd 0

/-- A request with GO = 1 (R255): the unit's step follows; an INDEX out of range ends it with RESULT 3. -/
def State.serviceGo (s : State) : State :=
  let i := s.hubField Off.service 15 8
  let back := s.hubField Off.service 2 2 == 1
  match s.hubField Off.service 1 0 with
  | 0 => s.due (if back then .serviceCoreReturn (Fin.ofNat 256 i) else .serviceCoreTakeOut (Fin.ofNat 256 i))
  | 1 =>
    if 64 ≤ i then s.serviceEnd 3
    else s.due (if back then .serviceClusterReturn (Fin.ofNat 64 i) else .serviceClusterTakeOut (Fin.ofNat 64 i))
  | 2 =>
    if 64 ≤ i then s.serviceEnd 3
    else s.due (if back then .serviceL2SliceReturn (Fin.ofNat 64 i) else .serviceL2SliceTakeOut (Fin.ofNat 64 i))
  | _ =>
    if 16 ≤ i then s.serviceEnd 3
    else s.due (if back then .serviceLoamHartReturn (Fin.ofNat 16 i) else .serviceLoamHartTakeOut (Fin.ofNat 16 i))

end Sys2Proof.Machine
end

