-- ==== Sys2Proof/Machine/Inbound.lean ====
section
/-!
DEFINITION. What arrives at the package: captured MSI-X (R48 to R52), requests of endpoints and bridge partners (R59, R60, R82,
R98, R99, R527), and accesses of domain peers (R66, R69).
-/

namespace Sys2Proof.Machine

/-! ### Captures (R48 to R52) -/

/-- An access to a capture window, at offset `o` in it (R49); `port` logs what is malformed. The EP bit of a capture counts for nothing: the
manual does not say what poisoned data adds (notes/assumptions/66.md). A capture waits for earlier posted
writes of its requester that are under way to a domain peer; those to memory are visible already (R52). -/
def State.captureWindow (s : State) (port o n : Nat) (write : Bool) (rid : BitVec 16) (data : List Byte) (bus : Nat) : State :=
  if !write then s.emitTlp port (.completion rid false [] false)
  else if n = 4 && o % 4 = 0 then
    if s.writesPending port rid || s.heldCaptures.any (fun e => e.port == port && e.rid == rid) then
      { s with heldCaptures := s.heldCaptures ++ [⟨port, rid, o / 4, leNat data, bus⟩] }
    else s.captureEntry (o / 4) rid (leNat data) bus
  else (s.aerLog port).faultRecord (mkRecord 2 4 none bus (whoRid rid))

/-- The offset in the capture window of a bus address (R48). The low 14 bits of MSIX_CAP_BASE count for nothing but that the window is
on (notes/assumptions/66.md). -/
def State.captureOffset (s : State) (addr : Nat) : Option Nat :=
  let base := s.hubGet Off.msixCapBase / 2 ^ 14 * 2 ^ 14
  if s.hubGet Off.msixCapBase ≠ 0 && base ≤ addr && addr < base + 2 ^ 14 then some (addr - base) else none

/-! ### Requests of endpoints -/

/-- The data of a read, with its poison. -/
abbrev ReadData := List Byte × Bool

/-- Data that only the outside knows: a free value. -/
def State.outsideData (s : State) (n : Nat) : State × ReadData :=
  ({ s with fresh := s.fresh + n }, ((List.range n).map fun i => (Config.freeWord (s.fresh + i)).setWidth 8, false))

/-- A write with its poison tag (R47). -/
def State.writePoison (s : State) (a : Nat) (bs : List Byte) (ep : Bool) : State :=
  let s := s.agentWrite a bs
  if ep then (sectorsOf a bs.length).foldl (fun s c => s.setPoison c true) s else s

/-- A posted write of an endpoint leaves for a domain peer, and is under way until it is acknowledged (R52, R73). -/
def State.endpointSends (s : State) (who : Requester) (pa : Nat) (w : ReadData) : State :=
  ({ s with
    nextTag := s.nextTag + 1
    outstanding := s.outstanding ++
      [{ tag := s.nextTag, who := who, sent := s.gtime, port := none, waveKey := 2 ^ 20, lane := 0, serial := 0, skip := 0
         access := plainAccess .store w.1.length, pasid := 0, va := 0, pa := pa }] } : State).emit (.peer pa false w.1 w.2)

/-- A read or a write of an endpoint at a physical address (R47, R66, R78, R527); none: Unsupported Request. The page of an
interrupt file takes writes by the rules of the AIA, which ignores those to its read-only bytes. A shared read-only range takes no
write (R63). -/
def State.endpointAccess (s : State) (who : Requester) (pa n : Nat) (write : Option ReadData) : State × Option ReadData :=
  let atHome := fun (a : Nat) =>
    match write with
    | some w => (s.writePoison a w.1 w.2, some ([], false))
    | none => (s.decoded a n, some (s.bytes a n, s.poisonIn a n))
  match s.regionAt pa with
  | .hbm | .vault => atHome pa
  | .cxl => if write.isSome && s.pmaMt pa == some 4 then (s, none) else atHome pa
  | .unassigned => (s, none)
  | .hubMmio =>
    (match imsicAt (pa - hubBase), write with
     | some _, some w =>
       if n = 4 && pa % 4 = 0 then (s.imsicWrite (pa - hubBase) n (leNat w.1), some ([], false)) else (s, none)
     | some _, none => if n = 4 && pa % 4 = 0 then (s, some (List.replicate n 0, false)) else (s, none)
     | _, _ => (s, none))
  | .pcie =>
    (match s.pcieRoute pa, write with
     | none, _ => (s, none)
     | some (p, a), some w => (s.sendPosted p a w.1 w.2 none, some ([], false))
     | some _, none => ((s.outsideData n).1, some (s.outsideData n).2))
  | .domain =>
    let bit := if write.isSome then 1 else 0
    match s.localPa pa n bit with
    | some a => atHome a
    | none =>
      if s.isPeer pa && s.peerReachable pa then
        match write with
        | some w => (s.endpointSends who pa w, some ([], false))
        | none => ((s.outsideData n).1, some (s.outsideData n).2)
      else (s.ownRefused pa n bit, none)

/-- How the address of an endpoint is translated. -/
inductive BusXlat where
  | ok (pa mt : Nat)
  | refused
deriving DecidableEq, Repr

/-- An untranslated request (R82, R99): no space and no page are refused, with their records. -/
def State.untranslated (s : State) (port : Nat) (pasid : Option (BitVec 20)) (rid : BitVec 16) (va : Nat) (need : Need) :
    State × BusXlat :=
  match s.busPasid port pasid with
  | none => (s, .refused)
  | some p =>
    match s.spaceOf p.toNat with
    | none => (s.faultRecord (mkRecord 5 0 (some p) 0 (whoRid rid)), .refused)
    | some desc =>
      let refuse := fun (s : State) (sub : Nat) => (s.faultRecord (mkRecord 0x0B sub (some p) va (whoRid rid)), BusXlat.refused)
      if 2 ^ 57 ≤ va then refuse s 1
      else
        match s.translateIn desc (some p) va need with
        | (s, .absent) => refuse s 1
        | (s, .denied _) => refuse s 2
        | (s, .ok pa mt) => if mt == 4 && need.wr then refuse s 2 else (s, .ok pa mt)

/-- A grant of R98 admits an access at a physical address. -/
def AtsGrant.covers (g : AtsGrant) (rid : BitVec 16) (addr : Nat) (need : Need) : Bool :=
  g.rid == rid && g.pa ≤ addr && addr < g.pa + 2 ^ g.bits && (!need.rd || g.rd) && (!need.wr || g.wr)

/-- A request that is marked as translated (R99): its region must be one that R98 grants, and the address one that was granted to the
requester, or it is refused with a record (R526); while an invalidation that it has not acknowledged is under way, its grants
still stand (R90, notes/assumptions/38.md). A CXL address that no LOAM_PMA entry contains counts as private (notes/assumptions/66.md). -/
def State.preTranslated (s : State) (rid : BitVec 16) (addr : Nat) (need : Need) : State × BusXlat :=
  let refuse := (s.faultRecord (mkRecord 7 0 none addr (whoRid rid)), BusXlat.refused)
  if !(s.atsHolders.any (fun g => g.covers rid addr need) || s.flushWait.any fun f => f.rids.contains rid) then refuse
  else
    match s.regionAt addr with
    | .unassigned | .hubMmio | .pcie => refuse
    | .cxl => (s, .ok addr ((s.pmaMt addr).getD 2))
    | _ => (s, .ok addr 0)

/-- The physical address of a request; an endpoint that is no longer trusted has its address translated (R90). -/
def State.busTranslate (s : State) (port : Nat) (rid : BitVec 16) (pasid : Option (BitVec 20)) (translated : Bool) (addr : Nat)
    (need : Need) : State × BusXlat :=
  if translated && !s.distrusted.contains rid then s.preTranslated rid addr need
  else s.untranslated port pasid rid addr need

/-- Unsupported Request: a completion for a read, an entry in AER for a posted write. -/
def State.unsupported (s : State) (port : Nat) (rid : BitVec 16) (write : Bool) : State :=
  if write then s.aerLog port else s.emitTlp port (.completion rid false [] false)

/-- A request after its translation. -/
def State.endpointServe (s : State) (port : Nat) (rid : BitVec 16) (pa n : Nat) (write : Option ReadData) : State :=
  match s.endpointAccess (.endpoint port rid) pa n write with
  | (s, none) => s.unsupported port rid write.isSome
  | (s, some d) => if write.isSome then s else s.emitTlp port (.completion rid true d.1 d.2)

/-- A memory request at a root port. -/
def State.inbound (s : State) (r : InboundRequest) : State :=
  match s.captureOffset r.addr.toNat with
  | some o => s.captureWindow r.port o r.size r.write r.rid r.data r.addr.toNat
  | none =>
    match s.busTranslate r.port r.rid r.pasid r.translated r.addr.toNat (if r.write then .write else .read) with
    | (s, .refused) => s.unsupported r.port r.rid r.write
    | (s, .ok pa _) =>
      s.endpointServe r.port r.rid pa r.size (if r.write then some (r.data.take r.size, r.ep) else none)

/-- INBOUND_MEMORY_REQUEST R99. -/
def execInboundMemoryRequest (r : InboundRequest) (s : State) : Host.Outcome State Fault Refusal :=
  .next (if s.turnsAway r.port r.rid r.translated r.badEcrc then s.aerLog r.port else s.inbound r)

/-- CAPTURE R52: a request that hits the capture window; any other is no capture. -/
def execCapture (r : InboundRequest) (s : State) : Host.Outcome State Fault Refusal :=
  match s.captureOffset r.addr.toNat with
  | some o =>
    .next (if s.turnsAway r.port r.rid r.translated r.badEcrc then s.aerLog r.port
      else s.captureWindow r.port o r.size r.write r.rid r.data r.addr.toNat)
  | none => .next s

/-! ### AtomicOps of endpoints (R60) -/

/-- The operation of R444 that an AtomicOp makes, and its data. -/
def inboundAop (r : InboundAtomic) : Nat := match r.op with | .fetchAdd => 0 | .swap => 8 | .cas => 9
def inboundDatum (r : InboundAtomic) : Nat :=
  match r.op with
  | .cas => r.compare.toNat % 2 ^ (8 * r.size) + r.operand.toNat % 2 ^ (8 * r.size) * 2 ^ (8 * r.size)
  | _ => r.operand.toNat

/-- The root port completes an AtomicOp of this size at this address. -/
def inboundCarried (r : InboundAtomic) : Bool :=
  r.addr.toNat % r.size == 0 && (r.size == 4 || r.size == 8 || (r.op == .cas && r.size == 16))

/-- An atomic operation of another package or an endpoint at a place in memory: an RMW at SY scope (R60, R71). -/
def State.homeAtomic (s : State) (a n aop d : Nat) : State × List Byte :=
  let m := s.readNat a n
  match atomicWrite aop (8 * n) m d with
  | some v => ((s.memWrite a (leBytes v n)).tagBytes a n (fun _ => true) [], leBytes m n)
  | none => (s.decoded a n, leBytes m n)

/-- ATOMIC_OP_REQUEST R60. One in the capture window is translated as any other: R49 speaks of writes and reads of it
(notes/assumptions/66.md). -/
def execAtomicOpRequest (r : InboundAtomic) (s : State) : Host.Outcome State Fault Refusal :=
  let refuse := fun (s : State) => Host.Outcome.next (s.emitTlp r.port (.completion r.rid false [] false))
  let home := fun (s : State) (a : Nat) =>
    let h := s.homeAtomic a r.size (inboundAop r) (inboundDatum r)
    Host.Outcome.next (h.1.emitTlp r.port (.completion r.rid true h.2 (s.poisonIn a r.size)))
  if s.turnsAway r.port r.rid r.translated r.badEcrc then .next (s.aerLog r.port)
  else if !inboundCarried r then refuse s
  else
    match s.busTranslate r.port r.rid r.pasid r.translated r.addr.toNat .both with
    | (s, .refused) => refuse s
    | (s, .ok pa mt) =>
      match s.regionAt pa with
      | .hbm | .vault => home s pa
      | .cxl => if mt == 3 || mt == 4 then refuse s else home s pa
      | .domain =>
        (match s.localPa pa r.size 2 with
         | some a => home s a
         | none =>
           if s.isPeer pa && s.peerReachable pa then
             let s := s.emit (.request s.nextTag pa r.size (.atom (BitVec.ofNat 4 (inboundAop r))) (BitVec.ofNat 256 (inboundDatum r)))
             let d := s.outsideData r.size
             .next (({ d.1 with nextTag := d.1.nextTag + 1 } : State).emitTlp r.port (.completion r.rid true d.2.1 false))
           else refuse (s.ownRefused pa r.size 2))
      | _ => refuse s

/-! ### ATS (R98) -/

/-- The answer without access. -/
def State.atsNone (s : State) (r : AtsRequest) : State := s.emitTlp r.port (.ats r.rid false false false 0 0)

/-- ATS_TRANSLATION_REQUEST R98. One without a PASID at a port without a default space gets Unsupported Request, as an untranslated request
does, and leaves no record (notes/assumptions/66.md). -/
def execAtsTranslationRequest (r : AtsRequest) (s : State) : Host.Outcome State Fault Refusal :=
  if s.turnsAway r.port r.rid true r.badEcrc then .next (s.aerLog r.port)
  else
  match s.busPasid r.port r.pasid with
  | none => .next (s.emitTlp r.port (.completion r.rid false [] false))
  | some p =>
    match s.spaceOf p.toNat with
    | none => .next ((s.faultRecord (mkRecord 5 0 (some p) 0 (whoRid r.rid))).atsNone r)
    | some desc =>
      let va := r.va.toNat
      if 2 ^ 57 ≤ va then .next (s.atsNone r)
      else
        let s := s.walkDecoded (some p) desc va
        let l := s.lookup desc va
        let s := s.tableRecords (some p) va l.2
        match s.pickHit l.1 with
        | none => .next (s.atsNone r)
        | some (z, a) =>
          let s := s.picked l.1
          let e := s.entryAt a
          let mt := entryMt e
          if mt == 5 || mt == 6 || mt == 3 then .next (s.atsNone r)
          else
            let wr := field e 2 2 == 1 && !r.noWrite
            let s := (s.markUsed a wr).emitTlp r.port
              (.ats r.rid (field e 1 1 == 1) wr (r.exec && field e 3 3 == 1) (entryPpn e * 4096) z)
            let g : AtsGrant :=
              { port := r.port, rid := r.rid, pasid := p, va := va / 2 ^ pageShift z * 2 ^ pageShift z, pa := entryPpn e * 4096
                bits := pageShift z, rd := field e 1 1 == 1, wr := wr }
            .next { s with atsHolders := (g :: s.atsHolders).eraseDups }

/-! ### Non-transparent bridges (R58, R59) -/

/-- A partner's access through BAR2 or BAR4: window, and offset in it. -/
def ntbWindowOf (r : NtbRequest) (sizes : Nat × Nat) : Nat × Nat :=
  let s := if r.bar = 1 then sizes.1 else sizes.2
  ((if r.bar = 1 then 0 else 4) + r.offset / 2 ^ (s - 2), r.offset % 2 ^ (s - 2))

/-- The local address of an offset in a window of 2^(s−2) bytes (R133). -/
def ntbAddress (iva s o : Nat) : Nat := (iva / 2 ^ (s - 2) * 2 ^ (s - 2) + o) % 2 ^ 57

/-- NTB_INBOUND_ACCESS R59. -/
def execNtbInboundAccess (r : NtbRequest) (s : State) : Host.Outcome State Fault Refusal :=
  let g := r.group.val
  let port := 4 * g
  if s.hubField (Off.portCfg g) 16 16 == 0 || !(s.portAt port).up then .next s
  else if s.turnsAway port r.rid false r.badEcrc then .next (s.aerLog port)
  else if r.bar = 0 then
    if r.offset < 0x4000 then .next (s.captureWindow port r.offset r.size r.write r.rid r.data r.offset)
    else if r.write then .next s
    else .next (s.emitTlp port (.completion r.rid true (List.replicate r.size 0) false))
  else
    let sizes := (s.portAt port).barSizes
    let (w, o) := ntbWindowOf r sizes
    let reg := Off.ntbWin g + 0x10 + 0x10 * w
    let pasid := BitVec.ofNat 20 (s.hubField (reg + 8) 19 0)
    let va := ntbAddress (s.hubField reg 56 12 * 4096) (if r.bar = 1 then sizes.1 else sizes.2) o
    let fault := fun (s : State) =>
      let s := s.faultRecord (mkRecord 8 w (some pasid) o (whoRid r.rid))
      Host.Outcome.next (if r.write then s else s.emitTlp port (.completion r.rid false [] false))
    if s.hubField reg 0 0 == 0 then fault s
    else
      match s.translate pasid va (if r.write then .write else .read) with
      | (s, .ok pa mt) =>
        if mt == 4 && r.write then fault s
        else .next (s.endpointServe port r.rid pa r.size (if r.write then some (r.data.take r.size, r.ep) else none))
      | (s, _) => fault s

/-! ### Domain peers (R66, R69) -/

/-- Which enable an access needs, and the SUB of its refusal. -/
def domainBit (o : DomainOp) : Nat := match o with | .read => 0 | .write _ _ => 1 | .atomic _ _ => 2

/-- INBOUND_DOMAIN_ACCESS R69: the export windows admit the access to the package's own memory, or it is refused. An access that a
window admits at an offset where this package has no memory is refused without a record; the manual does not say
(notes/assumptions/66.md). -/
def execInboundDomainAccess (r : DomainRequest) (s : State) : Host.Outcome State Fault Refusal :=
  let a := r.offset.toNat
  let refuse := fun (s : State) => s.emit (.peerReply r.peer false [] false)
  if !s.exported a r.size (domainBit r.op) then
    .next (refuse (s.faultRecord (mkRecord 0x0A (domainBit r.op + 1) none a (r.peer.setWidth 64))))
  else if !(s.regionAt a == .hbm || s.regionAt a == .vault) then .next (refuse s)
  else
    match r.op with
    | .read => .next ((s.decoded a r.size).emit (.peerReply r.peer true (s.bytes a r.size) (s.poisonIn a r.size)))
    | .write bs ep => .next ((s.writePoison a (bs.take r.size) ep).emit (.peerReply r.peer true [] false))
    | .atomic aop d =>
      let h := s.homeAtomic a r.size aop.toNat d.toNat
      .next (h.1.emit (.peerReply r.peer true h.2 (s.poisonIn a r.size)))

end Sys2Proof.Machine
end

