-- ==== Sys2Proof/Machine/Tables.lean ====
section
/-!
DEFINITION. The table engine (R82, R87 to R92), the acknowledgement of finished resizes (R115), and the page-request queue (R102
to R104).
-/

namespace Sys2Proof.Machine

/-! ### XLT_PDIR (R82) -/

/-- A partition, a task queue, a default PASID or a bridge window is enabled: XLT_PDIR takes no write. -/
def State.spacesInUse (s : State) : Bool :=
  (List.range 16).any s.partEn ||
    (List.range 64).any (fun q => s.hubField (Off.tq q + 8) 20 20 == 1) ||
    (List.range 64).any (fun p => s.hubField (Off.xltDefp p) 20 20 == 1) ||
    (List.range 16).any (fun g => (List.range 8).any fun w => s.hubField (Off.ntbWin g + 0x10 + 0x10 * w) 0 0 == 1)

/-- Lines leave the instruction caches of all cores. -/
def State.dropLines (s : State) (stale : BitVec 20 × Nat × List Byte → Bool) : State :=
  { s with cores := s.cores.map fun (n, x) => (n, { x with lines := x.lines.filter fun l => !stale l }) }

/-- XLT_PDIR_WRITE R82: a write that takes effect discards the lines that were fetched through the old directory. -/
def execXltPdirWrite (data : DWord) (s : State) : Host.Outcome State Fault Refusal :=
  let d := data.toNat
  if s.spacesInUse then .next s
  else
    let s := if field d 4 0 ≤ 20 then s.hubSetField Off.xltPdir 4 0 (field d 4 0) else s
    let s := s.dropLines fun _ => true
    .next ((s.hubSetField Off.xltPdir 5 5 (field d 5 5)).hubSetField Off.xltPdir 51 12 (field d 51 12))

/-! ### Commands (R88, R89) -/

/-- SZ and DESC of a command. -/
def cmdSize (cmd : DWord) : Nat := field cmd.toNat 5 4
def cmdDesc (cmd : DWord) : Nat := field cmd.toNat 51 7 * 128

/-- ARG0 and ARG1 of a port, and both as an entry. -/
def State.tableArg (s : State) (hart i : Nat) : Nat := s.hubGet (Off.updPort hart + 8 * i)
def State.tableEntry (s : State) (hart : Nat) : PageEntry := s.tableArg hart 0 + s.tableArg hart 1 * 2 ^ 64

/-- A command completes with a result. -/
def State.tableDone (s : State) (hart result : Nat) : State := s.hubPut (Off.updPort hart + 0x18) (result * 16)

/-- BUSY of a port. -/
def State.tableBusy (s : State) (hart : Nat) : Bool := s.hubField (Off.updPort hart + 0x18) 0 0 == 1

/-- The command has a code (R88). -/
def cmdKnown (cmd : DWord) : Bool := 1 ≤ field cmd.toNat 3 0 && field cmd.toNat 3 0 ≤ 5

/-- The step of a command. -/
def tableInstr (hart : Nat) (cmd : DWord) : Instr :=
  let h := Fin.ofNat 16 hart
  match field cmd.toNat 3 0 with
  | 1 => .insert h cmd
  | 2 => .remove h cmd
  | 3 => .modify h cmd
  | 4 => .resize h cmd
  | _ => .flush h cmd

/-- The engine is free: no command runs on, and none waits. -/
def State.tableIdle (s : State) : Bool := s.flushWait.isNone && s.tableWaiting.isEmpty

/-- A command waits in line, and its port is busy (R88). -/
def State.tableQueue (s : State) (hart : Nat) (cmd : DWord) : State :=
  { s.hubSetField (Off.updPort hart + 0x18) 0 0 1 with tableWaiting := s.tableWaiting ++ [(hart, cmd)] }

/-- Commands without a code at the head of the line answer BADCMD. -/
def State.tableBad (s : State) : State :=
  if s.flushWait.isSome then s
  else
    let bad := s.tableWaiting.takeWhile fun e => !cmdKnown e.2
    let s := bad.foldl (fun s e => s.tableDone e.1 8) s
    { s with tableWaiting := s.tableWaiting.dropWhile fun e => !cmdKnown e.2 }

/-- What CMD of a port has been given: a command that waits its turn, BADCMD, or the step that runs it. -/
def State.tableDispatch (s : State) (hart : Nat) (cmd : DWord) : State :=
  if !cmdKnown cmd then (if s.tableIdle then s.tableDone hart 8 else s.tableQueue hart cmd) else s.due (tableInstr hart cmd)

/-- A command (R88): the one at the head of the line runs once the engine is free; a port that is busy takes no other; behind
others it waits. Its arguments are those that its port holds as it runs (notes/assumptions/66.md). -/
def State.tableCommand (s : State) (hart : Nat) (cmd : DWord) (run : State → State) : Host.Outcome State Fault Refusal :=
  if s.flushWait.isNone && s.tableWaiting.head? == some (hart, cmd) then
    .next (run { s with tableWaiting := s.tableWaiting.drop 1 }).tableBad
  else if s.tableBusy hart then .next s
  else if s.tableIdle then .next (run s)
  else .next (s.tableQueue hart cmd)

/-- The command whose turn it is. -/
def State.tableDue (s : State) : Option Instr :=
  if s.flushWait.isSome then none else s.tableWaiting.head?.map fun e => tableInstr e.1 e.2

/-- The engine writes an entry. -/
def State.putEntry (s : State) (a : Nat) (e : PageEntry) : State := s.agentWrite a (leBytes e 16)

/-- The slots that a lookup of `va` in size `z` reads and that hold the page. -/
def State.namedSlots (s : State) (desc z va : Nat) : List Nat :=
  if tableEn (s.descCur desc z) && lognOk (tableLogn (s.descCur desc z)) then
    (s.probeSlots desc z va).filter (fun a => entryNames z va (s.entryAt a))
  else []

/-- The VA of an entry's page. -/
def entryVa (e : PageEntry) : Nat := entryVtag e * 4096

/-- A valid entry of size `y` stands for the page of `va`, well formed or not (R86). -/
def State.mappedAt (s : State) (desc y va : Nat) : Bool := s.namedSlots desc y va ≠ []

/-- Another size maps part of the page of size `z` at `va`. -/
def State.overlaps (s : State) (desc z va : Nat) : Bool :=
  (List.range 4).any fun y =>
    tableEn (s.descCur desc y) &&
      (if z < y then s.mappedAt desc y va
       else if y < z then
         (List.range (2 ^ (pageShift z - pageShift y))).any fun i => s.mappedAt desc y (va + i * 2 ^ pageShift y)
       else false)

/-- The candidate buckets of a page, by way (R84, R85). -/
def State.candidates (s : State) (desc z va : Nat) : List Nat := (List.range 3).map fun w => s.probeBucket desc z w va

/-- A slot without an entry in a list of buckets. -/
def State.freeSlot (s : State) (buckets : List Nat) : Option Nat :=
  (buckets.flatMap fun b => (List.range 4).map fun j => b + 16 * j).find? fun a => !entryV (s.entryAt a)

/-- Places an entry in one of these buckets, with at most `fuel` displacements, each of an entry into another bucket of its
own. Which entry moves is the model's choice (R89). -/
def State.placeIn (s : State) (desc z : Nat) (e : PageEntry) (buckets : List Nat) (fuel : Nat) : Option State :=
  match s.freeSlot buckets with
  | some a => some (s.putEntry a e)
  | none =>
    match fuel, buckets with
    | n + 1, b :: bs =>
      let home := (b :: bs).getD (n % (bs.length + 1)) b
      let a := home + 16 * (n % 4)
      let victim := s.entryAt a
      (s.putEntry a e).placeIn desc z victim ((s.candidates desc z (entryVa victim)).filter (· ≠ home)) n
    | _, _ => none

/-- Why an INSERT fails, in the order of R89; 0 where it may be placed. -/
def State.insertCode (s : State) (desc z : Nat) (e : PageEntry) : Nat :=
  let cur := s.descCur desc z
  if !(tableEn cur && lognOk (tableLogn cur)) then 9
  else if !entryV e || !s.entryWf z e then 4
  else if s.namedSlots desc z (entryVa e) ≠ [] then 1
  else if s.overlaps desc z (entryVa e) then 5
  else 0

/-- INSERT R89. -/
def execInsert (hart : Fin 16) (cmd : DWord) (s : State) : Host.Outcome State Fault Refusal :=
  s.tableCommand hart cmd fun s =>
    let desc := cmdDesc cmd
    let z := cmdSize cmd
    let e := s.tableEntry hart
    let code := s.insertCode desc z e
    if code ≠ 0 then s.tableDone hart code
    else
      match s.placeIn desc z e (s.candidates desc z (entryVa e)) 32 with
      | some s => s.tableDone hart 0
      | none => s.tableDone hart 3

/-- SPACE of a descriptor (R81). -/
def State.descSpace (s : State) (desc : Nat) : Nat := s.readNat (desc + 0x60) 8

/-- A crew has accesses that are translated and not performed: stores that a rollback interval holds, or doorbells. -/
def State.crewHolds (s : State) (c : Nat) : Bool :=
  (s.crew c).held != [] || s.ports.any (fun p => (Port.doorbells p.2).any fun d => d.crew == c) ||
    s.waves.any fun e => e.2.crew == c && e.2.threads.any fun t =>
      (match Thread.block t.2 with | some (.doorbell _ _ _ _) => true | _ => false)

/-- A request that has left the package was translated by an entry of this space in [lo, hi). Those of endpoints keep no address and
all count. -/
def State.sentThrough (s : State) (desc lo hi : Nat) (o : Outstanding) : Bool :=
  match o.who with
  | .thread | .word _ _ _ => s.spaceOf o.pasid.toNat == some desc && lo ≤ o.va && o.va < hi
  | .endpoint _ _ => true
  | .hart _ => false

/-- What the command that invalidates still waits for is looked at again; with nothing left it completes (R90). -/
def State.flushTick (s : State) : State :=
  match s.flushWait with
  | none => s
  | some f =>
    let tags := f.tags.filter fun t => s.outstanding.any fun o => o.tag == t
    let crews := f.crews.filter s.crewHolds
    if f.rids.isEmpty && tags.isEmpty && crews.isEmpty then ({ s.tableDone f.hart f.result with flushWait := none } : State).tableBad
    else { s with flushWait := some { f with tags := tags, crews := crews } }

/-- The invalidation of R90 for the pages in [lo, hi): lines that cores have fetched from them are discarded, every endpoint that was
granted one of them is asked, and the command stays busy until the accesses already translated have been performed and all
endpoints have acknowledged. -/
def State.invalidate (s : State) (hart desc lo hi : Nat) : State :=
  let sp := s.descSpace desc
  let pasid := BitVec.ofNat 20 sp
  let hit := fun (g : AtsGrant) => field sp 20 20 == 1 && g.pasid == pasid && lo ≤ g.va && g.va < hi
  let asked := ((s.atsHolders.filter hit).map fun g => (g.port, g.rid)).eraseDups
  let rids := (asked.map (·.2)).eraseDups
  let stale := fun (e : BitVec 20 × Nat × List Byte) => s.spaceOf e.1.toNat == some desc && lo ≤ e.2.1 && e.2.1 < hi
  let f : FlushWait :=
    { hart := hart, since := s.gtime, result := 0, rids := rids, tags := (s.outstanding.filter (s.sentThrough desc lo hi)).map (·.tag)
      crews := (s.crews.filter fun e =>
        e.2.live && s.spaceOf (s.launchAt (Crew.launch e.2)).record.pasid.toNat == some desc && s.crewHolds e.1).map (·.1) }
  let s := s.dropLines stale
  let s := asked.foldl (fun s e => s.emitTlp e.1 (.invalidate e.2 pasid)) s
  ({ s.hubSetField (Off.updPort hart + 0x18) 0 0 1 with
      flushWait := some f, atsHolders := s.atsHolders.filter (fun h => !hit h) } : State).flushTick

/-- The limits of the page of size `z` at `va`. -/
def pageLo (z va : Nat) : Nat := va % 2 ^ 57 / 2 ^ pageShift z * 2 ^ pageShift z

/-- REMOVE R89: every entry of the page is cleared. -/
def execRemove (hart : Fin 16) (cmd : DWord) (s : State) : Host.Outcome State Fault Refusal :=
  s.tableCommand hart cmd fun s =>
    let desc := cmdDesc cmd
    let z := cmdSize cmd
    let va := s.tableArg hart 0
    match s.namedSlots desc z va with
    | [] => s.tableDone hart 2
    | as => (as.foldl (fun s a => s.putEntry a 0) s).invalidate hart desc (pageLo z va) (pageLo z va + 2 ^ pageShift z)

/-- MODIFY R89: the new entry stands in place of every old one. -/
def execModify (hart : Fin 16) (cmd : DWord) (s : State) : Host.Outcome State Fault Refusal :=
  s.tableCommand hart cmd fun s =>
    let desc := cmdDesc cmd
    let z := cmdSize cmd
    let e := s.tableEntry hart
    let va := entryVa e
    match s.namedSlots desc z va with
    | [] => s.tableDone hart 2
    | as =>
      if pageLo z va ≠ va then s.tableDone hart 2
      else if !entryV e || !s.entryWf z e then s.tableDone hart 4
      else (as.foldl (fun s a => s.putEntry a e) s).invalidate hart desc va (va + 2 ^ pageShift z)

/-- RESIZE R89. -/
def execResize (hart : Fin 16) (cmd : DWord) (s : State) : Host.Outcome State Fault Refusal :=
  s.tableCommand hart cmd fun s =>
    let desc := cmdDesc cmd
    let z := cmdSize cmd
    let cur := s.descCur desc z
    let new := s.tableArg hart 0
    if !(tableEn cur && lognOk (tableLogn cur)) then s.tableDone hart 9
    else if tableEn (s.descNew desc z) then s.tableDone hart 6
    else if !tableEn new || field new 11 6 ≠ 0 || field new 63 52 ≠ 0 || !lognOk (tableLogn new) ||
        tableLogn new = tableLogn cur then s.tableDone hart 4
    else
      let s := (s.agentWrite (desc + 0x18 * z + 8) (leBytes new 8)).agentWrite (desc + 0x18 * z + 16) (leBytes 0 8)
      { s.tableDone hart 0 with tableResize := s.tableResize ++ [{ desc := BitVec.ofNat 52 desc, size := z, held := false }] }

/-- FLUSH R89: every page of the space. -/
def execFlush (hart : Fin 16) (cmd : DWord) (s : State) : Host.Outcome State Fault Refusal :=
  s.tableCommand hart cmd fun s => s.invalidate hart (cmdDesc cmd) 0 (2 ^ 57)

/-- INVALIDATION_ACKNOWLEDGE R90. -/
def execInvalidationAcknowledge (rid : BitVec 16) (s : State) : Host.Outcome State Fault Refusal :=
  match s.flushWait with
  | none => .next s
  | some f => .next ({ s with flushWait := some { f with rids := f.rids.filter (· ≠ rid) } } : State).flushTick

/-- An endpoint has not acknowledged an invalidation within 10 ms (R90). -/
def State.flushLate (s : State) : Bool :=
  s.flushWait.any fun f => !f.rids.isEmpty && f.since.toNat + 10 ^ 7 ≤ s.gtime.toNat

/-- ATS_INVALIDATION_TIMEOUT R90: the change stands; the endpoints that did not answer within 10 ms are no longer trusted. -/
def execAtsInvalidationTimeout (s : State) : Host.Outcome State Fault Refusal :=
  match s.flushWait with
  | none => .next s
  | some f =>
    if !s.flushLate then .next s
    else
      .next ({ s with
        distrusted := (f.rids ++ s.distrusted).eraseDups, flushWait := some { f with rids := [], result := 7 } } : State).flushTick

/-! ### Resizes in progress (R91) -/

/-- The entries of bucket MPTR move into the new table; none where one cannot be placed. `desc` and `z` name the table. -/
def State.migrateBucket (s : State) (desc z : Nat) : Option State :=
  let cur := s.descCur desc z
  let new := s.descNew desc z
  let i := field (s.descMptr desc z) 24 0
  let slots := (List.range 3).flatMap fun w => (List.range 4).map fun j => bucketAddr cur w i + 16 * j
  let es := (slots.map s.entryAt).filter entryV
  let s := (slots.foldl (fun s a => s.putEntry a 0) s).agentWrite (desc + 0x18 * z + 16) (leBytes (i + 1) 8)
  es.foldl (fun (acc : Option State) e =>
    match acc with
    | none => none
    | some s =>
      let v := entryVa e >>> pageShift z
      let ways := (List.range 3).filter fun w => bucketHash w v (tableLogn cur) ≤ i
      s.placeIn desc z e (ways.map fun w => bucketAddr new w (bucketHash w v (tableLogn new))) 32) (some s)

/-- A resize of this table. -/
def Resize.of (r : Resize) (desc z : Nat) : Bool := r.desc.toNat == desc && r.size == z

/-- The last bucket has moved: NEW becomes CUR, and the interrupt is raised. -/
def State.migrateEnd (s : State) (desc z : Nat) : State :=
  let o := desc + 0x18 * z
  let new := s.descNew desc z
  if 2 ^ tableLogn (s.descCur desc z) ≤ field (s.descMptr desc z) 24 0 then
    { ((s.agentWrite o (leBytes new 8)).agentWrite (o + 8) (leBytes (setField new 5 5 0) 8)).agentWrite (o + 16) (leBytes 0 8) with
      tableResize := s.tableResize.filter fun r => !r.of desc z, resizeDone := s.resizeDone + 1 }
  else s

/-- The migration of a table holds, or does not. -/
def State.holdResize (s : State) (desc z : Nat) (b : Bool) : State :=
  { s with tableResize := s.tableResize.map fun r => if r.of desc z then { r with held := b } else r }

/-- One step of a resize: a bucket moves, or the migration holds (R91). -/
def State.migrate (s : State) (r : Resize) : State :=
  match s.migrateBucket r.desc.toNat r.size with
  | some t => (t.holdResize r.desc.toNat r.size false).migrateEnd r.desc.toNat r.size
  | none => s.holdResize r.desc.toNat r.size true

/-- RESIZE_MIGRATE_STEP R91: a step of the oldest resize that does not hold. -/
def execResizeMigrateStep (s : State) : Host.Outcome State Fault Refusal :=
  match s.tableResize.find? (!·.held) with
  | some r => .next (s.migrate r)
  | none => .next s

/-- RESIZE_RETRY R91: the resizes that hold try again. -/
def execResizeRetry (s : State) : Host.Outcome State Fault Refusal :=
  .next ((s.tableResize.filter (·.held)).foldl (fun s r => s.migrate r) s)

/-- TBL_ACK R115. -/
def execTblAck (data : DWord) (s : State) : Host.Outcome State Fault Refusal :=
  .next (if data = 1 then { s with resizeDone := s.resizeDone - 1 } else s)

/-! ### The page-request queue (R102 to R104) -/

/-- A tag at or after `t` that no unanswered request holds. -/
def State.rtagFrom (s : State) (t : BitVec 16) (fuel : Nat) : BitVec 16 :=
  match fuel with
  | 0 => t
  | n + 1 => if s.requests.any (fun r => r.rtag == some t) then s.rtagFrom (t + 1) n else t

def State.freeRtag (s : State) : BitVec 16 := s.rtagFrom s.nextRtag s.requests.length

/-- The 32 bytes of a page-request entry (R103). -/
def PageReq.bytes (r : PageReq) (gtime : DWord) : List Byte :=
  let bit := fun (b : Bool) n => b.toNat * 2 ^ n
  leBytes (bit r.pri 0 + bit r.rd 2 + bit r.wr 3 + bit r.ex 4 + bit r.priv 5 + bit r.last 6 + bit r.perm 7 +
      (r.rtag.getD 0).toNat * 2 ^ 16 + r.pasid.toNat * 2 ^ 32 + bit r.pv 52) 8 ++
    leBytes (r.va.toNat % 2 ^ 57 / 4096 * 4096) 8 ++
    leBytes (r.who.toNat + (if r.pri then r.prg.toNat else r.cnt) * 2 ^ 16) 8 ++ leBytes gtime.toNat 8

/-- PRQ_APPEND R102: the oldest device fault that waits in the hub enters the ring. -/
def execPrqAppend (s : State) : Host.Outcome State Fault Refusal :=
  if s.queueFull Off.prqCfg then .next s
  else
    match s.requests.findIdx? (fun r => r.rtag.isNone) with
    | none => .next s
    | some i =>
      match s.requests[i]? with
      | none => .next s
      | some r =>
        let tag := s.freeRtag
        let r := { r with rtag := some tag }
        .next { s.ringAppend Off.prqCfg (r.bytes s.gtime) with requests := s.requests.set i r, nextRtag := tag + 1 }

/-- PAGE_REQUEST R102: a PRI request becomes an entry, with the space of R80; one group, which ends with its Last
Request, shares one RTAG; with no room it is answered at once. -/
def execPageRequest (r : PriRequest) (s : State) : Host.Outcome State Fault Refusal :=
  if s.turnsAway r.port r.rid false r.badEcrc then .next (s.aerLog r.port)
  else if s.queueFull Off.prqCfg then .next ((s.emitTlp r.port (.prg r.rid r.prg 0)).hubCount Off.prqTail 63 32 1)
  else
    let group := s.requests.find? fun q => q.pri && q.who == r.rid && q.prg == r.prg && q.port == r.port.val &&
      !s.requests.any fun x => x.rtag == q.rtag && x.last
    let tag := match group with | some q => q.rtag.getD 0 | none => s.freeRtag
    let q : PageReq :=
      { rtag := some tag, pri := true, pasid := (s.busPasid r.port r.pasid).getD 0, pv := r.pasid.isSome, va := r.va, rd := r.rd, wr := r.wr,
        ex := r.ex, perm := false, priv := r.priv, last := r.last, who := r.rid, prg := r.prg, cnt := 0, port := r.port }
    .next { s.ringAppend Off.prqCfg (q.bytes s.gtime) with
      requests := s.requests ++ [q]
      nextRtag := if group.isSome then s.nextRtag else tag + 1 }

/-- An answer for a device fault: waiting fetches and calls are resolved at once, log entries at their replay (R104). The launch
of a crew that is not resident faults where a page of it is refused with CODE 2. -/
def State.answerFault (s : State) (r : PageReq) (code : BitVec 2) : State :=
  let s := s.answerPages r code
  let s := ((s.waves.filter (·.2.live)).map (·.1)).foldl (fun s k => s.resolveWave k) s
  let hit := s.crews.filter fun e =>
    e.2.live && !e.2.resident && (Crew.saved e.2).any (fun w => Wave.hasAnswer w.2 2) && code == 2
  ((hit.map fun e => Crew.launch e.2).eraseDups).foldl (fun s n => s.due (.launchFault n 0x0A 0 0)) s

/-- PRQ_RESP R104. -/
def execPrqResp (data : DWord) (s : State) : Host.Outcome State Fault Refusal :=
  let tag := data.extractLsb' 0 16
  let code := data.extractLsb' 16 2
  match s.requests.find? (fun r => r.rtag == some tag) with
  | none => .next (s.faultRecord (mkRecord 6 1 none 0 0))
  | some r =>
    if code = 3 then .next (s.faultRecord (mkRecord 6 2 none 0 0))
    else
      let s := { s with requests := s.requests.filter (fun q => q.rtag ≠ some tag) }
      .next (if r.pri then s.emitTlp r.port (.prg r.who r.prg code.toNat) else s.answerFault r code)

end Sys2Proof.Machine
end

