-- ==== Sys2Proof/Machine/Registers.lean ====
section
/-!
DEFINITION. Writes of Loam harts to hub registers (R5, R6, R527): the registers whose write is a step of its own, and the
others by the types of their fields with the limits of their descriptions.
-/

namespace Sys2Proof.Machine

/-- The new value `v` of a register with field [hi:lo] left as it was unless `ok` admits it. -/
def keepUnless (old v hi lo : Nat) (ok : Nat → Bool) : Nat :=
  if ok (field v hi lo) then v else setField v hi lo (field old hi lo)

/-- What a write leaves in the register at `o`, where `v` follows from the field types alone. -/
def State.limited (s : State) (o old v : Nat) : Nat :=
  if o == Off.prqCfg || o == Off.faultQ || o == Off.failQ then keepUnless old v 4 0 fun n => 6 ≤ n && n ≤ 16
  else if o == Off.gtimeRate then
    keepUnless old v 31 0 fun n => -(2 ^ 22 : Int) ≤ sextNat n 32 && sextNat n 32 ≤ (2 ^ 22 : Int)
  else if o == Off.ubnorId then keepUnless old v 7 0 fun _ => !old.testBit 8
  else if o == Off.vshadow then keepUnless old v 4 0 fun n => n == 10 || n == 16 || n == 22
  else if 0x7000 ≤ o && o < 0x7400 && o % 0x40 == 8 then
    keepUnless old (keepUnless old v 19 0 fun _ => !old.testBit 20) 35 24 fun n => 16 ≤ n
  else if 0x9000 ≤ o && o < 0xA000 && o % 0x40 == 8 then keepUnless old v 19 0 fun _ => !old.testBit 20
  else if 0xB000 ≤ o && o < 0xB800 && o % 0x20 == 8 then keepUnless old v 11 0 fun n => n ≤ 3071
  else if 0xB800 ≤ o && o < 0xB820 then keepUnless old v 7 0 fun n => s.srailOk ((o - 0xB800) / 8) n
  else if 0xC000 ≤ o && o < 0xC200 && o % 0x40 == 0x10 then keepUnless old v 7 0 fun n => 1 ≤ n && n ≤ 12
  else if 0x40000 ≤ o && o < 0x42000 && o % 0x200 == 0 then
    keepUnless old (keepUnless old v 5 0 fun n => 21 ≤ n && n ≤ 40) 13 8 fun n => 21 ≤ n && n ≤ 40
  else v

/-- A register that takes no write now: CLUSTERS, SPBACK and BIND while enabled (R134, R168, R258), VSHADOW while a partition
is (R156). -/
def State.frozen (s : State) (o : Nat) : Bool :=
  if o == Off.vshadow then (List.range 16).any s.partEn
  else if 0x7000 ≤ o && o < 0x7400 && o % 0x40 == 0 then s.partEn ((o - 0x7000) / 0x40)
  else if 0x7800 ≤ o && o < 0x7A00 then s.partEn ((o - 0x7800) / 0x20)
  else if 0x9000 ≤ o && o < 0xA000 && o % 0x40 == 0 then s.hubField (o + 8) 20 20 == 1
  else false

/-- What follows a write of the register at `o`: a service request (R255), a new way to discipline %gtime (R161). -/
def State.afterWrite (s : State) (o written mask : Nat) : State :=
  if o == Off.service && written.testBit 31 && s.service.isNone then s.serviceGo
  else if o == Off.tsrc && field mask 1 0 ≠ 0 then { s with sourceSeen := s.gtime }
  else s

/-- The parts of a capture entry that a write of the bits `mask` of its first or its second doubleword writes. -/
def captureParts (first : Bool) (mask : Nat) : Nat :=
  if first then (if field mask 31 0 ≠ 0 then 1 else 0) + (if field mask 63 32 ≠ 0 then 2 else 0)
  else if field mask 15 0 ≠ 0 then 4 else 0

/-- A rewriting that has written these parts leaves a whole entry: one with V = 0, or one whose word is written, and its requester ID too
where the word asks for it. -/
def captureWhole (word parts : Nat) : Bool :=
  !word.testBit 0 || (parts % 4 == 3 && (!word.testBit 2 || parts.testBit 2))

/-- A write of a capture entry is part of its rewriting (R53): until all that the new entry needs is written, the entry that was in force
stays so, and no capture meets a mix (notes/assumptions/70.md). `t` is the state after the write, `s` the one before. -/
def State.rewriteCapture (s t : State) (o mask : Nat) : State :=
  let n := (o - 0x10000) / 16
  let parts := captureParts (o % 16 == 0) mask
  let old := SMap.find s.captureOld n
  if o < 0x10000 || 0x20000 ≤ o || parts = 0 || (old.isNone && t.hubGet o = s.hubGet o) then t
  else
    let all := parts ||| (old.map CaptureOld.parts).getD 0
    if captureWhole (t.hubGet (Off.capture n)) all then { t with captureOld := SMap.erase t.captureOld n }
    else { t with captureOld := SMap.put t.captureOld n ⟨(s.captureNow n).1, (s.captureNow n).2, all⟩ }

/-- A write of the bits `mask` to a register that has no step of its own. -/
def State.plainWrite (s : State) (machineMode : Bool) (o data mask : Nat) : State :=
  match hubReg o with
  | none => s
  | some r =>
    if (r.machine && !machineMode) || s.frozen o then s
    else
      let old := s.hubGet o
      (s.rewriteCapture (s.hubPut o (s.limited o old (r.written old data mask))) o mask).afterWrite o (data &&& mask) mask

/-- A register as a partial write leaves it: what it reads where the write does not reach, its RW1C bits 0 there. -/
def State.mergedWrite (s : State) (o data mask w1c : Nat) : DWord :=
  BitVec.ofNat 64 ((s.hubRead o &&& ((2 ^ 64 - 1) ^^^ mask) &&& ((2 ^ 64 - 1) ^^^ w1c)) ||| (data &&& mask))

/-- The step of a register whose write is a row of its own; a partial write that does not reach EN of a partition or a task queue is a
plain one. -/
def State.ownWrite (s : State) (mm : Bool) (o data mask : Nat) : Option Instr :=
  let wo : DWord := BitVec.ofNat 64 (data &&& mask)
  let merged := s.mergedWrite o data mask
  if o == Off.bootCtl then some (.xipOff mm (wo.setWidth 32))
  else if o == Off.pwrCtl then some (.pwrCtlWrite mm ((merged 0).setWidth 32))
  else if 0x1000 ≤ o && o < 0x1400 && o % 0x40 == 0 then
    some (.portCfgApply mm (Fin.ofNat 16 ((o - 0x1000) / 0x40)) ((merged (2 ^ 24)).setWidth 32))
  else if o == Off.xltPdir then some (.xltPdirWrite (merged 0))
  else if o == Off.prqResp then some (.prqResp wo)
  else if o == Off.tblAck then some (.tblAck wo)
  else if o == Off.wakePort then some (.wakePort wo)
  else if o == Off.gtimeSlew then some (.slew mm wo)
  else if o == Off.gtimeSet then some (.gtimeSet mm wo)
  else if 0x7000 ≤ o && o < 0x7400 && o % 0x40 == 8 then
    let d := merged (2 ^ 21)
    let p := Fin.ofNat 16 ((o - 0x7000) / 0x40)
    if !mask.testBit 20 then none else some (if d.getLsbD 20 then .partitionEnable mm p d else .partitionDisable mm p d)
  else if 0x9000 ≤ o && o < 0xA000 && o % 0x40 == 8 then
    let d := merged (2 ^ 21)
    let q := Fin.ofNat 64 ((o - 0x9000) / 0x40)
    if !mask.testBit 20 then none else some (if d.getLsbD 20 then .tqEnable mm q d else .tqDisable mm q d)
  else if 0xB000 ≤ o && o < 0xB800 && o % 0x20 == 0 then
    some (.l2ProfileWrite mm (Fin.ofNat 64 ((o - 0xB000) / 0x20)) (merged 0))
  else if 0xB000 ≤ o && o < 0xB800 && o % 0x20 == 0x10 then
    some (.l2WmaskWrite mm (Fin.ofNat 64 ((o - 0xB000) / 0x20)) (merged 0))
  else if 0x20000 ≤ o && o < 0x30000 && o % 0x1000 == 0x50 then
    some (.submit (Fin.ofNat 16 ((o - 0x20000) / 0x1000)) wo)
  else if 0x30000 ≤ o && o < 0x34000 && o % 0x40 == 0 then
    some (.marginCtlWrite mm (Fin.ofNat 256 ((o - 0x30000) / 0x40)) (merged 0))
  else none

/-- CMD of an update port (R88). -/
def updateCommand (o : Nat) : Option Nat :=
  if 0x4800 ≤ o && o < 0x4C00 && o % 0x40 == 0x10 then some ((o - 0x4800) / 0x40) else none

/-- A Loam hart writes the bytes of `mask` in the aligned doubleword at `o`. -/
def State.registerWrite (s : State) (mm : Bool) (o data mask : Nat) : State :=
  match updateCommand o with
  | some h => if s.tableBusy h then s else s.tableDispatch h (BitVec.ofNat 64 (data &&& mask))
  | none =>
    match s.ownWrite mm o data mask with
    | some i => s.due i
    | none => s.plainWrite mm o data mask

/-- REGISTER_WRITE R5. -/
def execRegisterWrite (w : HubWrite) (s : State) : Host.Outcome State Fault Refusal :=
  .next (s.registerWrite w.machineMode (w.offset / 8 * 8) w.data.toNat (byteMask w.bytes))

/-! ### Registers that act (R116, R118, R123 to R125, R160, R161) -/

/-- WAKE_PORT R123. -/
def execWakePort (data : DWord) (s : State) : Host.Outcome State Fault Refusal :=
  .next (s.wakeLine (field data.toNat 51 6))

/-- RESULT of a submit (R124). -/
def State.submitResult (s : State) (hart r : Nat) : State := s.hubSetField (Off.push hart + 0x58) 1 0 r

/-- SUBMIT R125: CMD of the window is offered to its queue, once the hart's stores to domain peers are acknowledged (R73, R297). -/
def execSubmit (hart : Fin 16) (data : DWord) (s : State) : Host.Outcome State Fault Refusal :=
  let h := hart.val
  if !data.getLsbD 0 then .next s
  else if s.outstanding.any fun o => o.who == .hart h && o.access.kind.isStore then
    .next (s.modHart h fun x => { x with waits := some (.submit hart data) })
  else
    let q := s.hubField (Off.push h + 0x40) 11 0
    let pasid := BitVec.ofNat 20 (s.hubField (Off.push h + 0x48) 19 0)
    let words := (List.range 16).map fun i =>
      (BitVec.ofNat 32 (s.hubGet (Off.push h + 8 * (i / 2)) / 2 ^ (32 * (i % 2))) : Word)
    match s.queueAnswer q pasid true, s.spaceOf pasid.toNat with
    | .rejected, _ => .next (s.submitResult h 2)
    | _, none => .next (s.submitResult h 3)
    | .full, _ => .next ((s.countFull q).submitResult h 1)
    | .accepted, _ => .next ((s.enqueue q words pasid none).submitResult h 0)

/-- MTIP of a hart as it should be (R116). -/
def State.timerPast (s : State) (h : Nat) : Bool := s.hubGet (Off.mtimecmp h) ≤ s.gtime.toNat

/-- MACHINE_TIMER R116. -/
def execMachineTimer (hart : Fin 16) (s : State) : Host.Outcome State Fault Refusal :=
  .next (s.modHart hart fun x => { x with mtip := s.timerPast hart })

/-- SLEW R118: a signed offset replaces what is left of the one before. -/
def execSlew (machineMode : Bool) (data : DWord) (s : State) : Host.Outcome State Fault Refusal :=
  .next (if machineMode then { s with slewLeft := data.toInt, slewAcc := 0 } else s)

/-- A launch is admitted, or a Thyme entry is valid (R118). A task wave that is placed counts: the manual does not say whether it is a launch
here (notes/assumptions/66.md). -/
def State.timeInUse (s : State) : Bool :=
  s.launches.any (fun e => e.2.state == .active && !e.2.ended) || s.thyme.any (fun e => e.2.valid)

/-- GTIME_SET R118; the time since the source was last seen stays. -/
def execGtimeSet (machineMode : Bool) (data : DWord) (s : State) : Host.Outcome State Fault Refusal :=
  if !machineMode then .next s
  else if s.timeInUse then .next (s.faultRecord (mkRecord 0x0C 0 none 0 0))
  else .next { s with gtime := data, sourceSeen := data - (s.gtime - s.sourceSeen) }

/-- PPS_EDGE R160: %gtime, and the seconds of the time-of-day pins, are captured. -/
def execPpsEdge (seconds : BitVec 48) (valid : Bool) (s : State) : Host.Outcome State Fault Refusal :=
  let s := (s.hubPut (Off.tsrc + 8) s.gtime.toNat).hubPut (Off.tsrc + 16) (seconds.toNat + valid.toNat * 2 ^ 63)
  .next (if s.hubField Off.tsrc 1 0 = 1 then { s with sourceSeen := s.gtime } else s)

/-- The source has been silent for TIMEOUT ms (R161). -/
def State.sourceLate (s : State) : Bool :=
  let mode := s.hubField Off.tsrc 1 0
  (mode == 1 || mode == 2) && s.hubField Off.tsrc 31 16 * 10 ^ 6 ≤ (s.gtime - s.sourceSeen).toNat

/-- TIME_SOURCE_LOST R161. -/
def execTimeSourceLost (s : State) : Host.Outcome State Fault Refusal :=
  if s.sourceLate then .next { s.hubSetField (Off.tsrc + 24) 0 0 1 with sourceSeen := s.gtime } else .next s

end Sys2Proof.Machine
end

