-- ==== Sys2Proof/Machine/Walk.lean ====
section
/-!
DEFINITION. The address translation of the Loam harts (R79, R80, R100, R101, R109). Mode 15 is this manual's; the walks of Sv39, Sv48
and Sv57 and of the G stage are those of the RISC-V privileged architecture, which R100 and R101 name: PRESUMED,
notes/assumptions/51.md.
-/

namespace Sys2Proof.Machine

/-- Where an access goes: a physical address with its memory type, or the way it ends. -/
inductive LoamXlat where
  | ok (pa mt : Nat)
  | ends (r : LoamResult)
deriving DecidableEq, Repr

/-- The permissions that an access needs. -/
def loamNeed (op : LoamOp) : Need :=
  match op with
  | .store _ | .storeConditional _ => .write
  | .amo _ _ => .both
  | .fetch => .fetch
  | _ => .read

/-! ### Standard walks -/

/-- What a walk comes to: a leaf entry with log2 of its page, or a fault: of the page, of the access to an entry, of the G stage. -/
inductive WalkOut where
  | leaf (pte shift : Nat)
  | page
  | access
  | guest
deriving DecidableEq, Repr

/-- The levels of mode 8 (Sv39), 9 or 10, root first: the lowest bit and the number of bits of each index; a G-stage root has two
bits more. -/
def walkLevels (mode : Nat) (gStage : Bool) : List (Nat × Nat) :=
  (List.range (mode - 5)).reverse.map fun i => (12 + 9 * i, if gStage && i = mode - 6 then 11 else 9)

/-- A walk through `levels` from the table at `base`; `read` gives an entry, or the fault of reading it. -/
def walk (read : Nat → Except WalkOut Nat) (levels : List (Nat × Nat)) (base va : Nat) : WalkOut :=
  match levels with
  | [] => .page
  | (shift, bits) :: rest =>
    match read (base + 8 * field va (shift + bits - 1) shift) with
    | .error e => e
    | .ok e =>
      if field e 0 0 = 0 || (field e 1 1 = 0 && field e 2 2 = 1) || field e 60 54 ≠ 0 then .page
      else if field e 1 1 = 1 || field e 3 3 = 1 then
        if field e 63 63 = 1 then (if shift = 12 && field e 13 10 = 8 then .leaf e 16 else .page)
        else if field e 53 10 % 2 ^ (shift - 12) = 0 then .leaf e shift
        else .page
      else if field e 63 61 ≠ 0 then .page
      else walk read rest (field e 53 10 * 4096) va

/-- The addresses of the entries that a walk reads. -/
def walkPath (read : Nat → Except WalkOut Nat) (levels : List (Nat × Nat)) (base va : Nat) : List Nat :=
  match levels with
  | [] => []
  | (shift, bits) :: rest =>
    let a := base + 8 * field va (shift + bits - 1) shift
    a :: (match read a with
      | .ok e => if field e 3 0 = 1 then walkPath read rest (field e 53 10 * 4096) va else []
      | .error _ => [])

/-- The address that a leaf gives. -/
def leafAddress (pte shift va : Nat) : Nat := field pte 53 10 * 4096 / 2 ^ shift * 2 ^ shift + va % 2 ^ shift

/-- A leaf permits an access, with A set, and D for a write. -/
def leafAllows (pte : Nat) (need : Need) (mxr : Bool) : Bool :=
  (!need.rd || field pte 1 1 == 1 || (mxr && !need.wr && field pte 3 3 == 1)) && (!need.wr || (field pte 2 2 == 1 && field pte 7 7 == 1)) &&
    (!need.ex || field pte 3 3 == 1) && field pte 6 6 == 1

/-- An entry of a standard table at a host address. -/
def State.hostPte (s : State) (a : Nat) : Except WalkOut Nat :=
  match s.localPa a 8 0 with
  | some p => if s.poisonIn p 8 then .error .access else .ok (s.readNat p 8)
  | none => .error .access

/-- The G stage (R101): the host address and PBMT of a guest-physical address through hgatp. -/
def State.gStage (s : State) (hgatp : DWord) (gpa : Nat) (need : Need) (mxr : Bool) : Except WalkOut (Nat × Nat) :=
  let mode := field hgatp.toNat 63 60
  if mode = 0 then (if gpa < 2 ^ 52 then .ok (gpa, 0) else .error .access)
  else if mode < 8 || 10 < mode || 2 ^ (9 * (mode - 5) + 14) ≤ gpa then .error .guest
  else
    match walk s.hostPte (walkLevels mode true) (field hgatp.toNat 43 0 / 4 * 4 * 4096) gpa with
    | .leaf pte shift =>
      if field pte 4 4 = 1 && field pte 62 61 ≠ 3 && leafAllows pte need mxr then .ok (leafAddress pte shift gpa, field pte 62 61)
      else .error .guest
    | .access => .error .access
    | _ => .error .guest

/-- The host addresses of the entries that the G stage reads for a guest-physical address. -/
def State.gPath (s : State) (hgatp : DWord) (gpa : Nat) : List Nat :=
  let mode := field hgatp.toNat 63 60
  if mode < 8 || 10 < mode then [] else walkPath s.hostPte (walkLevels mode true) (field hgatp.toNat 43 0 / 4 * 4 * 4096) gpa

/-- An entry of a VS-stage table, whose address is guest-physical. -/
def State.guestPte (s : State) (hgatp : DWord) (a : Nat) : Except WalkOut Nat :=
  match s.gStage hgatp a .read false with
  | .ok (p, _) => s.hostPte p
  | .error e => .error e

/-- The address is canonical for mode 8, 9 or 10. -/
def canonical (mode : Nat) (va : DWord) : Bool :=
  let n := 12 + 9 * (mode - 5)
  va.toNat / 2 ^ (n - 1) = 0 || va.toNat / 2 ^ (n - 1) = 2 ^ (65 - n) - 1

/-- The U bit agrees with the mode: user mode needs it, supervisor mode must not have it but for data under SUM. -/
def userBitOk (us user sum : Bool) (need : Need) : Bool := if user then us else !us || (sum && !need.ex)

/-- A standard translation through satp or vsatp: the address with its PBMT, or a fault. -/
def walkStage (atp : DWord) (read : Nat → Except WalkOut Nat) (user sum mxr : Bool) (va : DWord) (need : Need) :
    Except WalkOut (Nat × Nat) :=
  let mode := field atp.toNat 63 60
  if !canonical mode va then .error .page
  else
    match walk read (walkLevels mode false) (field atp.toNat 43 0 * 4096) (va.toNat % 2 ^ (12 + 9 * (mode - 5))) with
    | .leaf pte shift =>
      if userBitOk (field pte 4 4 == 1) user sum need && field pte 62 61 ≠ 3 && leafAllows pte need mxr then
        .ok (leafAddress pte shift va.toNat, field pte 62 61)
      else .error .page
    | e => .error e

/-! ### Attributes and mode 15 -/

/-- The memory type of a physical address outside mode 15 (R109), with the PBMT of Svpbmt: 1 is NC, 2 is IO, 3 is reserved. -/
def State.regionMt (s : State) (pa pbmt : Nat) (op : LoamOp) : LoamXlat :=
  if pbmt = 3 then .ends (.pageFault op)
  else
    let mt := fun (n : Nat) => LoamXlat.ok pa (if pbmt = 2 then 6 else n)
    match s.regionAt pa with
    | .hbm => mt 0
    | .vault => mt 1
    | .hubMmio | .pcie => mt 6
    | .cxl => mt ((s.pmaMt pa).getD 3)
    | .domain => mt 7
    | .unassigned => .ends (.accessFault op)

/-- SUM and MXR of sstatus or vsstatus. -/
def sumOf (status : DWord) : Bool := status.getLsbD 18
def mxrOf (status : DWord) : Bool := status.getLsbD 19

/-- What the entry of a mode-15 lookup must grant: RD, or EX too for a load under MXR (R100). -/
def State.mode15Need (s : State) (hit : Option (Nat × Nat)) (op : LoamOp) (mxr : Bool) : Need :=
  match hit, loamNeed op with
  | some (_, a), ⟨true, false, false, false⟩ =>
    if mxr && field (s.entryAt a) 1 1 == 0 && field (s.entryAt a) 3 3 == 1 then .fetch else .read
  | _, n => n

/-- An entry admits accesses of this kind at all (R100): its US bit agrees with the mode, and as a leaf it is no reserved one, which
WR without RD would be. -/
def entryServes (e : PageEntry) (user sum : Bool) (need : Need) : Bool :=
  userBitOk (field e 4 4 == 1) user sum need && !(field e 1 1 == 0 && field e 2 2 == 1)

/-- A mode-15 lookup (R79, R83, R85, R100) in the space at atp.PPN, under these SUM and MXR: the address and MT, or a page fault;
records, and A and DT, as for any walker. -/
def State.mode15 (s : State) (atp : DWord) (user sum mxr : Bool) (va : DWord) (op : LoamOp) : State × LoamXlat :=
  let d := field atp.toNat 39 0 * 4096
  let v := va.toNat % 2 ^ 57
  if va.toNat / 2 ^ 57 ≠ (if va.getLsbD 56 then 127 else 0) then (s, .ends (.pageFault op))
  else
    let hit := s.pickHit (s.lookup d v).1
    if hit.any fun e => !entryServes (s.entryAt e.2) user sum (loamNeed op) then
      ((s.walkDecoded none d v).tableRecords none v (s.lookup d v).2, .ends (.pageFault op))
    else
      match s.translateIn d none v (s.mode15Need hit op mxr) with
      | (s, .ok pa mt) => (s, .ok pa mt)
      | (s, _) => (s, .ends (.pageFault op))

/-- How a fault of a walk ends an access. -/
def walkEnds (e : WalkOut) (op : LoamOp) : LoamXlat :=
  match e with
  | .guest => .ends (.guestPageFault op)
  | .access => .ends (.accessFault op)
  | _ => .ends (.pageFault op)

/-- The attribute of an address that stages have found. -/
def State.staged (s : State) (r : Except WalkOut (Nat × Nat)) (op : LoamOp) : LoamXlat :=
  match r with
  | .ok (pa, pbmt) => s.regionMt pa pbmt op
  | .error e => walkEnds e op

/-- An access in S or U mode (R80, R100, R109): satp gives the mode. -/
def State.loamStage (s : State) (h : Hart) (user : Bool) (a : LoamRequest) : State × LoamXlat :=
  match field h.satp.toNat 63 60 with
  | 0 => (s, if a.va.toNat < 2 ^ 52 then s.regionMt a.va.toNat 0 a.op else .ends (.accessFault a.op))
  | 15 => s.mode15 h.satp user (sumOf h.sstatus) (mxrOf h.sstatus) a.va a.op
  | _ => (s, s.staged (walkStage h.satp s.hostPte user (sumOf h.sstatus) (mxrOf h.sstatus) a.va (loamNeed a.op)) a.op)

/-- An access in VS or VU mode (R101): vsatp gives a guest-physical address, and hgatp the host's. The PBMT of the VS-stage leaf, where
it has one, goes before that of the G stage. -/
def State.loamGuest (s : State) (h : Hart) (user : Bool) (a : LoamRequest) : State × LoamXlat :=
  let need := loamNeed a.op
  let g := fun (s : State) (gpa pbmt : Nat) =>
    match s.gStage h.hgatp gpa need (mxrOf h.sstatus) with
    | .ok (pa, p) => s.regionMt pa (if pbmt = 0 then p else pbmt) a.op
    | .error e => walkEnds e a.op
  match field h.vsatp.toNat 63 60 with
  | 0 => (s, g s a.va.toNat 0)
  | 15 =>
    (match s.mode15 h.vsatp user (sumOf h.vsstatus) (mxrOf h.vsstatus || mxrOf h.sstatus) a.va a.op with
     | (s, .ok gpa _) => (s, g s gpa 0)
     | r => r)
  | _ =>
    match walkStage h.vsatp (s.guestPte h.hgatp) user (sumOf h.vsstatus) (mxrOf h.vsstatus || mxrOf h.sstatus) a.va need with
    | .ok (gpa, pbmt) => (s, g s gpa pbmt)
    | .error e => (s, walkEnds e a.op)

/-- The host addresses of the entries that the standard walks of an access read. -/
def State.loamPath (s : State) (a : LoamRequest) : List Nat :=
  let h := s.hartAt a.hart
  let mode := fun (atp : DWord) => field atp.toNat 63 60
  let one := fun (atp : DWord) (read : Nat → Except WalkOut Nat) =>
    if mode atp < 8 || 10 < mode atp || !canonical (mode atp) a.va then []
    else walkPath read (walkLevels (mode atp) false) (field atp.toNat 43 0 * 4096) (a.va.toNat % 2 ^ (12 + 9 * (mode atp - 5)))
  let guest := fun (gpa : Nat) =>
    s.gPath h.hgatp gpa ++ (match s.gStage h.hgatp gpa .read false with | .ok (p, _) => [p] | .error _ => [])
  match a.mode with
  | .m => []
  | .s | .u => one h.satp s.hostPte
  | .vs | .vu =>
    (one h.vsatp (s.guestPte h.hgatp)).flatMap guest ++
      (if mode h.vsatp = 0 then s.gPath h.hgatp a.va.toNat
       else match walkStage h.vsatp (s.guestPte h.hgatp) (a.mode == .vu) (sumOf h.vsstatus) (mxrOf h.vsstatus || mxrOf h.sstatus) a.va
           (loamNeed a.op) with
         | .ok (gpa, _) => if mode h.vsatp = 15 then [] else s.gPath h.hgatp gpa
         | .error _ => [])

/-- The walks of an access decode what they read (R245). -/
def State.loamDecoded (s : State) (a : LoamRequest) : State :=
  if s.upsets.isEmpty then s
  else (s.loamPath a).foldl (fun s p => match s.localPa p 8 0 with | some p => s.decoded p 8 | none => s) s

/-- The physical address and memory type of an access. -/
def State.loamXlat (s : State) (a : LoamRequest) : State × LoamXlat :=
  let s := s.loamDecoded a
  let h := s.hartAt a.hart
  match a.mode with
  | .m => (s, if a.va.toNat < 2 ^ 52 then s.regionMt a.va.toNat 0 a.op else .ends (.accessFault a.op))
  | .s => s.loamStage h false a
  | .u => s.loamStage h true a
  | .vs => s.loamGuest h false a
  | .vu => s.loamGuest h true a

end Sys2Proof.Machine
end

