-- ==== Sys2Proof/Machine/Service.lean ====
section
/-!
DEFINITION. What a Loam hart does to the package (R100, R105 to R117, R122, R527): loads, stores, atomic and reserved accesses, fences,
fetches, the time, WRS and the control registers that the manual names. The rest of the instruction set of a hart is that of the
RISC-V standards which R105 names (notes/assumptions/57.md).
-/

namespace Sys2Proof.Machine

/-! ### Attributes (R107) -/

def loamIsReserve (op : LoamOp) : Bool :=
  match op with
  | .loadReserved | .storeConditional _ => true
  | _ => false

/-- What the memory type forbids (R107): the way the access ends, if it does. -/
def loamForbids (mt : Nat) (a : LoamRequest) : Option LoamResult :=
  let bent := (mt = 5 || mt = 6) && a.va.toNat % a.size ≠ 0
  match a.op with
  | .fetch => if mt = 3 || 5 ≤ mt then some (.accessFault a.op) else none
  | .store _ => if mt = 4 then some (.accessFault a.op) else if bent then some (.misaligned a.op) else none
  | .load => if bent then some (.misaligned a.op) else none
  | op => if 3 ≤ mt && (mt ≠ 7 || loamIsReserve op) then some (.amoAccessFault op) else none

/-! ### Accesses -/

/-- A result is put where the hart finds it. -/
def State.loamEnd (s : State) (h : Nat) (r : LoamResult) : State := s.modHart h fun x => { x with result := r }

/-- A value read: the low bytes. -/
def State.loamValue (s : State) (h : Nat) (v : Nat) : State := s.loamEnd h (.value (BitVec.ofNat 64 v))

/-- The value that an AMO writes, of `n` bytes. -/
def amoValue (f : AmoOp) (n old d : Nat) : Nat :=
  let d := d % 2 ^ (8 * n)
  let less := sextNat old (8 * n) ≤ sextNat d (8 * n)
  match f with
  | .swap => d
  | .add => (old + d) % 2 ^ (8 * n)
  | .xor => old ^^^ d
  | .and => old &&& d
  | .or => old ||| d
  | .min => if less then old else d
  | .max => if less then d else old
  | .minu => min old d
  | .maxu => max old d

/-- The operation of R444 that an AMO is at a domain peer (R74). -/
def amoCode (f : AmoOp) : BitVec 4 :=
  match f with
  | .add => 0 | .and => 1 | .or => 2 | .xor => 3 | .min => 4 | .max => 5 | .minu => 6 | .maxu => 7 | .swap => 8

/-- A hart as an agent of release sequences: it acts at SY scope alone (R106). -/
def hartTag (h : Nat) : ReleaseTag := ⟨257, h + 1, 0, .sy⟩

/-- A store of the hart to a domain peer is not acknowledged (R73). -/
def State.hartStores (s : State) (h : Nat) : Bool := s.outstanding.any fun o => o.who == .hart h && o.access.kind.isStore

/-- The heads that a write of a hart carries: a release with rl, and a FENCE before it (R106, R286). -/
def State.loamHeads (s : State) (h : Nat) (rel : Bool) : List ReleaseTag :=
  if rel || (s.hartAt h).fenced then [hartTag h] else []

/-- An AMO or SC writes `v`: an RMW, a release at SY with rl (R106). -/
def State.loamRmw (s : State) (h a n v : Nat) (rel : Bool) : State :=
  (s.memWrite a (leBytes v n)).tagBytes a n (fun _ => true) (s.loamHeads h rel)

/-- An access in this package's memory at `p` (R106, R107, R122, R249). With aq it is an acquire at SY scope, which one execution in
order gives every access. -/
def State.loamMemory (s : State) (a : LoamRequest) (p : Nat) : State :=
  let h := a.hart.val
  let n := a.size
  let old := s.readNat p n
  let reads := match a.op with
    | .store _ | .storeConditional _ => false
    | _ => true
  let poisoned := reads && s.poisonIn p n
  let s := if reads then s.decoded p n else s
  if poisoned then s.loamEnd h (.accessFault a.op)
  else
    match a.op with
    | .store d => ((s.memWrite p (leBytes d.toNat n)).tagBytes p n (·.sameAgent (hartTag h)) (s.loamHeads h false)).loamEnd h .stored
    | .amo f d => (s.loamRmw h p n (amoValue f n old d.toNat) a.rel).loamValue h old
    | .loadReserved => (s.modHart h fun x => { x with reserved := some (p / 64) }).loamValue h old
    | .storeConditional d =>
      let held := (s.hartAt h).reserved == some (p / 64)
      let s := s.modHart h fun x => { x with reserved := none }
      if held then (s.loamRmw h p n d.toNat a.rel).loamEnd h .stored else s.loamEnd h .scFailed
    | _ => s.loamValue h old

/-- An access to hub MMIO at offset `o` (R113 to R115, R527). A write of WAKE_PORT or of CMD of the push window waits for the
acknowledgement of the hart's stores to domain peers (R123, R125). -/
def State.loamHub (s : State) (a : LoamRequest) (o : Nat) : State :=
  let h := a.hart.val
  let n := min a.size 8
  match a.op with
  | .store d =>
    let s := s.loamEnd h .stored
    if ecamBase ≤ o then
      s.due (.configWrite (BitVec.ofNat 27 (o - ecamBase)) (Fin.ofNat 4 (min 3 (Nat.log2 n))) (d.setWidth 32))
    else if (imsicAt o).isSome then s.imsicWrite o n d.toNat
    else if let some (x, r) := aplicPlace o then (if n = 4 then s.aplicWrite x r (d.toNat % 2 ^ 32) else s)
    else if s.hartStores h && (o / 8 * 8 = Off.wakePort || (0x20000 ≤ o && o < 0x30000 && o % 0x1000 / 8 * 8 = 0x50)) then
      s.modHart h fun x => { x with result := .none, waits := some (.loamAccess a) }
    else s.registerWrite (a.mode == .m) (o / 8 * 8) (d.toNat * 2 ^ (8 * (o % 8)) % 2 ^ 64) (byteMask (BitVec.ofNat 8 ((2 ^ n - 1) * 2 ^ (o % 8))))
  | _ =>
    match s.busPort ((o - ecamBase) / 2 ^ 20) with
    | some p =>
      if 2 ^ 20 ≤ o - ecamBase then
        (({ s with fresh := s.fresh + 1 } : State).emitTlp p (.config (o - ecamBase) none)).loamValue h
          ((Config.freeWord s.fresh).toNat % 2 ^ (8 * n))
      else s.loamValue h (leNat (s.mmioBytes o n))
    | none => s.loamValue h (leNat (s.mmioBytes o n))

/-- A load or an AMO leaves the package, and the hart waits for its answer. -/
def State.loamAsk (s : State) (h : Nat) (port : Option Nat) (kind : AccessKind) (n pa a data : Nat) : State :=
  (s.agentRequest (.hart h) port kind n pa a data).loamEnd h .none

/-- A request that fails at once: the manual states no value for a hart (a free value, notes/assumptions/36.md). -/
def State.loamLost (s : State) (h n : Nat) : State :=
  ({ s with fresh := s.fresh + 1 } : State).loamValue h ((Config.freeWord s.fresh).toNat % 2 ^ (8 * n))

/-- A store leaves for a domain peer, and is under way until it is acknowledged (R73). -/
def State.loamStores (s : State) (h n pa data : Nat) : State :=
  (s.agentRequest (.hart h) none .store n pa pa data).loamEnd h .stored

/-- An access to a PCIe address or a domain peer (R66, R71, R107): a write is sent, any other asks and waits. Stores never combine,
which R107 and R108 allow and do not ask for (notes/assumptions/66.md). -/
def State.loamOutside (s : State) (a : LoamRequest) (pa : Nat) : State :=
  let h := a.hart.val
  let n := a.size
  let ask := fun (kind : AccessKind) (bit data : Nat) =>
    if s.regionAt pa == .pcie then
      match s.pcieRoute pa with
      | some (p, at') => if (s.portAt p).up then s.loamAsk h (some p) kind n pa at' data else s.loamLost h n
      | none => s.loamLost h n
    else if s.isPeer pa && s.peerReachable pa then s.loamAsk h none kind n pa pa data
    else (s.ownRefused pa n bit).loamLost h n
  match a.op with
  | .store d =>
    if s.regionAt pa == .pcie then
      match s.pcieRoute pa with
      | some (p, at') => (s.sendPosted p at' (leBytes d.toNat n) false none).loamEnd h .stored
      | none => s.loamEnd h .stored
    else if s.isPeer pa && s.peerReachable pa then s.loamStores h n pa (d.toNat % 2 ^ (8 * n))
    else (s.ownRefused pa n 1).loamEnd h .stored
  | .amo f d => ask (.atom (amoCode f)) 2 (d.toNat % 2 ^ (8 * n))
  | _ => ask (.load false) 0 0

/-- A fetch from the boot image while the verifying path is on (R24, R25): its block is verified first, and the copy serves it. -/
def State.loamVerified (s : State) (a : LoamRequest) (p : Nat) : State :=
  let b := (p - s.image) / 65536
  let s := s.fetchBlock b
  match s.boot.verified.find? (fun e => e.1 == b) with
  | some e => if s.boot.safe then s else s.loamValue a.hart (leNat ((e.2.drop ((p - s.image) % 65536)).take a.size))
  | none => s

/-- A fetch that the verifying path serves. -/
def State.verifies (s : State) (a : LoamRequest) (p : Nat) : Bool :=
  a.op == .fetch && s.xipOn && s.boot.hdm.isSome && s.image ≤ p && p < s.image + 65536 * s.imageBlocks

/-- An access whose translation and attributes are settled. -/
def State.loamPerform (s : State) (a : LoamRequest) (pa : Nat) : State :=
  if s.verifies a pa then s.loamVerified a pa
  else
    let bit := match a.op with
      | .store _ => 1
      | .amo _ _ => 2
      | _ => 0
    match s.localPa pa a.size bit with
    | some p => s.loamMemory a p
    | none =>
      match s.regionAt pa with
      | .hubMmio => s.loamHub a (pa - hubBase)
      | .unassigned => s.loamEnd a.hart (.accessFault a.op)
      | _ => s.loamOutside a pa

/-- An access to memory or a device. -/
def State.loamReach (s : State) (a : LoamRequest) : State :=
  match s.loamXlat a with
  | (s, .ends r) => s.loamEnd a.hart r
  | (s, .ok pa mt) =>
    match loamForbids mt a with
    | some r => s.loamEnd a.hart r
    | none => s.loamPerform a pa

/-! ### Control registers (R100, R105, R114, R116) -/

/-- The guest interrupt file that VGEIN names, from 1 to 7. -/
def Hart.guestFile (h : Hart) : Option (Fin 9) :=
  if 1 ≤ h.vgein.toNat && h.vgein.toNat ≤ 7 then some (Fin.ofNat 9 (1 + h.vgein.toNat)) else none

/-- The register that a mode names: VS mode sees its own copies, and for the S-level file the guest file that VGEIN selects; user modes
see none (RISC-V and the AIA, PRESUMED, notes/assumptions/51.md). -/
def Hart.csrIn (h : Hart) (mode : LoamMode) (r : LoamCsr) : Option LoamCsr :=
  match mode, r with
  | .m, _ => some r
  | .s, .imsic f _ | .s, .topei f => if f = 0 then none else some r
  | .s, _ => some r
  | .vs, .satp => some .vsatp
  | .vs, .sstatus => some .vsstatus
  | .vs, .stimecmp => some .vstimecmp
  | .vs, .ip => some .vsip
  | .vs, .imsic 1 n => h.guestFile.map fun g => .imsic g n
  | .vs, .topei 1 => h.guestFile.map .topei
  | _, _ => none

/-- The top identity of an interrupt file: the lowest that is pending, enabled and below eithreshold; 0 where there is none. -/
def IntFile.top (x : IntFile) : Nat :=
  (x.pending.filter fun i => x.enabled.contains i && (x.threshold == 0 || i < x.threshold)).foldl
    (fun m i => if m = 0 then i else min m i) 0

/-- An indirect register of an interrupt file: eidelivery, eithreshold, and the words of 64 identities of eip and eie. -/
def IntFile.read (x : IntFile) (r : Nat) : Nat :=
  let word := fun (l : List Nat) (i : Nat) => sourceWord l i + sourceWord l (i + 1) * 2 ^ 32
  if r = 0x70 then x.delivery else if r = 0x72 then x.threshold
  else if 0x80 ≤ r && r < 0xC0 && r % 2 = 0 then word x.pending (r - 0x80)
  else if 0xC0 ≤ r && r < 0x100 && r % 2 = 0 then word x.enabled (r - 0xC0)
  else 0

/-- The identities 64 at a time that a register names, as a write of `v` leaves them. -/
def idsWritten (l : List Nat) (i v : Nat) : List Nat :=
  (l.filter fun n => n / 32 ≠ i && n / 32 ≠ i + 1) ++
    ((List.range 64).filter fun b => v.testBit b && 1 ≤ 32 * i + b && 32 * i + b ≤ 2047).map (32 * i + ·)

def IntFile.written (x : IntFile) (r v : Nat) : IntFile :=
  if r = 0x70 then { x with delivery := v % 2 }
  else if r = 0x72 then { x with threshold := v % 2 ^ 11 }
  else if 0x80 ≤ r && r < 0xC0 && r % 2 = 0 then { x with pending := idsWritten x.pending (r - 0x80) v }
  else if 0xC0 ≤ r && r < 0x100 && r % 2 = 0 then { x with enabled := idsWritten x.enabled (r - 0xC0) v }
  else x

/-- An interrupt file delivers: eidelivery is 1, and an identity is pending, enabled and below eithreshold (R114). -/
def IntFile.delivers (x : IntFile) : Bool := x.delivery == 1 && x.top != 0

/-- The pending bits of mip that this manual's sources drive (R114, R116): STIP 5, VSTIP 6, MTIP 7, SEIP 9, VSEIP 10, MEIP 11. -/
def Hart.mip (h : Hart) (gtime : DWord) : Nat :=
  let bit := fun (b : Bool) (n : Nat) => b.toNat * 2 ^ n
  bit (h.stimecmp.toNat ≤ gtime.toNat) 5 + bit (h.vstimecmp.toNat ≤ gtime.toNat) 6 + bit h.mtip 7 + bit (h.file 1).delivers 9 +
    bit (h.guestFile.any fun g => (h.file g.val).delivers) 10 + bit (h.file 0).delivers 11

/-- What a control register reads; sip of S mode shows the supervisor's bits, vsip those of the guest in their places. -/
def Hart.csr (h : Hart) (gtime : DWord) (mode : LoamMode) (r : LoamCsr) : Nat :=
  match r with
  | .hstatus => h.vgein.toNat * 2 ^ 12
  | .ip => if mode == .m then h.mip gtime else h.mip gtime &&& 0x220
  | .vsip => h.mip gtime / 2 &&& 0x220
  | .satp => h.satp.toNat
  | .vsatp => h.vsatp.toNat
  | .hgatp => h.hgatp.toNat
  | .sstatus => h.sstatus.toNat
  | .vsstatus => h.vsstatus.toNat
  | .stimecmp => h.stimecmp.toNat
  | .vstimecmp => h.vstimecmp.toNat
  | .imsic f n => (h.file f).read n
  | .topei f => (h.file f).top * (2 ^ 16 + 1)

/-- A write of satp or vsatp: a mode that does not exist, or mode 15 with PPN[43:40] not 0, leaves the register (R100). -/
def atpWritten (old v : DWord) : DWord :=
  match field v.toNat 63 60 with
  | 0 | 8 | 9 | 10 => v
  | 15 => if field v.toNat 43 40 = 0 then v else old
  | _ => old

/-- A write of hgatp: MODE takes only the standard modes, and keeps its value otherwise (R100). -/
def hgatpWritten (old v : DWord) : DWord :=
  match field v.toNat 63 60 with
  | 0 | 8 | 9 | 10 => v
  | _ => BitVec.ofNat 64 (setField v.toNat 63 60 (field old.toNat 63 60))

/-- A write of a control register; a write of the top identity claims it. -/
def Hart.csrWritten (h : Hart) (r : LoamCsr) (v : DWord) : Hart :=
  let status := v &&& 0xC0000#64
  match r with
  | .satp => { h with satp := atpWritten h.satp v }
  | .vsatp => { h with vsatp := atpWritten h.vsatp v }
  | .hgatp => { h with hgatp := hgatpWritten h.hgatp v }
  | .sstatus => { h with sstatus := status }
  | .vsstatus => { h with vsstatus := status }
  | .hstatus => { h with vgein := v.extractLsb' 12 6 }
  | .ip | .vsip => h
  | .stimecmp => { h with stimecmp := v }
  | .vstimecmp => { h with vstimecmp := v }
  | .imsic f n => { h with files := SMap.set h.files f ((h.file f).written n v.toNat) .blank }
  | .topei f =>
    let x := h.file f
    { h with files := SMap.set h.files f { x with pending := x.pending.filter (· != x.top) } .blank }

/-! ### The step -/

/-- A register of its own that an operation of a hart reads, writes or waits on; `none` where it reaches memory. -/
def State.loamInside (s : State) (a : LoamRequest) : Option State :=
  let h := a.hart.val
  let csr := fun (r : LoamCsr) (g : LoamCsr → State) => some (match (s.hartAt h).csrIn a.mode r with
    | some r => g r
    | none => s.loamEnd h (.illegal a.op))
  match a.op with
  | .fence pr pw sr sw => some ((s.modHart h fun x => { x with fenced := x.fenced || (pr && pw && sr && sw) }).loamEnd h .done)
  | .time => some (s.loamValue h s.gtime.toNat)
  | .wrs short =>
    some (if (s.hartAt h).reserved.isNone then s.loamEnd h .done
      else (s.modHart h fun x => { x with stall := some (if short then some (s.gtime + 1000) else none) }).loamEnd h .none)
  | .csrRead r => csr r fun r => s.loamValue h ((s.hartAt h).csr s.gtime a.mode r)
  | .csrWrite r v => csr r fun r => (s.modHart h fun x => x.csrWritten r v).loamEnd h .done
  | _ => none

/-- A hart goes on: no answer of the outside and no release waits, and its WRS has ended (R122). A store waits for nothing (R106). -/
def State.loamRuns (s : State) (h : Nat) : Bool :=
  !(s.outstanding.any fun o => o.who == .hart h && !o.access.kind.isStore) && (s.hartAt h).waits.isNone &&
    (match (s.hartAt h).stall with
     | some (some t) => t.toNat ≤ s.gtime.toNat
     | some none => false
     | none => true)

/-- The first fetch of hart 0, at the entry of the image, starts phase 5 (R23). -/
def State.firstFetch (s : State) (a : LoamRequest) : State :=
  if a.op == .fetch && a.hart == 0 && s.phase == 4 then (s.setPhase 5).modHart 0 fun h => { h with entry := none } else s

/-- Hart 0 in phase 4 makes its first fetch at the entry, and nothing before it (R23). -/
def State.entersRight (s : State) (a : LoamRequest) : Bool :=
  s.phase ≠ 4 || a.hart ≠ 0 || (a.op == .fetch && a.mode == .m && (s.hartAt 0).entry == some a.va)

/-- A release or a fence at SY scope (R106), which the acknowledgement of the hart's stores to domain peers stands before (R73). -/
def loamReleases (a : LoamRequest) : Bool :=
  match a.op with
  | .fence pr pw sr sw => pr && pw && sr && sw
  | .amo _ _ | .loadReserved | .storeConditional _ => a.rel
  | _ => false

/-- LOAM_ACCESS R106: one access of a hart in service, within one page, once firmware runs (R23). A release waits for the hart's
stores to domain peers, and is made when they are acknowledged (State.agentAnswer). -/
def execLoamAccess (a : LoamRequest) (s : State) : Host.Outcome State Fault Refusal :=
  if !(s.hartAt a.hart).inService || s.boot.safe || s.phase < 4 || a.size = 0 || !s.loamRuns a.hart || !s.entersRight a then .next s
  else
    let s := (s.firstFetch a).modHart a.hart fun h => { h with stall := none }
    if loamReleases a && s.hartStores a.hart then
      .next (s.modHart a.hart fun h => { h with result := .none, waits := some (.loamAccess a) })
    else
    match s.loamInside a with
    | some t => .next t
    | none => .next (s.loamReach a)

end Sys2Proof.Machine
end

