-- ==== Sys2Proof/Machine/Due.lean ====
section
/-!
DEFINITION. Which step the package takes by itself next: the steps that its state makes due, the passing of a cycle with what falls
on it, and the issue of the selected bundle. Several due steps have no order in the manual beside what their rules say; the
model takes them in the order of this file (notes/assumptions).
-/

namespace Sys2Proof.Machine

/-! ### Threads -/

/-- The WAIT of a thread is held by its log entry or by an answer from outside. -/
def State.waitHeld (s : State) (k lane serial : Nat) : Bool :=
  (s.wave k).log.any (fun e => e.serial == serial && e.lanes.any (fun l => l.lane == lane)) ||
    s.outstanding.any (fun o => o.serial == serial && o.lane == lane && o.waveKey == k)

/-- The step that a blocked thread is due (R119, R121, R443, R453, R456, R465). -/
def State.blockDue (s : State) (k lane : Nat) (b : Block) : Option Instr :=
  let core := Fin.ofNat 256 (keyCore k)
  let slot := Fin.ofNat 64 (keySlot k)
  let l := Fin.ofNat 32 lane
  let c := (s.wave k).crew
  match b with
  | .wait va _ _ _ deadline _ serial _ kick =>
    if s.waitHeld k lane serial || (s.wave k).logLineOther serial va.toNat then none
    else if kick then some (.waiterReread core slot l)
    else if deadline.any (fun t => decide (t.toNat ≤ s.gtime.toNat)) then some (.waitDeadline core slot l)
    else none
  | .sysc y =>
    let held := match y.phase with
      | .claiming _ => s.syscBehind k lane y.serial
      | .filled _ _ _ => s.laneStores k lane
      | _ => false
    if y.kick && y.page.isNone && !held && !y.behind.any (s.wave k).logLine && !((s.recOf k).prot && lane % 2 == 1) &&
        !s.outstanding.any (fun o => o.serial == y.serial && o.lane == lane && o.waveKey == k && !o.access.kind.isStore)
    then some (.waiterReread core slot l) else none
  | .fullEmpty store o _ _ _ => if s.spFull c (o / 128) != store then some (.fWaitSatisfied core slot l) else none
  | .gate o _ => if s.spFull c (o / 128) then some (.fWaitSatisfied core slot l) else none
  | .push q _ _ _ _ =>
    let r := s.recOf k
    if (!r.prot || lane % 2 == 0) && s.queueAnswer q r.pasid false == .accepted then some (.stalledPushAccept core slot l)
    else none
  | .doorbell port _ _ _ =>
    if !(s.portAt port).up || (s.portAt port).doorbells.length < 256 then some (.doorbellSend (Fin.ofNat 64 port)) else none
  | _ => none

/-- The step that a thread is due. -/
def State.threadDue (s : State) (k lane : Nat) (t : Thread) : Option Instr :=
  if s.trapDue k lane then some (.trapEntry (Fin.ofNat 256 (keyCore k)) (Fin.ofNat 64 (keySlot k)) (Fin.ofNat 32 lane))
  else
    match t.block with
    | some b => s.blockDue k lane b
    | none => none

/-- A lane of a task wave retires, and the released tasks have room (R177, R180). -/
def State.retireRoom (s : State) (k lane : Nat) : Bool :=
  match s.retireDue k lane with
  | none => false
  | some (_, t) =>
    s.releasedCount + 32 ≤ 4096 ||
      (match execTaskRetire (Fin.ofNat 256 (keyCore k)) (Fin.ofNat 64 (keySlot k)) (Fin.ofNat 32 lane) s with
       | .next u => (u.crew (s.wave k).crew).tasks.any fun e => e.lane == t.lane && e.ended
       | _ => false)

/-! ### Waves -/

/-- The step that a wave is due (R155, R192, R207, R215, R484). -/
def State.waveDue (s : State) (k : Nat) (w : Wave) : Option Instr :=
  let core := Fin.ofNat 256 (keyCore k)
  let slot := Fin.ofNat 64 (keySlot k)
  if !w.live then none
  else if w.pend.any (fun p => p.waiting == 0) then some (.variableLatencyResult core slot)
  else if w.mat.head?.any fun j => j.busyUntil + 16 ≤ s.cycle then some (.matrixComplete core slot)
  else
    match (w.log.take 4).findIdx? (fun e => e.lanes.any fun l => l.page.answer.isSome) with
    | some i => some (.operandLogReplay core slot (Fin.ofNat 4 i))
    | none =>
      match w.threads.findSome? fun t => s.threadDue k t.1 t.2 with
      | some i => some i
      | none =>
        if w.window.any fun n => s.hubField (Off.part (s.recOf k).part + 8) 51 36 + 1 ≤ n then some (.preemptWindowLimit core slot)
        else if (s.launchOf k).task.isSome && (List.range 32).any (s.retireRoom k) then
          ((List.range 32).find? (s.retireRoom k)).map fun l => .taskRetire core slot (Fin.ofNat 32 l)
        else if s.waveRuns k && s.regroupNow k then some (.regroup core slot)
        else none

/-- The matrix instruction of a wave of a quarter whose set of signers is complete, to be issued now that the array and its registers
are free (R196, R200): its bundle has no lane. It does not issue on a core that barred it (R233). -/
def State.matrixDue (s : State) (quarter : Nat) : Option Issue :=
  s.waves.findSome? fun e =>
    let w := e.2
    if quarterOf e.1 ≠ quarter || !s.waveRuns e.1 || !s.arrayFree e.1 then none
    else
      w.kregs.findSome? fun j =>
        let k := (j.2 : KReg)
        let b : Issue := { core := keyCore e.1, slot := keySlot e.1, lanes := 0, pc := k.spc }
        let c := ({ s with cur := b } : State).ctx
        if k.signed ≠ 0 && k.signed == k.set && k.barred ≠ some (keyCore e.1) then
          match c.peekSlot with
          | .ins i =>
            (match i.fields? with
             | some (o, f) => if isMatrixOp o && c.matrixFree f then some b else none
             | none => none)
          | _ => none
        else none

/-! ### Crews (R149, R154, R159, R178, R232, R243, R259) -/

/-- A crew that must move can do so, or a crew that it would displace can be stopped, or it stops in vain (R232); a test that finds no
destination is tried again every 10 ms (R237). -/
def State.moveDue (s : State) (c : Nat) : Bool :=
  let x := s.crew c
  let l := s.launchAt x.launch
  let vs := s.victims l.record.part l.record.prio
  s.mustMove c && s.resident l.record.part && !s.swapping l.record.part && !s.otherMoves c &&
    (x.stopping || !s.leavesForTest c || (s.coreAt x.core).testRetry.toNat ≤ s.gtime.toNat) &&
    (match s.coreFor l (some c) with
     | some _ => !x.stopping || s.savable c
     | none =>
       !s.stopsFor l.record.part && (x.stopping || s.leavesForTest c || (vs.head?.isSome && ((s.without vs).coreFor l (some c)).isSome)))

/-- The step that a crew is due. -/
def State.crewDue (s : State) (c : Nat) (x : Crew) : Option Instr :=
  if !x.live then none
  else if x.rollbackDue.isSome && x.resident && s.crewQuiet c then some (.rollback c)
  else if x.resident && !x.tasks.isEmpty && (s.wave (waveKey x.core (x.slots.headD 0))).threads.isEmpty then
    some (.taskWaveStart c)
  else if s.moveDue c then some (.crewMigration c)
  else if x.resident && x.stopping && !s.mustMove c &&
      (s.savable c || !s.shadowRoom (x.core / 4) (s.launchAt x.launch).record) then some (.crewPreempt c)
  else (x.pages.find? fun p => p.2.state == .backed && p.2.writeback).map fun p => .pageWritebackDone c (Fin.ofNat 256 p.1)

/-! ### Engines -/

/-- The copy of an engine ends: at a moment that the manual leaves open, and once its result record has been acknowledged (R461). -/
def State.completionDue (s : State) (e : Nat) (g : CopyEngine) : Bool :=
  match g.job with
  | some j => Config.engineReady s.cycle e && !(s.outstanding.any fun o => some o.tag == j.sent)
  | none => false

/-- The step of the command at the head of a queue (R142, R143, R163, R460, R462, R463). -/
def State.queueDue (s : State) (q : Nat) (l : List QCmd) : Option Instr :=
  match l with
  | [] => none
  | c :: _ =>
    let op := c.word64 0 % 256
    if q < 0x100 then (if s.copyDue q && Config.engineReady s.cycle q then some (.copy (Fin.ofNat 256 q) none) else none)
    else if q < 0x140 then some (.taskPost (Fin.ofNat 64 (q - 0x100)))
    else if q = 0x140 then some (if op = 2 then .cancel else .launch)
    else if q = 0x141 then some (if op = 2 then .thymeClear else .thymeWrite)
    else some (if op = 2 then .poison else .flip)

/-- The step that a task queue is due (R178, R179). -/
def State.taskQueueDue (s : State) (q : Nat) (x : TaskQueue) : Option Instr :=
  if s.dequeueDue q then some (.taskDequeue (Fin.ofNat 64 q))
  else if x.binding.isSome && x.gathers.any (fun g => g.late s.gtime) then some (.gatherTimeout (Fin.ofNat 64 q))
  else none

/-- The step that a Thyme entry is due (R164, R166). -/
def State.thymeDue (s : State) (i : Nat) (e : Thyme) : Option Instr :=
  let n := Fin.ofNat 64 i
  if e.state = 2 && e.held.isSome && !e.heldInTime s.gtime then some (.thymeHeldExpire n)
  else if e.due s.gtime then some (.thymeSlotDue n)
  else none

/-- The step that a launch is due: its end (R149), the fault of a cancelled one whose operations in flight are complete (R143), the
withdrawal of an instance of the Thyme table (R165). -/
def State.launchDue (s : State) (n : Nat) : Option Instr :=
  let l := s.launchAt n
  if l.cancelled && !l.ended && !s.safeInFlight n then some (.launchFault n 0x0B 0 0)
  else if s.launchOver n then some (.launchDone n)
  else
    match l.thyme with
    | some i => if (s.thymeLate i).isSome then some (.thymeWithdraw (Fin.ofNat 64 i)) else none
    | none => none

/-- The placement that a partition is due (R145, R146, R152 to R154, R181): none while the partition swaps. -/
def State.placement (s : State) (p : Nat) : Option Instr :=
  if s.swapping p then none else s.placeDue p

/-- The step that a core is due: its supply has settled, or the way to its test is clear (R226, R237). -/
def State.coreDue (s : State) (n : Nat) (x : CoreState) : Option Instr :=
  if x.relaxTo.any fun r => decide (r.2.toNat ≤ s.gtime.toNat) then some (.marginSupplySettled (Fin.ofNat 256 n))
  else if x.iftDue && s.qstate n = 0 && s.coreEmpty n && s.testFree n then some (.drainComplete (Fin.ofNat 256 n))
  else none

/-- A core has drained (R231): QSTATE of its word at offset 8 is DRAINING, and no wave is left. -/
def State.drainDue (s : State) : Option Instr :=
  s.hub.findSome? fun e =>
    let n := (e.1 - Off.margin 0) / 0x40
    if Off.margin 0 ≤ e.1 && e.1 < Off.margin 256 && e.1 % 0x40 = 8 && field e.2.toNat 9 8 = 1 && s.coreEmpty n && s.testFree n then
      some (.drainComplete (Fin.ofNat 256 n))
    else none

/-- The step that a port is due (R55). -/
def Port.due (n : Nat) (p : Port) : Option Instr := if p.doorbells.isEmpty then none else some (.doorbellSend (Fin.ofNat 64 n))

/-- The steps of the hub's queues, timers and time source, of bring-up, and of a request to return a core (R23, R90, R102, R116, R131,
R161, R177, R237). -/
def State.hubDue (s : State) : Option Instr :=
  if s.requests.any (fun r => r.rtag.isNone) && !s.queueFull Off.prqCfg then some .prqAppend
  else if !s.failures.isEmpty && !s.queueFull Off.failQ then some .failureRecordAppend
  else if s.enqueueDue.isSome then some .releasedTaskEnqueue
  else if s.readyForFirmware then some .firmwareEntry
  else if s.returnDue.isSome then s.returnDue
  else if s.flushLate then some .atsInvalidationTimeout
  else if s.hubField (Off.tsrc + 24) 0 0 == 0 && s.sourceLate then some .timeSourceLost
  else
    ((List.range 16).find? fun h => (s.hartAt h).mtip != s.timerPast h).map fun h => .machineTimer (Fin.ofNat 16 h)

/-- A swap goes on: its first partition has halted, or its second comes in (R159). -/
def State.swapDue (s : State) : Option Instr :=
  (s.swaps.find? fun v => v.saved || s.halted v.fromPart).map fun v =>
    .partitionSwapDone (Fin.ofNat 16 v.fromPart) (Fin.ofNat 16 v.toPart)

/-- The fetch that a bundle waits for (R353). -/
def State.fetchRow (s : State) : Option Instr :=
  s.fetchDue.map fun e =>
    .instructionFetch (Fin.ofNat 256 (keyCore e.1)) (Fin.ofNat 64 (keySlot e.1)) (Fin.ofNat 32 e.2) false

/-- The first of some steps. -/
def firstRow (rows : List (Unit → Option Instr)) : Option Instr :=
  match rows with
  | [] => none
  | r :: rest => match r () with
    | some i => some i
    | none => firstRow rest

/-- The step that the state makes due, if any. -/
def State.dueRow (s : State) : Option Instr :=
  firstRow
    [fun _ => s.waves.findSome? fun e => s.waveDue e.1 e.2,
     fun _ => s.crews.findSome? fun e => s.crewDue e.1 e.2,
     fun _ => s.swapDue,
     fun _ => s.engines.findSome? fun e => if s.completionDue e.1 e.2 then some (.copyCompletion (Fin.ofNat 256 e.1)) else none,
     fun _ => s.queues.findSome? fun e => s.queueDue e.1 e.2,
     fun _ => s.ports.findSome? fun e => Port.due e.1 e.2,
     fun _ => s.tqs.findSome? fun e => s.taskQueueDue e.1 e.2,
     fun _ => s.thyme.findSome? fun e => s.thymeDue e.1 e.2,
     fun _ => s.launches.findSome? fun e => s.launchDue e.1,
     fun _ => s.residents.findSome? fun e => if e.2 then s.placement e.1 else none,
     fun _ => s.cores.findSome? fun e => s.coreDue e.1 e.2,
     fun _ => s.drainDue,
     fun _ => s.tableDue,
     fun _ => s.hubDue,
     fun _ => s.fetchRow]

/-! ### A cycle passes -/

/-- A moment that comes every `n` ns of %gtime lies between two times. -/
def passes (n : Nat) (old new : DWord) : Bool := old.toNat / n != new.toNat / n

/-- The waiters outside a full wake table, and the launch engine's (R121). -/
def State.spillRereads (s : State) : List Instr :=
  ((s.waiters fun b => match b with | .wait _ _ _ _ _ _ _ spilled _ => spilled | .sysc y => y.spilled | _ => false).map fun e =>
    .wakeSpillReread (Fin.ofNat 256 (keyCore e.1)) (Fin.ofNat 64 (keySlot e.1)) (Fin.ofNat 32 e.2)) ++
  ((s.launches.map (·.1)).filter s.eventSpilled).map fun n => .afterEventSatisfied n

/-- The steps of the clock since %gtime was `old` (R3): waiters outside the table every 1 µs (R121), the table every 50 µs (R120), swap
decisions and resizes that hold every 10 µs (R91, R158); a bucket of a resize each cycle (R91). -/
def State.clockRows (s : State) (old : DWord) : List Instr :=
  (if passes 1000 old s.gtime then s.spillRereads else []) ++
    (if passes 50000 old s.gtime then [.wakeTableReread] else []) ++
    (if passes 10000 old s.gtime then s.swapRows else []) ++
    (if passes 10000 old s.gtime && s.tableResize.any (·.held) then [.resizeRetry] else []) ++
    (if s.tableResize.any fun r => !r.held then [.resizeMigrateStep] else [])

/-- The clock's samples of the monitors (R18), and its power and thermal steps after them. -/
def State.sampleRows (s : State) (old : DWord) : List Instr :=
  if passes 1000 old s.gtime then [.monitorSample (Config.monitorSample (s.gtime.toNat / 1000))] else []

/-- The readings and PWR_CTL that the power and thermal steps of this moment find: those of the sample that comes with them, and the
PWR_CTL that the 10 µs step brings into force (R18, R19). -/
def State.powerAhead (s : State) (old : DWord) : Power :=
  { s.power with
    readings := if passes 1000 old s.gtime then Config.monitorSample (s.gtime.toNat / 1000) else s.power.readings
    control := if passes 10000 old s.gtime then s.hubGet Off.pwrCtl else s.power.control }

/-- The steps of the power controller since %gtime was `old`: down every 10 µs, up once it has been calm for 100 µs (R14, R19).
The steps fall on multiples of 10 µs and 100 µs of %gtime (notes/assumptions/59.md). -/
def State.powerRows (s : State) (old : DWord) : List Instr :=
  let p := s.powerAhead old
  let c := s.hubGet Off.pwrCtl
  let above := field c 31 20 < p.readings.power50us || field c 19 8 < p.readings.power100ms || 900 < p.readings.hbmPower
  (if passes 10000 old s.gtime && (above || c != s.power.control) then [.powerDutyStep false] else []) ++
    (if (calmLong p.calm s.gtime && p.powerDuty < 8) || (calmLong p.hbmCalm s.gtime && !p.hbmRate.isEmpty) then
       [.powerDutyStep true] else [])

/-- The thermal steps since %gtime was `old`: of the clusters that are too hot every 10 µs, of those that are cool again every
100 µs (R15), counted from %gtime 0 (notes/assumptions/59.md). -/
def State.thermalRows (s : State) (old : DWord) : List Instr :=
  let p := s.powerAhead old
  let limit := field p.control 6 0
  let at' := fun (c : Nat) => p.readings.clusterTemp.getD c 0
  (if passes 10000 old s.gtime then
     ((List.range 64).filter fun c => limit ≤ at' c).map fun c => .thermalDutyStep (Fin.ofNat 64 c) false
   else []) ++
    (if passes 100000 old s.gtime then
       ((p.thermalDuty.map (·.1)).filter fun c => at' c + 3 ≤ limit).map fun c => .thermalDutyStep (Fin.ofNat 64 c) true
     else [])

/-- Requests that have had no answer within their interval (R46, R70). -/
def State.timeoutRows (s : State) : List Instr :=
  (s.outstanding.filter s.expired).map fun o => if o.port.isSome then .completionTimeout o.tag else .peerTimeout o.tag

/-- The cores whose margin windows end between two times (R228), and those whose in-field test falls due (R237). -/
def State.marginRows (s : State) (old : DWord) : List Instr :=
  if s.gtime = old then []
  else
    ((s.windowEnds old s.gtime).map fun n => .marginWindowEnd (Fin.ofNat 256 n)) ++
      (if s.hubField (Off.service + 16) 15 0 ≠ 0 && s.hubField (Off.service + 16) 15 0 * 3600 * 10 ^ 9 ≤ s.gtime.toNat then
         ((List.range 256).filter s.testDue).map fun n => .iftDue (Fin.ofNat 256 n)
       else [])

/-- Sectors of the HBM of one stack: 64 GiB of 32 bytes (R77). -/
def stackSectors : Nat := 2 ^ 31

/-- The nanoseconds of %gtime between two reads of a stack's patrol scrubber, so that it reads every sector within SCRUBH hours (R247,
R254). -/
def State.scrubStep (s : State) (g : Nat) : Nat := s.hubField (Off.hbmEcc g + 0x10) 7 0 * 3600 * 10 ^ 9 / stackSectors

/-- The stacks whose scrubbers read a sector between two times. They read in address order, one sector at each multiple of the step
(notes/assumptions/59.md). -/
def State.scrubbing (s : State) (old : DWord) : List Nat :=
  if old = s.gtime then [] else (List.range 8).filter fun g => passes (s.scrubStep g) old s.gtime

/-- The reads of the patrol scrubbers since %gtime was `old`. -/
def State.scrubRows (s : State) (old : DWord) : List Instr :=
  (s.scrubbing old).map fun g =>
    .patrolScrub (Fin.ofNat 8 g) (BitVec.ofNat 47 (g * 2 ^ 31 + SMap.get s.scrub g 0)) .good none

/-- The scrubbers that have read go on to the next sector of their stacks. -/
def State.scrubNext (s : State) (old : DWord) : State :=
  { s with scrub := (s.scrubbing old).foldl (fun m g => SMap.set m g ((SMap.get m g 0 + 1) % stackSectors) 0) s.scrub }

/-- An error arises in a register row (R248). -/
def State.upsetRow (s : State) (k lane row : Nat) : State :=
  if (s.wave k).live && (SMap.find (s.wave k).threads lane).isSome && row < (s.recOf k).rows && !(s.thread k lane).bad.contains row then
    s.modThread k lane fun t => { t with bad := t.bad ++ [row] }
  else s

/-- An error arises in a sector of a frame of the scratchpad (R248). -/
def State.upsetSector (s : State) (c k : Nat) : State :=
  match SMap.find (s.crew c).pages (k / 128) with
  | some p => if p.state == .pinned then s.modCrew c fun x => { x with poisoned := SMap.set x.poisoned k true false } else s
  | none => s

/-- An address of CXL memory that other heads may write (R25, R63): a range that LOAM_PMA calls private is not. Page attributes mark ranges as
well; where LOAM_PMA says nothing, another head may write (notes/assumptions/59.md). -/
def State.sharedAt (s : State) (pa : Nat) : Bool := s.regionAt pa == .cxl && s.pmaMt pa != some 2

/-- What comes upon the package in this cycle by itself (R36, R63, R64, R245, R248, R251). -/
def State.weather (s : State) : State :=
  let s := match Config.upset s.cycle with
    | some (sector, e, way) =>
      let error := if e = 0 then StoredError.single else if e = 1 then .uncorrectable else .tag (BitVec.ofNat 6 (e - 2))
      { s with upsets := SMap.put s.upsets sector { error := error, way := way } }
    | none => s
  let s := match Config.rowUpset s.cycle with
    | some (k, lane, row) => s.upsetRow k lane row
    | none => s
  let s := match Config.scratchUpset s.cycle with
    | some (c, k) => s.upsetSector c k
    | none => s
  let s := match Config.otherHead s.cycle with
    | some (a, b) => if s.sharedAt a then s.agentWrite a [b] else s
    | none => s
  let s := match Config.ubnorLink s.cycle with
    | some (p, up) => { s with ubnorDown := if up then s.ubnorDown.filter (· ≠ p) else (p :: s.ubnorDown).eraseDups }
    | none => s
  match Config.devicePoison s.cycle with
  | some k => if s.regionAt (32 * k) == .cxl then s.setPoison k true else s
  | none => s

/-- One cycle passes with nothing else to do. -/
def State.idle (s : State) : State :=
  let t := s.tick1
  let rows := t.sampleRows s.gtime ++ t.clockRows s.gtime ++ t.powerRows s.gtime ++ t.thermalRows s.gtime ++ t.timeoutRows ++
    t.marginRows s.gtime ++ t.scrubRows s.gtime
  { (t.scrubNext s.gtime).weather with inputs := t.inputs ++ rows }

/-! ### One step -/

/-- A killed thread counts as arrived at every phase of its wave's barriers (R450). -/
def State.settleKilled (s : State) : State :=
  ((s.waves.filter fun e => e.2.live && e.2.threads.any fun t => Thread.killed t.2).map (·.1)).foldl State.settleAll s

/-- Before every step: fixed-latency results land, checkpoints that were asked for are taken, crews that are over leave (R149,
R204, R496); an interval whose log is too long ends (R242); wired interrupts are seen (R115), and what an invalidation waits for
(R90); barriers count a killed thread as arrived (R450). -/
def State.prologue (s : State) : State :=
  let s := s.landFixed.settleKilled
  let s := (s.crews.filter fun e => (Crew.ckptDue e.2).isSome).foldl (fun s e => s.tryCkpt e.1) s
  let s := ((s.crews.filter fun e => (Crew.eligible e.2)).map (·.1)).foldl State.limitLog s.reapCrews
  s.aplicTick.flushTick

/-- The steps that the safe talkative state leaves: resets, samples of the monitors and the management interface (R33, R35). -/
def managedStep (i : Instr) : Bool :=
  match i with
  | .packageReset _ | .pldmResetEffecter | .monitorSample _ | .mctpEndpointIdAssign _ | .pldmSensorRead _ | .getVersion
  | .getCapabilities | .negotiateAlgorithms | .getDigests | .getCertificate | .challenge _ | .getMeasurements _ => true
  | _ => false

/-- What stands at the slot of the issuing bundle; a bundle without lanes reads its slot as far as it can. -/
def State.slotNow (s : State) : AtSlot := if s.cur.lanes = 0 then s.ctx.peekSlot else s.ctx.atSlot

/-- What a quarter issues: a bundle in trap mode (R217), else a complete matrix instruction, else the bundle it selects (R200). -/
def State.quarterIssue (s : State) (q : Nat) : Option Issue :=
  match s.select q with
  | some c => if c.trap then some c.issue else (s.matrixDue q).or (some c.issue)
  | none => s.matrixDue q

/-- The next bundle to issue in this cycle: of the lowest quarter whose port is free and which has one (R185). -/
def State.issueNow (s : State) : Option Issue :=
  (s.quarters.filter (fun q => SMap.get s.busy q 0 ≤ s.cycle)).findSome? s.quarterIssue

/-! ### A program placed from outside -/

/-- A line word with its parity bits (R351). -/
def sealLine (ws : List Word) (low : Word) : Word :=
  let w := (List.range 15).foldl (fun (w : Word) k => if parity (ws.getD k 0) 32 then w ||| BitVec.ofNat 32 (2 ^ (16 + k)) else w) low
  if parity w 31 then w ||| 0x80000000#32 else w

/-- The line of one instruction in slot 0: the target bits of slots 0 and 3, and slots 1 and 2 literal with words of zero. -/
def placedLine (w : BitVec 96) : List Byte :=
  let ws : List Word := [w.extractLsb' 0 32, w.extractLsb' 32 32, w.extractLsb' 64 32]
  leBytes w.toNat 12 ++ List.replicate 48 0 ++ leBytes (sealLine ws 0b0011001001#32).toNat 4

/-- The launch that runs a placed instruction: one crew of one wave with the whole window, in partition 0. -/
def placedRecord : LaunchRec := { LaunchRec.blank with w := 1536, spw := 4 }

/-- The wave of a placed instruction: one bundle of 32 threads at slot 0, in trap mode where the instruction is privileged. -/
def placedWave (w : BitVec 96) (cycle : Nat) : Wave :=
  let trap := (Op.ofCode (w.extractLsb' 0 12)).any Op.privileged
  { Wave.start { Launch.blank with record := placedRecord } 0 0 0 cycle with
    threads := (List.range 32).map fun n => (n, { Thread.start 0 cycle with trapMode := trap })
    bundles := [{ lanes := BitVec.allOnes 32, issued := false }], regroupDue := false, regrouped := cycle }

/-- The package about to issue the instruction `w`: firmware runs, partition 0 is resident on cluster 0, and its launch has one
crew on core 0, whose instruction cache holds the line. It stands for a load of a program from outside. -/
def State.placed (s : State) (w : BitVec 96) : State :=
  let s := { s with
    inputs := [], swaps := [], upsets := [], flushWait := none, tableWaiting := [], service := none, aplics := [], queues := [], engines := [], requests := [], failures := [], thyme := [], tqs := [], ports := []
    harts := [], busy := [], tableResize := [], outstanding := [], residents := [(0, true)]
    boot := { s.boot with safe := false }
    waves := [(0, placedWave w s.cycle)]
    crews := [(0, { Crew.blank with live := true, resident := true, slots := [0], spw := 4 })]
    launches := [(0, { Launch.blank with
      record := placedRecord, state := .active, nextCrew := 1, ended := false })]
    cores := [(0, { CoreState.blank with lines := [(0, 0, placedLine w)] })] }
  (((s.hubSetField Off.bootStatus 3 0 5).hubPut Off.clusterAvail 1).hubPut (Off.part 0) 1).hubSetField (Off.part 0 + 8) 20 20 1

end Sys2Proof.Machine
end

