-- ==== Sys2Proof/Machine/Integer.lean ====
section
/-!
DEFINITION. Integer and address instructions, class 0x1 (14_isa_integer.md, R397 to R413). None of them traps once decoded.
-/

namespace Sys2Proof.Machine

/-- IADD, ISUB: width 32 (R400). -/
def addSub (sub : Bool) (f : Fields) (c : Ctx) (l : Nat) : List (Dst × Reg) :=
  let a := c.a32 l f
  let b := c.b32 l f
  let cin := modBit f 8 && (c.w.thread l).pred (modField f 5 3)
  let uns := modBit f 1
  let r := if modBit f 0 then narrow 32 true uns (addExact sub (BitVec.asInt a.val uns) (BitVec.asInt b.val uns) cin)
    else narrow 32 false true (addExact sub a.val.toNat b.val.toNat cin)
  c.put32 l f.d r.val (a.x || b.x || r.x) ++ putPred l (modField f 2 3) (carryOut sub a.val b.val cin)

/-- IADD64, ISUB64: width 64 (R400). -/
def addSub64 (sub : Bool) (f : Fields) (c : Ctx) (l : Nat) : List (Dst × Reg) :=
  let a := c.pairOf l f.a
  let b := c.pairB l f.b
  let cin := modBit f 8 && (c.w.thread l).pred (modField f 5 3)
  let uns := modBit f 1
  let r := if modBit f 0 then narrow 64 true uns (addExact sub (BitVec.asInt a.val uns) (BitVec.asInt b.val uns) cin)
    else narrow 64 false true (addExact sub a.val.toNat b.val.toNat cin)
  c.put64 l f.d r.val (a.x || b.x || r.x) ++ putPred l (modField f 2 3) (carryOut sub a.val b.val cin)

/-- A function of A and B with its own inexactness. -/
def int2 (f : Fields) (c : Ctx) (l : Nat) (g : Word → Word → Opnd 32) : List (Dst × Reg) :=
  let a := c.a32 l f
  let b := c.b32 l f
  let r := g a.val b.val
  c.put32 l f.d r.val (a.x || b.x || r.x)

/-- A function of A, B and C. -/
def int3 (f : Fields) (c : Ctx) (l : Nat) (g : Word → Word → Word → Opnd 32) : List (Dst × Reg) :=
  let a := c.a32 l f
  let b := c.b32 l f
  let k := c.c32 l f
  let r := g a.val b.val k.val
  c.put32 l f.d r.val (a.x || b.x || k.x || r.x)

/-- A function of A. -/
def int1 (f : Fields) (c : Ctx) (l : Nat) (g : Word → Opnd 32) : List (Dst × Reg) :=
  let a := c.a32 l f
  let r := g a.val
  c.put32 l f.d r.val (a.x || r.x)

def exactly {w : Nat} (v : BitVec w) : Opnd w := ⟨v, false⟩

/-- IADD R400. -/
def execIadd (f : Fields) (s : State) : Host.Outcome State Fault Refusal := .next (s.alu .iadd f 4 (addSub false f))
/-- ISUB R400. -/
def execIsub (f : Fields) (s : State) : Host.Outcome State Fault Refusal := .next (s.alu .isub f 4 (addSub true f))
/-- IADD64 R400. -/
def execIadd64 (f : Fields) (s : State) : Host.Outcome State Fault Refusal :=
  .next (s.alu .iadd64 f 4 (addSub64 false f))
/-- ISUB64 R400. -/
def execIsub64 (f : Fields) (s : State) : Host.Outcome State Fault Refusal := .next (s.alu .isub64 f 4 (addSub64 true f))

/-- IMUL R401. -/
def execImul (f : Fields) (s : State) : Host.Outcome State Fault Refusal :=
  .next (s.alu .imul f 6 fun c l => int2 f c l fun a b => exactly (a * b))

/-- IMULH R401: the high word of the exact product. -/
def execImulh (f : Fields) (s : State) : Host.Outcome State Fault Refusal :=
  .next (s.alu .imulh f 6 fun c l => int2 f c l fun a b =>
    let u := modBit f 1
    exactly (BitVec.ofInt 32 ((BitVec.asInt a u * BitVec.asInt b u) / 2 ^ 32)))

/-- IMAD R401. -/
def execImad (f : Fields) (s : State) : Host.Outcome State Fault Refusal :=
  .next (s.alu .imad f 6 fun c l => int3 f c l fun a b k =>
    let u := modBit f 1
    narrow 32 (modBit f 0) u (BitVec.asInt a u * BitVec.asInt b u + BitVec.asInt k u))

/-- IMADW R401: A * B plus a 64-bit C. -/
def execImadw (f : Fields) (s : State) : Host.Outcome State Fault Refusal :=
  .next (s.alu .imadw f 6 fun c l =>
    let u := modBit f 1
    let a := c.a32 l f
    let b := c.b32 l f
    let k := c.pairOf l f.c
    c.put64 l f.d (BitVec.ofInt 64 (BitVec.asInt a.val u * BitVec.asInt b.val u + BitVec.asInt k.val u))
      (a.x || b.x || k.x))

/-- IDIV R402. -/
def execIdiv (f : Fields) (s : State) : Host.Outcome State Fault Refusal :=
  .next (s.aluVar .idiv f fun c l => int2 f c l (divide false (modBit f 1)))
/-- IREM R402. -/
def execIrem (f : Fields) (s : State) : Host.Outcome State Fault Refusal :=
  .next (s.aluVar .irem f fun c l => int2 f c l (divide true (modBit f 1)))

/-- IMIN R403. -/
def execImin (f : Fields) (s : State) : Host.Outcome State Fault Refusal :=
  .next (s.alu .imin f 4 fun c l => int2 f c l fun a b =>
    exactly (if BitVec.asInt a (modBit f 1) ≤ BitVec.asInt b (modBit f 1) then a else b))
/-- IMAX R403. -/
def execImax (f : Fields) (s : State) : Host.Outcome State Fault Refusal :=
  .next (s.alu .imax f 4 fun c l => int2 f c l fun a b =>
    exactly (if BitVec.asInt a (modBit f 1) ≥ BitVec.asInt b (modBit f 1) then a else b))
/-- IABS R403. -/
def execIabs (f : Fields) (s : State) : Host.Outcome State Fault Refusal :=
  .next (s.alu .iabs f 4 fun c l => int1 f c l fun a => narrow 32 (modBit f 0) false (a.toInt.natAbs : Int))
/-- INEG R403. -/
def execIneg (f : Fields) (s : State) : Host.Outcome State Fault Refusal :=
  .next (s.alu .ineg f 4 fun c l => int1 f c l fun a => narrow 32 (modBit f 0) false (-a.toInt))

/-- The shift count of SHL, SHR and SHF (R404). -/
def shiftCount (wrap : Bool) (b : Word) : Nat := if wrap then b.toNat % 32 else b.toNat

/-- SHL R404. -/
def execShl (f : Fields) (s : State) : Host.Outcome State Fault Refusal :=
  .next (s.alu .shl f 4 fun c l => int2 f c l fun a b =>
    let n := shiftCount (modBit f 1) b
    exactly (if n ≥ 32 then 0 else a <<< n))
/-- SHR R404. -/
def execShr (f : Fields) (s : State) : Host.Outcome State Fault Refusal :=
  .next (s.alu .shr f 4 fun c l => int2 f c l fun a b =>
    let n := min 32 (shiftCount (modBit f 1) b)
    exactly (if modBit f 0 then a.sshiftRight n else a >>> n))
/-- SHF R404: the 64 bits C:A. -/
def execShf (f : Fields) (s : State) : Host.Outcome State Fault Refusal :=
  .next (s.alu .shf f 4 fun c l => int3 f c l fun a b k =>
    let n := min 32 (shiftCount (modBit f 1) b)
    let v : BitVec 64 := k ++ a
    exactly (if modBit f 0 then lo32 (v >>> n) else hi32 (v <<< n)))
/-- ROT R404. -/
def execRot (f : Fields) (s : State) : Host.Outcome State Fault Refusal :=
  .next (s.alu .rot f 4 fun c l => int2 f c l fun a b =>
    exactly (if modBit f 0 then a.rotateRight (b.toNat % 32) else a.rotateLeft (b.toNat % 32)))

/-- A word from its bits. -/
def wordOf (g : Nat → Bool) : Word := BitVec.ofBoolListLE ((List.range 32).map g) |>.setWidth 32

/-- LOGIC R405: a truth table of three inputs, A the lowest index bit. -/
def execLogic (f : Fields) (s : State) : Host.Outcome State Fault Refusal :=
  .next (s.alu .logic f 4 fun c l => int3 f c l fun a b k =>
    exactly (wordOf fun i => modBit f ((a.getLsbD i).toNat + 2 * (b.getLsbD i).toNat + 4 * (k.getLsbD i).toNat)))

/-- POPC R406. -/
def execPopc (f : Fields) (s : State) : Host.Outcome State Fault Refusal :=
  .next (s.alu .popc f 4 fun c l => int1 f c l fun a =>
    exactly (BitVec.ofNat 32 ((List.range 32).filter (fun i => a.getLsbD i)).length))
/-- CLZ R406. -/
def execClz (f : Fields) (s : State) : Host.Outcome State Fault Refusal :=
  .next (s.alu .clz f 4 fun c l => int1 f c l fun a =>
    exactly (BitVec.ofNat 32 (if a = 0 then 32 else 31 - Nat.log2 a.toNat)))
/-- BREV R406. -/
def execBrev (f : Fields) (s : State) : Host.Outcome State Fault Refusal :=
  .next (s.alu .brev f 4 fun c l => int1 f c l fun a => exactly (wordOf fun i => a.getLsbD (31 - i)))

/-- BFE R407. -/
def execBfe (f : Fields) (s : State) : Host.Outcome State Fault Refusal :=
  .next (s.alu .bfe f 4 fun c l => int3 f c l fun a b k =>
    let pos := b.toNat % 256
    let len := min (k.toNat % 256) 32
    let uns := modBit f 1
    let src := fun i => if pos + i ≤ 31 then a.getLsbD (pos + i) else !uns && a.getLsbD 31
    exactly (if len = 0 then 0 else wordOf fun i => if i < len then src i else !uns && src (len - 1)))

/-- BFI R408. -/
def execBfi (f : Fields) (s : State) : Host.Outcome State Fault Refusal :=
  .next (s.alu .bfi f 4 fun c l =>
    let a := c.a32 l f
    let b := c.b32 l f
    let k := c.c32 l f
    let e := c.reg l f.e 0
    let pos := k.val.toNat % 256
    let len := e.val.toNat % 256
    c.put32 l f.d (wordOf fun i => if pos ≤ i && i < pos + len then a.val.getLsbD (i - pos) else b.val.getLsbD i)
      (a.x || b.x || k.x || e.x))

/-- Byte `i` of B:A in the shuffle (R409). -/
def shufByte (ba : BitVec 64) (sel : Word) (i : Nat) : Byte := ba.extractLsb' (8 * field sel.toNat (3 * i + 2) (3 * i)) 8

/-- The bytes of BSHUF.zf and .sf from byte 0 upward (R409). -/
def shufBytes (ba : BitVec 64) (sel : Word) (signFill : Bool) (n i : Nat) (below : Byte) : List Byte :=
  match n with
  | 0 => []
  | m + 1 =>
    let b : Byte :=
      if sel.getLsbD (12 + i) then (if signFill && i ≠ 0 && below.getLsbD 7 then 0xFF else 0) else shufByte ba sel i
    b :: shufBytes ba sel signFill m (i + 1) b

/-- BSHUF R409. -/
def execBshuf (f : Fields) (s : State) : Host.Outcome State Fault Refusal :=
  .next (s.alu .bshuf f 4 fun c l => int3 f c l fun a b sel =>
    let ba : BitVec 64 := b ++ a
    let half := fun h => if sel.getLsbD (4 + h) then 0 else (ba.toNat >>> (16 * ((sel.toNat >>> (2 * h)) % 4))) % 2 ^ 16
    exactly (BitVec.ofNat 32
      (match modField f 0 2 with
       | 0 => leNat (shufBytes ba sel false 4 0 0)
       | 1 => leNat (shufBytes ba sel true 4 0 0)
       | _ => half 0 + 2 ^ 16 * half 1)))

/-- ICMP R410. -/
def execIcmp (f : Fields) (s : State) : Host.Outcome State Fault Refusal :=
  .next (s.alu .icmp f 4 fun c l =>
    let a := c.a32 l f
    let b := c.b32 l f
    let uns := modBit f 3
    let r := compareInt (modField f 0 3) (BitVec.asInt a.val uns) (BitVec.asInt b.val uns) &&
      !(modBit f 4 && (a.x || b.x))
    let q := (c.w.thread l).pred (modField f 8 3) != modBit f 11
    putPred l (modField f 5 3) (if modBit f 12 then r || q else r && q))

/-- SEL R411. -/
def execSel (f : Fields) (s : State) : Host.Outcome State Fault Refusal :=
  .next (s.alu .sel f 4 fun c l =>
    c.put l f.d [if (c.w.thread l).pred (modField f 0 3) != modBit f 3 then c.a32 l f else c.b32 l f])

/-- LEA R412. -/
def execLea (f : Fields) (s : State) : Host.Outcome State Fault Refusal :=
  .next (s.alu .lea f 4 fun c l =>
    let a := c.pairOf l f.a
    let b := c.b32 l f
    c.put64 l f.d (BitVec.ofInt 64 (a.val.toNat + BitVec.asInt b.val (modBit f 3) * 2 ^ modField f 0 3)) (a.x || b.x))

/-- IDP4 R401. -/
def execIdp4 (f : Fields) (s : State) : Host.Outcome State Fault Refusal :=
  .next (s.alu .idp4 f 6 fun c l => int3 f c l fun a b k =>
    let ua := modBit f 1
    let ub := modBit f 2
    let e := (List.range 4).foldl (fun n j =>
      n + BitVec.asInt (a.extractLsb' (8 * j) 8) ua * BitVec.asInt (b.extractLsb' (8 * j) 8) ub) (0 : Int)
    narrow 32 (modBit f 0) (ua && ub) (e + BitVec.asInt k (ua && ub)))

end Sys2Proof.Machine
end

