-- ==== Sys2Proof/Machine/Dispatch.lean ====
section
/-!
DEFINITION. One arm for each constructor of Instr: its meaning.
-/

namespace Sys2Proof.Machine

/-- The meaning of each step. -/
def exec (i : Instr) (s : State) : Host.Outcome State Fault Refusal :=
  match i with
  | .nop f => Sys2Proof.Machine.execNop f s
  | .bra f => Sys2Proof.Machine.execBra f s
  | .brx f => Sys2Proof.Machine.execBrx f s
  | .call f => Sys2Proof.Machine.execCall f s
  | .callx f => Sys2Proof.Machine.execCallx f s
  | .ret f => Sys2Proof.Machine.execRet f s
  | .meet f => Sys2Proof.Machine.execMeet f s
  | .meetr f => Sys2Proof.Machine.execMeetr f s
  | .exit f => Sys2Proof.Machine.execExit f s
  | .yield f => Sys2Proof.Machine.execYield f s
  | .brk f => Sys2Proof.Machine.execBrk f s
  | .trap f => Sys2Proof.Machine.execTrap f s
  | .sysc f => Sys2Proof.Machine.execSysc f s
  | .tret f => Sys2Proof.Machine.execTret f s
  | .role f => Sys2Proof.Machine.execRole f s
  | .preoff f => Sys2Proof.Machine.execPreoff f s
  | .preon f => Sys2Proof.Machine.execPreon f s
  | .iadd f => Sys2Proof.Machine.execIadd f s
  | .isub f => Sys2Proof.Machine.execIsub f s
  | .iadd64 f => Sys2Proof.Machine.execIadd64 f s
  | .isub64 f => Sys2Proof.Machine.execIsub64 f s
  | .imul f => Sys2Proof.Machine.execImul f s
  | .imulh f => Sys2Proof.Machine.execImulh f s
  | .imad f => Sys2Proof.Machine.execImad f s
  | .imadw f => Sys2Proof.Machine.execImadw f s
  | .idiv f => Sys2Proof.Machine.execIdiv f s
  | .irem f => Sys2Proof.Machine.execIrem f s
  | .imin f => Sys2Proof.Machine.execImin f s
  | .imax f => Sys2Proof.Machine.execImax f s
  | .iabs f => Sys2Proof.Machine.execIabs f s
  | .ineg f => Sys2Proof.Machine.execIneg f s
  | .shl f => Sys2Proof.Machine.execShl f s
  | .shr f => Sys2Proof.Machine.execShr f s
  | .shf f => Sys2Proof.Machine.execShf f s
  | .rot f => Sys2Proof.Machine.execRot f s
  | .logic f => Sys2Proof.Machine.execLogic f s
  | .popc f => Sys2Proof.Machine.execPopc f s
  | .clz f => Sys2Proof.Machine.execClz f s
  | .brev f => Sys2Proof.Machine.execBrev f s
  | .bfe f => Sys2Proof.Machine.execBfe f s
  | .bfi f => Sys2Proof.Machine.execBfi f s
  | .bshuf f => Sys2Proof.Machine.execBshuf f s
  | .icmp f => Sys2Proof.Machine.execIcmp f s
  | .sel f => Sys2Proof.Machine.execSel f s
  | .lea f => Sys2Proof.Machine.execLea f s
  | .idp4 f => Sys2Proof.Machine.execIdp4 f s
  | .mov f => Sys2Proof.Machine.execMov f s
  | .mov64 f => Sys2Proof.Machine.execMov64 f s
  | .sreg f => Sys2Proof.Machine.execSreg f s
  | .rdlane f => Sys2Proof.Machine.execRdlane f s
  | .pset f => Sys2Proof.Machine.execPset f s
  | .preg f => Sys2Proof.Machine.execPreg f s
  | .regp f => Sys2Proof.Machine.execRegp f s
  | .xget f => Sys2Proof.Machine.execXget f s
  | .xclr f => Sys2Proof.Machine.execXclr f s
  | .fadd f => Sys2Proof.Machine.execFadd f s
  | .fsub f => Sys2Proof.Machine.execFsub f s
  | .fmul f => Sys2Proof.Machine.execFmul f s
  | .ffma f => Sys2Proof.Machine.execFfma f s
  | .fmin f => Sys2Proof.Machine.execFmin f s
  | .fmax f => Sys2Proof.Machine.execFmax f s
  | .fcmp f => Sys2Proof.Machine.execFcmp f s
  | .frnd f => Sys2Proof.Machine.execFrnd f s
  | .fclass f => Sys2Proof.Machine.execFclass f s
  | .fldx f => Sys2Proof.Machine.execFldx f s
  | .frcp f => Sys2Proof.Machine.execFrcp f s
  | .frsq f => Sys2Proof.Machine.execFrsq f s
  | .fsqrt f => Sys2Proof.Machine.execFsqrt f s
  | .fdiv f => Sys2Proof.Machine.execFdiv f s
  | .fexp2 f => Sys2Proof.Machine.execFexp2 f s
  | .flog2 f => Sys2Proof.Machine.execFlog2 f s
  | .fsin f => Sys2Proof.Machine.execFsin f s
  | .fcos f => Sys2Proof.Machine.execFcos f s
  | .ftanh f => Sys2Proof.Machine.execFtanh f s
  | .cvt f => Sys2Proof.Machine.execCvt f s
  | .f2i f => Sys2Proof.Machine.execF2i f s
  | .i2f f => Sys2Proof.Machine.execI2f f s
  | .pack f => Sys2Proof.Machine.execPack f s
  | .unpk f => Sys2Proof.Machine.execUnpk f s
  | .rand f => Sys2Proof.Machine.execRand f s
  | .rseed f => Sys2Proof.Machine.execRseed f s
  | .vote f => Sys2Proof.Machine.execVote f s
  | .shfl f => Sys2Proof.Machine.execShfl f s
  | .red f => Sys2Proof.Machine.execRed f s
  | .scan f => Sys2Proof.Machine.execScan f s
  | .matchLanes f => Sys2Proof.Machine.execMatch f s
  | .tile f => Sys2Proof.Machine.execTile f s
  | .elect f => Sys2Proof.Machine.execElect f s
  | .ld f => Sys2Proof.Machine.execLd f s
  | .st f => Sys2Proof.Machine.execSt f s
  | .lds f => Sys2Proof.Machine.execLds f s
  | .sts f => Sys2Proof.Machine.execSts f s
  | .lde f => Sys2Proof.Machine.execLde f s
  | .stf f => Sys2Proof.Machine.execStf f s
  | .atom f => Sys2Proof.Machine.execAtom f s
  | .atoms f => Sys2Proof.Machine.execAtoms f s
  | .fence f => Sys2Proof.Machine.execFence f s
  | .pref f => Sys2Proof.Machine.execPref f s
  | .cwb f => Sys2Proof.Machine.execCwb f s
  | .cinv f => Sys2Proof.Machine.execCinv f s
  | .ldk f => Sys2Proof.Machine.execLdk f s
  | .brec f => Sys2Proof.Machine.execBrec f s
  | .bar f => Sys2Proof.Machine.execBar f s
  | .bara f => Sys2Proof.Machine.execBara f s
  | .barw f => Sys2Proof.Machine.execBarw f s
  | .ginit f => Sys2Proof.Machine.execGinit f s
  | .gadd f => Sys2Proof.Machine.execGadd f s
  | .gwait f => Sys2Proof.Machine.execGwait f s
  | .seal f => Sys2Proof.Machine.execSeal f s
  | .bwait f => Sys2Proof.Machine.execBwait f s
  | .push f => Sys2Proof.Machine.execPush f s
  | .wait f => Sys2Proof.Machine.execWait f s
  | .wake f => Sys2Proof.Machine.execWake f s
  | .tsig f => Sys2Proof.Machine.execTsig f s
  | .dbl f => Sys2Proof.Machine.execDbl f s
  | .mma f => Sys2Proof.Machine.execMma f s
  | .mmq f => Sys2Proof.Machine.execMmq f s
  | .mms f => Sys2Proof.Machine.execMms f s
  | .plane f => Sys2Proof.Machine.execPlane f s
  | .planx f => Sys2Proof.Machine.execPlanx f s
  | .cvr f => Sys2Proof.Machine.execCvr f s
  | .mfsr f => Sys2Proof.Machine.execMfsr f s
  | .mtsr f => Sys2Proof.Machine.execMtsr f s
  | .wspill f => Sys2Proof.Machine.execWspill f s
  | .wfill f => Sys2Proof.Machine.execWfill f s
  | .icinv f => Sys2Proof.Machine.execIcinv f s
  | .marg f => Sys2Proof.Machine.execMarg f s
  | .ckpt f => Sys2Proof.Machine.execCkpt f s
  | .instructionFetch core slot lane glitch => Sys2Proof.Machine.execInstructionFetch core slot lane glitch s
  | .trapEntry core slot lane => Sys2Proof.Machine.execTrapEntry core slot lane s
  | .regroup core slot => Sys2Proof.Machine.execRegroup core slot s
  | .matrixComplete core slot => Sys2Proof.Machine.execMatrixComplete core slot s
  | .operandLogReplay core slot entry => Sys2Proof.Machine.execOperandLogReplay core slot entry s
  | .rollback crew => Sys2Proof.Machine.execRollback crew s
  | .fWaitSatisfied core slot lane => Sys2Proof.Machine.execFWaitSatisfied core slot lane s
  | .waiterReread core slot lane => Sys2Proof.Machine.execWaiterReread core slot lane s
  | .wakeSpillReread core slot lane => Sys2Proof.Machine.execWakeSpillReread core slot lane s
  | .stalledPushAccept core slot lane => Sys2Proof.Machine.execStalledPushAccept core slot lane s
  | .timingDetection core serial => Sys2Proof.Machine.execTimingDetection core serial s
  | .marginWindowEnd core => Sys2Proof.Machine.execMarginWindowEnd core s
  | .drainComplete core => Sys2Proof.Machine.execDrainComplete core s
  | .crewMigration crew => Sys2Proof.Machine.execCrewMigration crew s
  | .iftDue core => Sys2Proof.Machine.execIftDue core s
  | .iftComplete core pass => Sys2Proof.Machine.execIftComplete core pass s
  | .patrolScrub stack sector found way => Sys2Proof.Machine.execPatrolScrub stack sector found way s
  | .monitorSample m => Sys2Proof.Machine.execMonitorSample m s
  | .powerDutyStep raise => Sys2Proof.Machine.execPowerDutyStep raise s
  | .thermalDutyStep cluster raise => Sys2Proof.Machine.execThermalDutyStep cluster raise s
  | .safeTalkativeEntry code => Sys2Proof.Machine.execSafeTalkativeEntry code s
  | .packageReset bootPins => Sys2Proof.Machine.execPackageReset bootPins s
  | .hubSelfTest pass => Sys2Proof.Machine.execHubSelfTest pass s
  | .bootPortTrain trained hdm => Sys2Proof.Machine.execBootPortTrain trained hdm s
  | .computeDieSelfTest pass links => Sys2Proof.Machine.execComputeDieSelfTest pass links s
  | .hbmTraining pass => Sys2Proof.Machine.execHbmTraining pass s
  | .bootBlockVerify block => Sys2Proof.Machine.execBootBlockVerify block s
  | .xipOff machineMode data => Sys2Proof.Machine.execXipOff machineMode data s
  | .mctpEndpointIdAssign eid => Sys2Proof.Machine.execMctpEndpointIdAssign eid s
  | .pldmSensorRead sensor => Sys2Proof.Machine.execPldmSensorRead sensor s
  | .challenge nonce => Sys2Proof.Machine.execChallenge nonce s
  | .getMeasurements index => Sys2Proof.Machine.execGetMeasurements index s
  | .pwrCtlWrite machineMode data => Sys2Proof.Machine.execPwrCtlWrite machineMode data s
  | .serviceCoreTakeOut core => Sys2Proof.Machine.execServiceCoreTakeOut core s
  | .serviceCoreReturn core => Sys2Proof.Machine.execServiceCoreReturn core s
  | .serviceClusterTakeOut cluster => Sys2Proof.Machine.execServiceClusterTakeOut cluster s
  | .serviceClusterReturn cluster => Sys2Proof.Machine.execServiceClusterReturn cluster s
  | .clusterReturnTestDone cluster pass => Sys2Proof.Machine.execClusterReturnTestDone cluster pass s
  | .serviceL2SliceTakeOut slice => Sys2Proof.Machine.execServiceL2SliceTakeOut slice s
  | .serviceL2SliceReturn slice => Sys2Proof.Machine.execServiceL2SliceReturn slice s
  | .serviceLoamHartTakeOut hart => Sys2Proof.Machine.execServiceLoamHartTakeOut hart s
  | .serviceLoamHartReturn hart => Sys2Proof.Machine.execServiceLoamHartReturn hart s
  | .marginCtlWrite machineMode core data => Sys2Proof.Machine.execMarginCtlWrite machineMode core data s
  | .l2ProfileWrite machineMode slice data => Sys2Proof.Machine.execL2ProfileWrite machineMode slice data s
  | .l2WmaskWrite machineMode slice data => Sys2Proof.Machine.execL2WmaskWrite machineMode slice data s
  | .portCfgApply machineMode group data => Sys2Proof.Machine.execPortCfgApply machineMode group data s
  | .linkDown port => Sys2Proof.Machine.execLinkDown port s
  | .pcieCompletion tag result => Sys2Proof.Machine.execPcieCompletion tag result s
  | .completionTimeout tag => Sys2Proof.Machine.execCompletionTimeout tag s
  | .inboundMemoryRequest r => Sys2Proof.Machine.execInboundMemoryRequest r s
  | .capture r => Sys2Proof.Machine.execCapture r s
  | .atomicOpRequest r => Sys2Proof.Machine.execAtomicOpRequest r s
  | .atsTranslationRequest r => Sys2Proof.Machine.execAtsTranslationRequest r s
  | .pageRequest r => Sys2Proof.Machine.execPageRequest r s
  | .invalidationAcknowledge rid => Sys2Proof.Machine.execInvalidationAcknowledge rid s
  | .assertIntx port => Sys2Proof.Machine.execAssertIntx port s
  | .ioRequest port => Sys2Proof.Machine.execIoRequest port s
  | .ptmRequest port => Sys2Proof.Machine.execPtmRequest port s
  | .imsicSeteipnum file identity => Sys2Proof.Machine.execImsicSeteipnum file identity s
  | .configRead offset size => Sys2Proof.Machine.execConfigRead offset size s
  | .configWrite offset size data => Sys2Proof.Machine.execConfigWrite offset size data s
  | .doorbellSend port => Sys2Proof.Machine.execDoorbellSend port s
  | .ntbInboundAccess r => Sys2Proof.Machine.execNtbInboundAccess r s
  | .ubnorFlit port crcOk => Sys2Proof.Machine.execUbnorFlit port crcOk s
  | .ubnorPortDegrade port => Sys2Proof.Machine.execUbnorPortDegrade port s
  | .inboundDomainAccess r => Sys2Proof.Machine.execInboundDomainAccess r s
  | .domainAcknowledge peer => Sys2Proof.Machine.execDomainAcknowledge peer s
  | .peerTimeout tag => Sys2Proof.Machine.execPeerTimeout tag s
  | .xltPdirWrite data => Sys2Proof.Machine.execXltPdirWrite data s
  | .insert hart cmd => Sys2Proof.Machine.execInsert hart cmd s
  | .remove hart cmd => Sys2Proof.Machine.execRemove hart cmd s
  | .modify hart cmd => Sys2Proof.Machine.execModify hart cmd s
  | .resize hart cmd => Sys2Proof.Machine.execResize hart cmd s
  | .flush hart cmd => Sys2Proof.Machine.execFlush hart cmd s
  | .tblAck data => Sys2Proof.Machine.execTblAck data s
  | .prqResp data => Sys2Proof.Machine.execPrqResp data s
  | .wakePort data => Sys2Proof.Machine.execWakePort data s
  | .submit hart data => Sys2Proof.Machine.execSubmit hart data s
  | .machineTimer hart => Sys2Proof.Machine.execMachineTimer hart s
  | .slew machineMode data => Sys2Proof.Machine.execSlew machineMode data s
  | .gtimeSet machineMode data => Sys2Proof.Machine.execGtimeSet machineMode data s
  | .ppsEdge seconds valid => Sys2Proof.Machine.execPpsEdge seconds valid s
  | .partitionEnable machineMode part data => Sys2Proof.Machine.execPartitionEnable machineMode part data s
  | .partitionDisable machineMode part data => Sys2Proof.Machine.execPartitionDisable machineMode part data s
  | .afterEventSatisfied launch => Sys2Proof.Machine.execAfterEventSatisfied launch s
  | .crewPlace launch => Sys2Proof.Machine.execCrewPlace launch s
  | .crewPreempt crew => Sys2Proof.Machine.execCrewPreempt crew s
  | .preemptWindowLimit core slot => Sys2Proof.Machine.execPreemptWindowLimit core slot s
  | .launchDone launch => Sys2Proof.Machine.execLaunchDone launch s
  | .launchFault launch sub addr who => Sys2Proof.Machine.execLaunchFault launch sub addr who s
  | .swapDecision part => Sys2Proof.Machine.execSwapDecision part s
  | .partitionSwap fromPart toPart => Sys2Proof.Machine.execPartitionSwap fromPart toPart s
  | .partitionSwapDone fromPart toPart => Sys2Proof.Machine.execPartitionSwapDone fromPart toPart s
  | .thymeSlotDue entry => Sys2Proof.Machine.execThymeSlotDue entry s
  | .thymeWithdraw entry => Sys2Proof.Machine.execThymeWithdraw entry s
  | .thymeHeldExpire entry => Sys2Proof.Machine.execThymeHeldExpire entry s
  | .tqEnable machineMode queue data => Sys2Proof.Machine.execTqEnable machineMode queue data s
  | .tqDisable machineMode queue data => Sys2Proof.Machine.execTqDisable machineMode queue data s
  | .taskPost queue => Sys2Proof.Machine.execTaskPost queue s
  | .taskDequeue queue => Sys2Proof.Machine.execTaskDequeue queue s
  | .gatherTimeout queue => Sys2Proof.Machine.execGatherTimeout queue s
  | .taskWavePlace queue => Sys2Proof.Machine.execTaskWavePlace queue s
  | .taskWaveStart crew => Sys2Proof.Machine.execTaskWaveStart crew s
  | .taskRetire core slot lane => Sys2Proof.Machine.execTaskRetire core slot lane s
  | .pageWritebackDone crew page => Sys2Proof.Machine.execPageWritebackDone crew page s
  | .pageRefill crew page => Sys2Proof.Machine.execPageRefill crew page s
  | .copy engine outside => Sys2Proof.Machine.execCopy engine outside s
  | .copyCompletion engine => Sys2Proof.Machine.execCopyCompletion engine s
  | .registerWrite w => Sys2Proof.Machine.execRegisterWrite w s
  | .illegalInstruction word => Sys2Proof.Machine.execIllegalInstruction word s
  | .waitDeadline core slot lane => Sys2Proof.Machine.execWaitDeadline core slot lane s
  | .variableLatencyResult core slot => Sys2Proof.Machine.execVariableLatencyResult core slot s
  | .loamAccess a => Sys2Proof.Machine.execLoamAccess a s
  | .linkUp port => Sys2Proof.Machine.execLinkUp port s
  | .aerErrorMessage port m => Sys2Proof.Machine.execAerErrorMessage port m s
  | .marginSupplySettled core => Sys2Proof.Machine.execMarginSupplySettled core s
  | .sliceFlushComplete slice => Sys2Proof.Machine.execSliceFlushComplete slice s
  | .wakeTableReread => Sys2Proof.Machine.execWakeTableReread s
  | .supplyOutOfRange => Sys2Proof.Machine.execSupplyOutOfRange s
  | .headerChecks => Sys2Proof.Machine.execHeaderChecks s
  | .firmwareEntry => Sys2Proof.Machine.execFirmwareEntry s
  | .pldmResetEffecter => Sys2Proof.Machine.execPldmResetEffecter s
  | .getVersion => Sys2Proof.Machine.execGetVersion s
  | .getCapabilities => Sys2Proof.Machine.execGetCapabilities s
  | .negotiateAlgorithms => Sys2Proof.Machine.execNegotiateAlgorithms s
  | .getDigests => Sys2Proof.Machine.execGetDigests s
  | .getCertificate => Sys2Proof.Machine.execGetCertificate s
  | .atsInvalidationTimeout => Sys2Proof.Machine.execAtsInvalidationTimeout s
  | .resizeMigrateStep => Sys2Proof.Machine.execResizeMigrateStep s
  | .resizeRetry => Sys2Proof.Machine.execResizeRetry s
  | .prqAppend => Sys2Proof.Machine.execPrqAppend s
  | .failureRecordAppend => Sys2Proof.Machine.execFailureRecordAppend s
  | .timeSourceLost => Sys2Proof.Machine.execTimeSourceLost s
  | .launch => Sys2Proof.Machine.execLaunch s
  | .cancel => Sys2Proof.Machine.execCancel s
  | .thymeWrite => Sys2Proof.Machine.execThymeWrite s
  | .thymeClear => Sys2Proof.Machine.execThymeClear s
  | .releasedTaskEnqueue => Sys2Proof.Machine.execReleasedTaskEnqueue s
  | .flip => Sys2Proof.Machine.execFlip s
  | .poison => Sys2Proof.Machine.execPoison s

end Sys2Proof.Machine
end

