-- ==== Sys2Proof/Machine/Step.lean ====
section
/-!
DEFINITION. One step: the head of the pending inputs, else what the state makes due, else the issue of a bundle, else a cycle.
-/

namespace Sys2Proof.Machine

/-- The issue of the bundle named by State.cur: the instruction at its slot, or the trap of a pattern that is none. -/
def State.issueStep (s : State) : Host.Outcome State Fault Refusal :=
  match s.slotNow with
  | .ins i => exec i s
  | .error w e => .next (s.decodeTrap w e)
  | .fetch => .next s.idle

/-- A step of the package that is not an input. -/
def State.ownStep (s : State) : Host.Outcome State Fault Refusal :=
  match s.dueRow with
  | some i => exec i s
  | none =>
    match s.issueNow with
    | some b => ({ s with cur := b } : State).issueStep
    | none => .next s.idle

/-- An input is taken; the safe talkative state answers only management and resets (R33). -/
def State.inputStep (s : State) (i : Instr) (rest : List Instr) : Host.Outcome State Fault Refusal :=
  if s.boot.safe && !managedStep i then .next { s with inputs := rest } else exec i { s with inputs := rest }

/-- One step of the package. -/
def step (s : State) : Host.Outcome State Fault Refusal :=
  let s := s.prologue
  match s.inputs with
  | i :: rest => s.inputStep i rest
  | [] => s.ownStep

/-- The package about to issue the instruction whose bits are `w`: State.placed. A word longer than a slot is cut to 96 bits. -/
def State.withFetchWord (s : State) (nbits w : Nat) : State := s.placed (BitVec.ofNat 96 (w % 2 ^ nbits))

end Sys2Proof.Machine
end

