-- ==== Sys2Proof/Safety.lean ====
section
/-!
DEFINITION. What claims say of a run: a step that goes on, the form that memory keeps, a bundle that can issue, and how the
state after an issue relates to the state before. A `kept` part of a record is what a frame says is unchanged: the record
with the fields blanked that the frame lets change.
-/

namespace Sys2Proof.Machine

/-- A step answers a next state: the machine goes on. -/
def GoesOn (s : State) : Prop := ∃ t, step s = .next t

/-- Memory is in its canonical form. -/
def State.memOk (s : State) : Prop := Memory.wf s.mem = true

/-- A byte of memory outside [a, a + n) is unchanged. -/
def sameOutside (s t : State) (a n : Nat) : Prop := ∀ b, (b < a ∨ a + n ≤ b) → t.byte b = s.byte b

/-- Every byte of memory is unchanged. -/
def sameMemory (s t : State) : Prop := ∀ b, t.byte b = s.byte b

/-! ### Frames -/

/-- A thread without its place (PC, whether its entry is checked, parked) and without the bookkeeping of an issue (samples of
%clk and %gtime, regroup and starvation counts, the cycle that S = 1 waits for): registers, predicates, window, trap registers,
draw counter and all else. -/
def Thread.kept (t : Thread) : Thread :=
  { t with pc := 0, checked := false, returned := false, parked := false, clkSample := 0, gtimeSample := 0, issued := false, since := 0, hold := 0 }

/-- A wave without its threads, its results in flight and its bundles. -/
def Wave.kept (w : Wave) : Wave := { w with threads := [], fly := [], bundles := [] }

/-- A wave without its threads and bundles. -/
def Wave.noThreads (w : Wave) : Wave := { w with threads := [], bundles := [] }

/-- The package without its waves, the issue ports of the quarters, the operand latches and the model's own counter of
scoreboard entries: memory, hub registers, crews, launches, engines, links and all else. -/
def State.kept (s : State) : State := { s with waves := [], busy := [], latches := [], serial := 0 }

/-! ### Bundles that can issue -/

/-- State.cur names a wave slot (R185), the lanes of its bundle can issue and are at its PC (R190, R191), a protected launch has both
lanes of a pair in it, and no register row of the wave has an uncorrectable error (R248). -/
structure Issuable (s : State) : Prop where
  slot : s.cur.slot < 64
  place : ∀ l ∈ s.ctx.active, (s.ctx.w.thread l).pc = s.cur.pc
  lane : ∀ l ∈ s.ctx.active, (s.ctx.w.thread l).exited = false ∧ (s.ctx.w.thread l).block = none ∧
    (s.ctx.w.thread l).ptrap = none
  pair : s.ctx.lr.prot = true → ∀ l ∈ s.ctx.active, l % 2 = 0 →
    l + 1 ∈ s.ctx.active ∧ (s.ctx.w.thread l).trapMode = (s.ctx.w.thread (l + 1)).trapMode
  whole : ∀ l, (s.ctx.w.thread l).bad = []

/-- Every row that the instruction names is resident in the lanes that execute (R211); it can fail only in trap mode. -/
def Residents (s : State) (o : Op) (f : Fields) : Prop :=
  ∀ l ∈ s.ctx.executing f, s.ctx.operandsResident o f l = true

/-! ### What an issue leaves -/

/-- A lane goes to `pc`: it parks there when that is its meeting register, outside trap mode (R189). -/
def Thread.wentTo (t u : Thread) (pc : SlotAddr) : Prop :=
  u.pc = pc ∧ u.parked = (!t.trapMode && pc == t.mr) ∧ u.checked = false

/-- Results `ws` enter the pipeline behind those in flight: each lands at `cycle`, or with an earlier result for the same
destination that lands later (R204, R205). -/
def Wave.gains (w w' : Wave) (cycle : Nat) (ws : List (Dst × Reg)) : Prop :=
  ∃ new : List Fly, w'.fly = w.fly ++ new ∧ new.map (fun x => (x.dst, x.val)) = ws ∧
    ∀ x ∈ new, cycle ≤ x.land ∧ (∀ y ∈ w.fly, y.dst = x.dst → y.land ≤ x.land) ∧
      (x.land = cycle ∨ ∃ y ∈ w.fly, y.dst = x.dst ∧ y.land = x.land)

/-- What an instruction leaves, where `p` is the state that its own effect makes of `s`: the package, the other waves, and the
threads of the wave are as in `p` but for their places; a lane `l` of the bundle goes to `dest l`, the others stay. -/
structure Leads (s p t : State) (dest : Nat → SlotAddr) : Prop where
  package : t.kept = p.kept
  waves : ∀ k, k ≠ s.ctx.k → t.wave k = p.wave k
  thread : ∀ l, (t.thread s.ctx.k l).kept = (p.thread s.ctx.k l).kept
  moved : ∀ l ∈ s.ctx.active, (p.thread s.ctx.k l).wentTo (t.thread s.ctx.k l) (dest l)
  stayed : ∀ l, l ∉ s.ctx.active → (t.thread s.ctx.k l).pc = (p.thread s.ctx.k l).pc ∧
    (t.thread s.ctx.k l).parked = (p.thread s.ctx.k l).parked

/-- Every lane of the bundle goes to the fall-through. -/
def FallsThrough (s p t : State) : Prop := Leads s p t fun _ => s.ctx.next

/-- The instruction completes with the effect that makes `p` of `s`; nothing else changes but places. -/
def Does (i : Instr) (s p : State) : Prop :=
  ∃ t, exec i s = .next t ∧ FallsThrough s p t ∧ (t.wave s.ctx.k).noThreads = (p.wave s.ctx.k).noThreads

/-- The transfer completes with the effect that makes `p` of `s`: an executing lane `l` goes to `dest l`, the other lanes of the
bundle fall through; nothing else changes but places. -/
def Transfers (i : Instr) (f : Fields) (s p : State) (dest : Nat → SlotAddr) : Prop :=
  ∃ t, exec i s = .next t ∧
    Leads s p t (fun l => if l ∈ s.ctx.executing f then dest l else s.ctx.next) ∧
    (t.wave s.ctx.k).noThreads = (p.wave s.ctx.k).noThreads

/-- The instruction completes with the effect that makes `p` of `s`, and computes for each executing lane, ascending, the
results `g` with fixed latency `lat`; nothing else changes but places. -/
def ComputesIn (i : Instr) (f : Fields) (s p : State) (lat : Nat) (g : Nat → List (Dst × Reg)) : Prop :=
  ∃ t, exec i s = .next t ∧ FallsThrough s p t ∧ (t.wave s.ctx.k).kept = (p.wave s.ctx.k).kept ∧
    (p.wave s.ctx.k).gains (t.wave s.ctx.k) (s.cycle + lat) ((s.ctx.executing f).flatMap g)

/-- The instruction completes, and computes for each executing lane, ascending, the results `g` with fixed latency `lat`;
nothing else changes but places: every register, predicate, special register and byte of memory is as before. -/
def Computes (i : Instr) (f : Fields) (s : State) (lat : Nat) (g : Nat → List (Dst × Reg)) : Prop :=
  ComputesIn i f s s lat g

/-- Scoreboarded results `ws` (R207): one entry that marks their destinations, which land at a VARIABLE_LATENCY_RESULT. -/
def Wave.pends (w : Wave) (serial : Nat) (ws : List (Dst × Reg)) : Wave :=
  if ws = [] then w
  else { w with pend := w.pend ++ [{ serial := serial, marks := ws.map (·.1), writes := ws, waiting := 0 }] }

/-- The instruction completes with the effect that makes `p` of `s`, and computes scoreboarded results `ws`; nothing else
changes but places. -/
def Scoreboards (i : Instr) (s p : State) (ws : List (Dst × Reg)) : Prop :=
  ∃ t, exec i s = .next t ∧ FallsThrough s p t ∧
    (t.wave s.ctx.k).noThreads = ((p.wave s.ctx.k).pends s.serial ws).noThreads

/-! ### Traps -/

/-- A thread that has taken a trap (R216, R490): in trap mode at TRAPV, with its cause, value, address and resume address, and its
predicates saved; registers, windows and all else as before. -/
def Thread.trapped (t : Thread) (lr : LaunchRec) (cause : Nat) (tval : DWord) (tpc res : SlotAddr) : Thread :=
  { t with
    trapMode := true, ptrap := none, parked := false, block := none
    tcause := BitVec.ofNat 8 cause, tval := tval, tpc := tpc, res := res, tpred := t.preds
    pc := lr.trapv, checked := true, returned := false }

/-- A launch whose threads take traps: it has a handler (R218). -/
def handles (s : State) : Prop := s.ctx.lr.trapv ≠ 0

/-- The executing lanes can enter a trap at once: outside trap mode, with no fixed-latency result in flight (R490). -/
def Enterable (s : State) (f : Fields) : Prop :=
  ∀ l ∈ s.ctx.executing f, (s.ctx.w.thread l).trapMode = false ∧ s.ctx.w.inFlight l = []

/-- In a protected launch the lanes of a pair execute together. -/
def Together (s : State) (f : Fields) : Prop :=
  s.ctx.lr.prot = true → ∀ l ∈ s.ctx.active, l % 2 = 0 → (l ∈ s.ctx.executing f ↔ l + 1 ∈ s.ctx.executing f)

/-- Every executing lane takes a trap with its cause, value and resume address, at the PC of the bundle; the other lanes of the
bundle fall through, and nothing else changes but places. -/
def Traps (i : Instr) (f : Fields) (s : State) (cause : Nat → Nat) (tval : Nat → DWord) (res : SlotAddr) : Prop :=
  ∃ t, exec i s = .next t ∧ t.kept = s.kept ∧ (∀ k, k ≠ s.ctx.k → t.wave k = s.wave k) ∧
    (t.wave s.ctx.k).noThreads = (s.wave s.ctx.k).noThreads ∧
    (∀ l ∈ s.ctx.executing f,
      let u := (s.thread s.ctx.k l).trapped s.ctx.lr (cause l) (tval l) s.cur.pc res
      (t.thread s.ctx.k l).kept = u.kept ∧ (t.thread s.ctx.k l).pc = s.ctx.lr.trapv ∧ (t.thread s.ctx.k l).checked = true ∧
        (t.thread s.ctx.k l).parked = false) ∧
    (∀ l ∈ s.ctx.active, l ∉ s.ctx.executing f → (t.thread s.ctx.k l).kept = (s.thread s.ctx.k l).kept ∧
      (s.thread s.ctx.k l).wentTo (t.thread s.ctx.k l) s.ctx.next) ∧
    (∀ l, l ∉ s.ctx.active → (t.thread s.ctx.k l).kept = (s.thread s.ctx.k l).kept ∧
      (t.thread s.ctx.k l).pc = (s.thread s.ctx.k l).pc)

end Sys2Proof.Machine
end

