-- ==== Sys2Proof/Certificates/Slice0/Obligations.lean ====
section
/-!
DEFINITION. The statements for the provers. Each docstring names the rules of the manual that the statement formalises.
-/

open Sys2Proof Sys2Proof.Machine

namespace Sys2Proof.Says

/-- An exact integer in `w` bits, signed or unsigned, clamped to the range, and whether it was out of range (R398). -/
def clamped (w : Nat) (unsigned : Bool) (e : Int) : BitVec w × Bool :=
  let lo : Int := if unsigned then 0 else -2 ^ (w - 1)
  let hi : Int := if unsigned then 2 ^ w - 1 else 2 ^ (w - 1) - 1
  if e < lo then (BitVec.ofInt w lo, true) else if hi < e then (BitVec.ofInt w hi, true) else (BitVec.ofInt w e, false)

/-- The carry that comes in: the predicate CIN where CE = 1, else 0 (R400). -/
def carryIn (s : State) (f : Fields) (l : Nat) : Nat :=
  if modBit f 8 && (s.ctx.w.thread l).pred (modField f 5 3) then 1 else 0

/-- A value read signed, or unsigned. -/
def int {w : Nat} (v : BitVec w) (unsigned : Bool) : Int := if unsigned then v.toNat else v.toInt

/-- The next word of the converter generator of a quarter (R320). -/
def nextWord (s : State) : Word :=
  let w := s.generator s.ctx.k
  let w := w ^^^ (w <<< 13)
  let w := w ^^^ (w >>> 17)
  w ^^^ (w <<< 5)

/-- Mode SRI advances the generator once, before use (R320); no other mode does. -/
def drawn (s : State) (rnd : Nat) : State :=
  if rnd = 5 then { s with gens := SMap.put s.gens (quarterOf s.ctx.k) (nextWord s) } else s

/-- The mode for sub-element `j` in lane `l`, with its random byte: SRI from the rotated word, SRX from the registers `rs`
(R320, R321, R428). -/
def modeOf (s : State) (rnd : Nat) (rs : List Reg) (l j : Nat) : Mode :=
  let lane := if s.ctx.lr.prot then l - l % 2 else l
  let v := (nextWord s).rotateLeft (5 * lane % 32)
  let byte := fun (w : Word) (i : Nat) => (w.extractLsb' (8 * i) 8).toNat
  ⟨rnd, if rnd = 5 then (if j < 4 then byte v j else byte (~~~v) (j % 4))
    else if rnd = 6 then byte (rs.getD (j / 4) .zero).val (j % 4) else 0⟩

/-- The X of the r operand counts under SRX alone (R321). -/
def srxX (rnd : Nat) (rs : List Reg) : Bool := rnd == 6 && rs.any (·.x)

/-- Sub-element `j` of a word (R313). -/
def element (width : Nat) (v : Word) (j : Nat) : Nat := (v.toNat >>> (width * j)) % 2 ^ width

/-- The word whose sub-elements are `es`, element 0 lowest (R313). -/
def packed (width : Nat) (es : List Nat) : Word :=
  BitVec.ofNat 32 ((List.range es.length).foldl (fun n j => n + (es.getD j 0 % 2 ^ width) * 2 ^ (width * j)) 0)

/-- An encoding with its sign bit cleared, then inverted (R416). -/
def signs (F : FloatFmt) (abs neg : Bool) (code : Nat) : Nat :=
  let sign := 2 ^ (F.width - 1)
  let mag := code % sign
  let bit := (!abs && code / sign % 2 == 1) != neg
  mag + if bit then sign else 0

/-- R418 of one lane: every sub-element exact, then one rounding; `e` is the exact operation, `r` the r operand. -/
def floatOp (s : State) (f : Fields) (l : Nat) (c r : Reg) (e : Machine.Num → Machine.Num → Machine.Num → Bool → Machine.Num) : List (Dst × Reg) :=
  let F := typeFmt (modField f 0 3)
  let rnd := modField f 3 3
  let a := s.ctx.a32 l f
  let b := s.ctx.b32 l f
  let res := (List.range (32 / F.width)).map fun j =>
    F.round (modeOf s rnd [r] l j) (modBit f 6)
      (e (F.value (signs F (modBit f 9) (modBit f 7) (element F.width a.val j)))
        (F.value (signs F (modBit f 10) (modBit f 8) (element F.width b.val j)))
        (F.value (signs F false (modBit f 11) (element F.width c.val j))) (rnd == 3))
  s.ctx.put32 l f.d (packed F.width (res.map (·.code))) (a.x || b.x || c.x || srxX rnd [r] || res.any (·.inx))

/-- One f32 result of the special function unit: rounded once; inexact of itself where `v` says so (R326, R424). -/
def sfuOp (s : State) (f : Fields) (l : Nat) (x : Bool) (v : Machine.Num) (flag : Bool) : List (Dst × Reg) :=
  let rnd := modField f 3 3
  let r := s.ctx.c32 l f
  let y := FloatFmt.f32.round (modeOf s rnd [r] l 0) false v
  s.ctx.put32 l f.d (BitVec.ofNat 32 y.code) (x || srxX rnd [r] || y.inx || flag)

/-- Lanes `m` and `l` are in one tile; in a protected launch on one side of their pairs (R471). -/
def sameTile (s : State) (m l : Nat) : Bool :=
  let w := if s.ctx.lr.prot then min s.ctx.w.tile 16 else s.ctx.w.tile
  s.ctx.lr.visible m / w == s.ctx.lr.visible l / w && (!s.ctx.lr.prot || m % 2 == l % 2)

/-- The executing lanes of the tile of `l`, ascending. -/
def tileOf (s : State) (f : Fields) (l : Nat) : List Nat := (s.ctx.executing f).filter fun m => sameTile s m l

/-- The tile width is one that TILE sets (R472). -/
def tileOk (s : State) : Prop := ∃ n < 5, s.ctx.w.tile = 2 ^ (n + 1)

/-- A scalar destination is allowed while the tile covers the wave (R471). -/
def tileScalar (s : State) (f : Fields) : Prop :=
  (∃ n, f.d = .s n) → (if s.ctx.lr.prot then 16 ≤ s.ctx.w.tile else s.ctx.w.tile = 32)

/-- The mask of the visible lanes of a list of lanes. -/
def maskVisible (s : State) (ls : List Nat) : Word :=
  wordOf fun i => ls.any fun m => s.ctx.lr.visible m == i

end Sys2Proof.Says

open Sys2Proof.Says

/-- R400. IADD, ISUB, IADD64, ISUB64: the sum or difference with carry, modular or clamped, X where the clamp changed it,
and the carry or borrow of the bit patterns in a predicate; nothing else but places changes. -/
def Obligations.IntegerSums : Prop := ∀ (s : State) (f : Fields), Issuable s →
  (Residents s .iadd f → Computes (.iadd f) f s 4 fun l =>
    let a := s.ctx.a32 l f
    let b := s.ctx.b32 l f
    let n := carryIn s f l
    let r := clamped 32 (modBit f 1) (int a.val (modBit f 1) + int b.val (modBit f 1) + n)
    (if modBit f 0 then s.ctx.put32 l f.d r.1 (a.x || b.x || r.2)
      else s.ctx.put32 l f.d (a.val + b.val + BitVec.ofNat 32 n) (a.x || b.x)) ++
    putPred l (modField f 2 3) (decide (2 ^ 32 ≤ a.val.toNat + b.val.toNat + n))) ∧
  (Residents s .isub f → Computes (.isub f) f s 4 fun l =>
    let a := s.ctx.a32 l f
    let b := s.ctx.b32 l f
    let n := carryIn s f l
    let r := clamped 32 (modBit f 1) (int a.val (modBit f 1) - int b.val (modBit f 1) - n)
    (if modBit f 0 then s.ctx.put32 l f.d r.1 (a.x || b.x || r.2)
      else s.ctx.put32 l f.d (a.val - b.val - BitVec.ofNat 32 n) (a.x || b.x)) ++
    putPred l (modField f 2 3) (decide (a.val.toNat < b.val.toNat + n))) ∧
  (Residents s .iadd64 f → Computes (.iadd64 f) f s 4 fun l =>
    let a := s.ctx.pairOf l f.a
    let b := s.ctx.pairB l f.b
    let n := carryIn s f l
    let r := clamped 64 (modBit f 1) (int a.val (modBit f 1) + int b.val (modBit f 1) + n)
    (if modBit f 0 then s.ctx.put64 l f.d r.1 (a.x || b.x || r.2)
      else s.ctx.put64 l f.d (a.val + b.val + BitVec.ofNat 64 n) (a.x || b.x)) ++
    putPred l (modField f 2 3) (decide (2 ^ 64 ≤ a.val.toNat + b.val.toNat + n))) ∧
  (Residents s .isub64 f → Computes (.isub64 f) f s 4 fun l =>
    let a := s.ctx.pairOf l f.a
    let b := s.ctx.pairB l f.b
    let n := carryIn s f l
    let r := clamped 64 (modBit f 1) (int a.val (modBit f 1) - int b.val (modBit f 1) - n)
    (if modBit f 0 then s.ctx.put64 l f.d r.1 (a.x || b.x || r.2)
      else s.ctx.put64 l f.d (a.val - b.val - BitVec.ofNat 64 n) (a.x || b.x)) ++
    putPred l (modField f 2 3) (decide (a.val.toNat < b.val.toNat + n)))

/-- R401. Products: the low word, the high word, the multiply-adds of 32 and 64 bits, and the dot product of four bytes. -/
def Obligations.IntegerProducts : Prop := ∀ (s : State) (f : Fields), Issuable s →
  (Residents s .imul f → Computes (.imul f) f s 6 fun l =>
    let a := s.ctx.a32 l f
    let b := s.ctx.b32 l f
    s.ctx.put32 l f.d (a.val * b.val) (a.x || b.x)) ∧
  (Residents s .imulh f → Computes (.imulh f) f s 6 fun l =>
    let a := s.ctx.a32 l f
    let b := s.ctx.b32 l f
    s.ctx.put32 l f.d (BitVec.ofInt 32 (int a.val (modBit f 1) * int b.val (modBit f 1) / 2 ^ 32)) (a.x || b.x)) ∧
  (Residents s .imad f → Computes (.imad f) f s 6 fun l =>
    let a := s.ctx.a32 l f
    let b := s.ctx.b32 l f
    let c := s.ctx.c32 l f
    let r := clamped 32 (modBit f 1) (int a.val (modBit f 1) * int b.val (modBit f 1) + int c.val (modBit f 1))
    if modBit f 0 then s.ctx.put32 l f.d r.1 (a.x || b.x || c.x || r.2)
    else s.ctx.put32 l f.d (a.val * b.val + c.val) (a.x || b.x || c.x)) ∧
  (Residents s .imadw f → Computes (.imadw f) f s 6 fun l =>
    let a := s.ctx.a32 l f
    let b := s.ctx.b32 l f
    let c := s.ctx.pairOf l f.c
    s.ctx.put64 l f.d
      (BitVec.ofInt 64 (int a.val (modBit f 1)) * BitVec.ofInt 64 (int b.val (modBit f 1)) + c.val) (a.x || b.x || c.x)) ∧
  (Residents s .idp4 f → Computes (.idp4 f) f s 6 fun l =>
    let a := s.ctx.a32 l f
    let b := s.ctx.b32 l f
    let c := s.ctx.c32 l f
    let p := fun (j : Nat) => int (a.val.extractLsb' (8 * j) 8) (modBit f 1) * int (b.val.extractLsb' (8 * j) 8) (modBit f 2)
    let u := modBit f 1 && modBit f 2
    let e := p 0 + p 1 + p 2 + p 3 + int c.val u
    let r := clamped 32 u e
    if modBit f 0 then s.ctx.put32 l f.d r.1 (a.x || b.x || c.x || r.2)
    else s.ctx.put32 l f.d (BitVec.ofInt 32 e) (a.x || b.x || c.x))

/-- R402, R207. IDIV and IREM, with every corner; the result is pending on the scoreboard. -/
def Obligations.IntegerDivision : Prop := ∀ (s : State) (f : Fields), Issuable s →
  (Residents s .idiv f → Scoreboards (.idiv f) s s ((s.ctx.executing f).flatMap fun l =>
    let a := s.ctx.a32 l f
    let b := s.ctx.b32 l f
    let x := a.x || b.x
    let u := modBit f 1
    if b.val = 0 then
      s.ctx.put32 l f.d (if u then 0xFFFFFFFF else if 0 ≤ a.val.toInt then 0x7FFFFFFF else 0x80000000) true
    else if !u && a.val.toInt == -2 ^ 31 && b.val.toInt == -1 then s.ctx.put32 l f.d 0x7FFFFFFF true
    else s.ctx.put32 l f.d (if u then a.val / b.val else a.val.sdiv b.val) x)) ∧
  (Residents s .irem f → Scoreboards (.irem f) s s ((s.ctx.executing f).flatMap fun l =>
    let a := s.ctx.a32 l f
    let b := s.ctx.b32 l f
    let x := a.x || b.x
    let u := modBit f 1
    if b.val = 0 then s.ctx.put32 l f.d a.val true
    else if !u && a.val.toInt == -2 ^ 31 && b.val.toInt == -1 then s.ctx.put32 l f.d 0 x
    else s.ctx.put32 l f.d (if u then a.val % b.val else a.val.srem b.val) x))

/-- R403, R404. Minimum, maximum, absolute value and negation, with the one value that cannot be represented; shifts and rotates:
counts wrap under WRAP, counts of 32 and more shift everything out, SHF shifts C:A, ROT takes the count modulo 32. -/
def Obligations.MinMaxAndShifts : Prop := ∀ (s : State) (f : Fields), Issuable s →
  let count := fun (b : Word) => if modBit f 1 then (b &&& 31).toNat else b.toNat
  (Residents s .shl f → Computes (.shl f) f s 4 fun l =>
    let a := s.ctx.a32 l f
    let b := s.ctx.b32 l f
    s.ctx.put32 l f.d (a.val <<< count b.val) (a.x || b.x)) ∧
  (Residents s .shr f → Computes (.shr f) f s 4 fun l =>
    let a := s.ctx.a32 l f
    let b := s.ctx.b32 l f
    s.ctx.put32 l f.d (if modBit f 0 then a.val.sshiftRight (count b.val) else a.val >>> count b.val) (a.x || b.x)) ∧
  (Residents s .shf f → Computes (.shf f) f s 4 fun l =>
    let a := s.ctx.a32 l f
    let b := s.ctx.b32 l f
    let c := s.ctx.c32 l f
    let v : DWord := c.val ++ a.val
    let n := if 32 ≤ count b.val then 32 else count b.val
    s.ctx.put32 l f.d (if modBit f 0 then (v >>> n).extractLsb' 0 32 else (v <<< n).extractLsb' 32 32) (a.x || b.x || c.x)) ∧
  (Residents s .rot f → Computes (.rot f) f s 4 fun l =>
    let a := s.ctx.a32 l f
    let b := s.ctx.b32 l f
    let n := (b.val &&& 31).toNat
    s.ctx.put32 l f.d (if modBit f 0 then a.val >>> n ||| a.val <<< (32 - n) else a.val <<< n ||| a.val >>> (32 - n))
      (a.x || b.x)) ∧
  (Residents s .imin f → Computes (.imin f) f s 4 fun l =>
    let a := s.ctx.a32 l f
    let b := s.ctx.b32 l f
    let less := if modBit f 1 then a.val.ult b.val else a.val.slt b.val
    s.ctx.put32 l f.d (if less then a.val else b.val) (a.x || b.x)) ∧
  (Residents s .imax f → Computes (.imax f) f s 4 fun l =>
    let a := s.ctx.a32 l f
    let b := s.ctx.b32 l f
    let less := if modBit f 1 then a.val.ult b.val else a.val.slt b.val
    s.ctx.put32 l f.d (if less then b.val else a.val) (a.x || b.x)) ∧
  (Residents s .iabs f → Computes (.iabs f) f s 4 fun l =>
    let a := s.ctx.a32 l f
    if a.val = 0x80000000 then
      (if modBit f 0 then s.ctx.put32 l f.d 0x7FFFFFFF true else s.ctx.put32 l f.d 0x80000000 a.x)
    else s.ctx.put32 l f.d (if a.val.slt 0 then -a.val else a.val) a.x) ∧
  (Residents s .ineg f → Computes (.ineg f) f s 4 fun l =>
    let a := s.ctx.a32 l f
    if a.val = 0x80000000 then
      (if modBit f 0 then s.ctx.put32 l f.d 0x7FFFFFFF true else s.ctx.put32 l f.d 0x80000000 a.x)
    else s.ctx.put32 l f.d (-a.val) a.x)

/-- R405 to R409. The bit instructions: `wordOf g` is the word whose bit i is g i, which the first clause says. -/
def Obligations.BitOperations : Prop :=
  (∀ (g : Nat → Bool) (i : Nat), i < 32 → (wordOf g).getLsbD i = g i) ∧
  ∀ (s : State) (f : Fields), Issuable s →
  (Residents s .logic f → Computes (.logic f) f s 4 fun l =>
    let a := s.ctx.a32 l f
    let b := s.ctx.b32 l f
    let c := s.ctx.c32 l f
    s.ctx.put32 l f.d (wordOf fun i =>
      match a.val.getLsbD i, b.val.getLsbD i, c.val.getLsbD i with
      | false, false, false => modBit f 0
      | true, false, false => modBit f 1
      | false, true, false => modBit f 2
      | true, true, false => modBit f 3
      | false, false, true => modBit f 4
      | true, false, true => modBit f 5
      | false, true, true => modBit f 6
      | true, true, true => modBit f 7) (a.x || b.x || c.x)) ∧
  (Residents s .popc f → Computes (.popc f) f s 4 fun l =>
    let a := s.ctx.a32 l f
    s.ctx.put32 l f.d (BitVec.ofNat 32 ((List.range 32).countP fun i => a.val.getLsbD i)) a.x) ∧
  (Residents s .clz f → Computes (.clz f) f s 4 fun l =>
    let a := s.ctx.a32 l f
    s.ctx.put32 l f.d (BitVec.ofNat 32 (if a.val = 0 then 32 else 31 - Nat.log2 a.val.toNat)) a.x) ∧
  (Residents s .brev f → Computes (.brev f) f s 4 fun l =>
    let a := s.ctx.a32 l f
    s.ctx.put32 l f.d (wordOf fun i => a.val.getLsbD (31 - i)) a.x) ∧
  (Residents s .bfe f → Computes (.bfe f) f s 4 fun l =>
    let a := s.ctx.a32 l f
    let b := s.ctx.b32 l f
    let c := s.ctx.c32 l f
    let pos := (b.val &&& 0xFF).toNat
    let len := min (c.val &&& 0xFF).toNat 32
    let sign := !modBit f 1 && a.val.getLsbD (min 31 (pos + (len - 1)))
    s.ctx.put32 l f.d (if len = 0 then 0 else wordOf fun i =>
      if i < len then (if pos + i ≤ 31 then a.val.getLsbD (pos + i) else !modBit f 1 && a.val.getLsbD 31) else sign)
      (a.x || b.x || c.x)) ∧
  (Residents s .bfi f → Computes (.bfi f) f s 4 fun l =>
    let a := s.ctx.a32 l f
    let b := s.ctx.b32 l f
    let c := s.ctx.c32 l f
    let e := s.ctx.reg l f.e 0
    let pos := (c.val &&& 0xFF).toNat
    let len := (e.val &&& 0xFF).toNat
    s.ctx.put32 l f.d (wordOf fun i => if pos ≤ i ∧ i < pos + len then a.val.getLsbD (i - pos) else b.val.getLsbD i)
      (a.x || b.x || c.x || e.x)) ∧
  (Residents s .bshuf f → Computes (.bshuf f) f s 4 fun l =>
    let a := s.ctx.a32 l f
    let b := s.ctx.b32 l f
    let c := s.ctx.c32 l f
    let v : DWord := b.val ++ a.val
    let sel := fun (i : Nat) => v.extractLsb' (8 * (c.val.extractLsb' (3 * i) 3).toNat) 8
    let half := fun (h : Nat) => v.extractLsb' (16 * (c.val.extractLsb' (2 * h) 2).toNat) 16
    let fill := fun (i : Nat) (below : Byte) =>
      if c.val.getLsbD (12 + i) then (if modField f 0 2 = 1 && below.getLsbD 7 then 0xFF#8 else 0#8) else sel i
    let b0 := fill 0 0
    let b1 := fill 1 b0
    let b2 := fill 2 b1
    let b3 := fill 3 b2
    let h := fun (i : Nat) => if c.val.getLsbD (4 + i) then 0#16 else half i
    s.ctx.put32 l f.d (if modField f 0 2 ≤ 1 then b3 ++ b2 ++ b1 ++ b0 else h 1 ++ h 0) (a.x || b.x || c.x))

/-- R391, R393 to R396, R410 to R412. ICMP, SEL and LEA; moves, RDLANE, predicates and X bits. -/
def Obligations.ComparesAndMoves : Prop := ∀ (s : State) (f : Fields), Issuable s →
  (Residents s .icmp f → Computes (.icmp f) f s 4 fun l =>
    let a := s.ctx.a32 l f
    let b := s.ctx.b32 l f
    let lt := fun (x y : Word) => if modBit f 3 then x.ult y else x.slt y
    let c := match modField f 0 3 with
      | 0 => a.val == b.val
      | 1 => a.val != b.val
      | 2 => lt a.val b.val
      | 3 => !lt b.val a.val
      | 4 => lt b.val a.val
      | _ => !lt a.val b.val
    let c := if modBit f 4 && (a.x || b.x) then false else c
    let p := (s.ctx.w.thread l).pred (modField f 8 3) ^^ modBit f 11
    putPred l (modField f 5 3) (if modBit f 12 then c || p else c && p)) ∧
  (Residents s .sel f → Computes (.sel f) f s 4 fun l =>
    let p := (s.ctx.w.thread l).pred (modField f 0 3) ^^ modBit f 3
    s.ctx.put l f.d [if p then s.ctx.a32 l f else s.ctx.b32 l f]) ∧
  (Residents s .lea f → Computes (.lea f) f s 4 fun l =>
    let a := s.ctx.pairOf l f.a
    let b := s.ctx.b32 l f
    let e : DWord := if modBit f 3 then b.val.setWidth 64 else b.val.signExtend 64
    s.ctx.put64 l f.d (a.val + e <<< modField f 0 3) (a.x || b.x)) ∧
  (Residents s .mov f → Computes (.mov f) f s 4 fun l => s.ctx.put l f.d [s.ctx.b32 l f]) ∧
  (Residents s .mov64 f → Computes (.mov64 f) f s 4 fun l => s.ctx.put l f.d [s.ctx.regB l f.b 0, s.ctx.regB l f.b 1]) ∧
  (Residents s .rdlane f → Computes (.rdlane f) f s 6 fun l =>
    let b := (s.ctx.b32 l f).val
    let n := if s.ctx.lr.prot then 2 * (b &&& 15).toNat else (b &&& 31).toNat
    s.ctx.put l f.d [s.ctx.reg n f.a 0]) ∧
  (Residents s .pset f → Computes (.pset f) f s 4 fun l =>
    let a := (s.ctx.w.thread l).pred (modField f 3 3) ^^ modBit f 6
    let b := (s.ctx.w.thread l).pred (modField f 7 3) ^^ modBit f 10
    putPred l (modField f 0 3) (match modField f 11 2 with | 0 => a && b | 1 => a || b | _ => a ^^ b)) ∧
  (Residents s .preg f → Computes (.preg f) f s 4 fun l =>
    s.ctx.put32 l f.d (1#1 ++ (s.ctx.w.thread l).preds |>.setWidth 32) false) ∧
  (Residents s .regp f → Computes (.regp f) f s 4 fun l =>
    (List.range 7).flatMap fun j => if modBit f j then putPred l j ((s.ctx.a32 l f).val.getLsbD j) else []) ∧
  (Residents s .xget f → Computes (.xget f) f s 4 fun l => putPred l (modField f 0 3) ((s.ctx.a32 l f).x ^^ modBit f 3)) ∧
  (Residents s .xclr f → Computes (.xclr f) f s 4 fun l => s.ctx.put32 l f.d (s.ctx.a32 l f).val false)

/-- R315, R319. The neighbour that each mode takes for a magnitude n/d that lies between the integers q and q + 1: nothing
moves a value on the grid; RZ truncates, RU and RD go by the sign, RN and RA to the nearer, RO to the odd one, and the
stochastic modes go up when f + r reaches 256. -/
def Obligations.RoundingModes : Prop := ∀ (m : Mode) (neg : Bool) (n d : Nat), 0 < d →
  let g := roundAt m neg n d 0
  let q := n / d
  let rem := n % d
  (g.exact = true ↔ d ∣ n) ∧ (g.exact = true → g.q = q) ∧
  (g.exact = false →
    (m.code = 0 → g.q = if 2 * rem < d then q else if d < 2 * rem then q + 1 else if q % 2 = 0 then q else q + 1) ∧
    (m.code = 1 → g.q = q) ∧
    (m.code = 2 → g.q = if neg then q else q + 1) ∧
    (m.code = 3 → g.q = if neg then q + 1 else q) ∧
    (m.code = 4 → g.q = if 2 * rem < d then q else q + 1) ∧
    (m.code = 7 → g.q % 2 = 1 ∧ (g.q = q ∨ g.q = q + 1)) ∧
    (m.code = 5 ∨ m.code = 6 →
      let f := 2 * (128 * rem / d) + if d ∣ 128 * rem then 0 else 1
      g.q = if 256 ≤ f + m.r then q + 1 else q))

/-- R418. FADD, FSUB, FMUL and FFMA: each sub-element exact, rounded once; the mode SRI advances the generator. -/
def Obligations.FloatArithmetic : Prop := ∀ (s : State) (f : Fields), Issuable s →
  (Residents s .fadd f → ComputesIn (.fadd f) f s (drawn s (modField f 3 3)) 6 fun l =>
    floatOp s f l .zero (s.ctx.c32 l f) fun a b _ rd => a.add b rd) ∧
  (Residents s .fsub f → ComputesIn (.fsub f) f s (drawn s (modField f 3 3)) 6 fun l =>
    floatOp s f l .zero (s.ctx.c32 l f) fun a b _ rd => a.add b.negate rd) ∧
  (Residents s .fmul f → ComputesIn (.fmul f) f s (drawn s (modField f 3 3)) 6 fun l =>
    floatOp s f l .zero (s.ctx.c32 l f) fun a b _ _ => a.mul b) ∧
  (Residents s .ffma f → ComputesIn (.ffma f) f s (drawn s (modField f 3 3)) 6 fun l =>
    floatOp s f l (s.ctx.c32 l f) (s.ctx.reg l f.e 0) fun a b c rd => (a.mul b).add c rd)

/-- R419 to R423. FMIN, FMAX, FCMP, FRND, FCLASS and FLDX. -/
def Obligations.FloatOther : Prop := ∀ (s : State) (f : Fields), Issuable s →
  (Residents s .fmin f → Computes (.fmin f) f s 4 fun l =>
    let F := typeFmt (modField f 0 3)
    let a := s.ctx.a32 l f
    let b := s.ctx.b32 l f
    let res := (List.range (32 / F.width)).map fun j =>
      let x := signs F (modBit f 9) (modBit f 7) (element F.width a.val j)
      let y := signs F (modBit f 10) (modBit f 8) (element F.width b.val j)
      match F.value x, F.value y with
      | .nan, .nan => (⟨F.nan, true⟩ : Rounded)
      | .nan, _ => ⟨y, false⟩
      | _, .nan => ⟨x, false⟩
      | u, v => if u.isZero && v.isZero then ⟨max x y, false⟩ else ⟨if u.lt v then x else y, false⟩
    s.ctx.put32 l f.d (packed F.width (res.map (·.code))) (a.x || b.x || res.any (·.inx))) ∧
  (Residents s .fmax f → Computes (.fmax f) f s 4 fun l =>
    let F := typeFmt (modField f 0 3)
    let a := s.ctx.a32 l f
    let b := s.ctx.b32 l f
    let res := (List.range (32 / F.width)).map fun j =>
      let x := signs F (modBit f 9) (modBit f 7) (element F.width a.val j)
      let y := signs F (modBit f 10) (modBit f 8) (element F.width b.val j)
      match F.value x, F.value y with
      | .nan, .nan => (⟨F.nan, true⟩ : Rounded)
      | .nan, _ => ⟨y, false⟩
      | _, .nan => ⟨x, false⟩
      | u, v => if u.isZero && v.isZero then ⟨min x y, false⟩ else ⟨if u.lt v then y else x, false⟩
    s.ctx.put32 l f.d (packed F.width (res.map (·.code))) (a.x || b.x || res.any (·.inx))) ∧
  (Residents s .fcmp f → Computes (.fcmp f) f s 4 fun l =>
    let a := s.ctx.a32 l f
    let b := s.ctx.b32 l f
    let u := f32Of a.val
    let v := f32Of b.val
    let un := u == .nan || v == .nan
    let c := match modField f 3 3 with
      | 0 => !un && !u.lt v && !v.lt u
      | 1 => un || u.lt v || v.lt u
      | 2 => !un && u.lt v
      | 3 => !un && !v.lt u
      | 4 => !un && v.lt u
      | 5 => !un && !u.lt v
      | 6 => un
      | _ => !un
    let c := if modBit f 6 && (a.x || b.x) then false else c
    putPred l (modField f 7 3) (c && (s.ctx.w.thread l).pred (modField f 10 3))) ∧
  (Residents s .frnd f → ComputesIn (.frnd f) f s (drawn s (modField f 3 3)) 6 fun l =>
    let F := typeFmt (modField f 0 3)
    let rnd := modField f 3 3
    let a := s.ctx.a32 l f
    let r := s.ctx.c32 l f
    let res := (List.range (32 / F.width)).map fun j =>
      let code := element F.width a.val j
      match F.value code with
      | .nan => (⟨F.nan, true⟩ : Rounded)
      | .inf _ => ⟨code, false⟩
      | .fin neg n d =>
        let g := roundAt (modeOf s rnd [r] l j) neg n d 0
        ⟨(F.round ⟨1, 0⟩ false (.fin neg g.q 1)).code, !g.exact⟩
    s.ctx.put32 l f.d (packed F.width (res.map (·.code))) (a.x || srxX rnd [r] || res.any (·.inx))) ∧
  (Residents s .fclass f → Computes (.fclass f) f s 4 fun l =>
    let a := s.ctx.a32 l f
    let neg := a.val.getLsbD 31
    let e := a.val.extractLsb' 23 8
    let m := a.val.extractLsb' 0 23
    let bit : Nat :=
      if e = 255 then (if m = 0 then (if neg then 0 else 7) else 8)
      else if e = 0 then (if m = 0 then (if neg then 3 else 4) else if neg then 2 else 5)
      else if neg then 1 else 6
    s.ctx.put32 l f.d (1#32 <<< bit) a.x) ∧
  (Residents s .fldx f → ComputesIn (.fldx f) f s (drawn s (modField f 3 3)) 6 fun l =>
    let rnd := modField f 3 3
    let a := s.ctx.a32 l f
    let b := s.ctx.b32 l f
    let r := s.ctx.c32 l f
    let e := max (-600) (min 600 b.val.toInt)
    let v := match f32Of a.val with
      | .fin neg n d => if 0 ≤ e then Machine.Num.fin neg (n * 2 ^ e.toNat) d else .fin neg n (d * 2 ^ (-e).toNat)
      | v => v
    let y := FloatFmt.f32.round (modeOf s rnd [r] l 0) false v
    s.ctx.put32 l f.d (BitVec.ofNat 32 y.code) (a.x || b.x || srxX rnd [r] || y.inx))

/-- R326, R424. FRCP, FRSQ, FSQRT and FDIV for all inputs: one scoreboarded result for each executing lane, the exact value
rounded once; `sqrtNum`, which stands for the square root, is said by SquareRoot. -/
def Obligations.SpecialFunctions : Prop := ∀ (s : State) (f : Fields), Issuable s →
  let p := drawn s (modField f 3 3)
  let one := fun (l : Nat) => f32Of (s.ctx.a32 l f).val
  (Residents s .frcp f → Scoreboards (.frcp f) s p ((s.ctx.executing f).flatMap fun l =>
    let x := (s.ctx.a32 l f).x
    match one l with
    | .nan => sfuOp s f l x .nan false
    | .inf neg => sfuOp s f l x (.fin neg 0 1) false
    | .fin neg n d => if n = 0 then sfuOp s f l x (.inf neg) true else sfuOp s f l x (.fin neg d n) false)) ∧
  (Residents s .frsq f → Scoreboards (.frsq f) s p ((s.ctx.executing f).flatMap fun l =>
    let x := (s.ctx.a32 l f).x
    match one l with
    | .nan | .inf true => sfuOp s f l x .nan false
    | .inf false => sfuOp s f l x (.fin false 0 1) false
    | .fin neg n d =>
      if n = 0 then sfuOp s f l x (.inf neg) true
      else if neg then sfuOp s f l x .nan false
      else sfuOp s f l x (sqrtNum d n) false)) ∧
  (Residents s .fsqrt f → Scoreboards (.fsqrt f) s p ((s.ctx.executing f).flatMap fun l =>
    let x := (s.ctx.a32 l f).x
    match one l with
    | .nan | .inf true => sfuOp s f l x .nan false
    | .inf false => sfuOp s f l x (.inf false) false
    | .fin neg n d =>
      if n = 0 then sfuOp s f l x (.fin neg n d) false
      else if neg then sfuOp s f l x .nan false
      else sfuOp s f l x (sqrtNum n d) false)) ∧
  (Residents s .fdiv f → Scoreboards (.fdiv f) s p ((s.ctx.executing f).flatMap fun l =>
    let x := (s.ctx.a32 l f).x || (s.ctx.b32 l f).x
    match one l, f32Of (s.ctx.b32 l f).val with
    | .nan, _ | _, .nan => sfuOp s f l x .nan false
    | .inf _, .inf _ => sfuOp s f l x .nan false
    | .inf u, .fin v _ _ => sfuOp s f l x (.inf (u != v)) false
    | .fin u _ _, .inf v => sfuOp s f l x (.fin (u != v) 0 1) false
    | .fin u n d, .fin v k e =>
      if k = 0 then (if n = 0 then sfuOp s f l x .nan false else sfuOp s f l x (.inf (u != v)) true)
      else sfuOp s f l x (.fin (u != v) (n * e) (d * k)) false))

/-- R326, R424. FEXP2, FLOG2, FSIN, FCOS and FTANH complete with one scoreboarded result for each executing lane, which for
the special inputs of the table of R326 is the value the table gives. How the other results are computed is the model's (log
23). -/
def Obligations.TranscendentalFunctions : Prop := ∀ (s : State) (f : Fields), Issuable s →
  let p := drawn s (modField f 3 3)
  let one := fun (l : Nat) => f32Of (s.ctx.a32 l f).val
  let is := fun (g : Nat → List (Dst × Reg)) (l : Nat) (v : Machine.Num) (flag : Bool) =>
    g l = sfuOp s f l (s.ctx.a32 l f).x v flag
  (Residents s .fexp2 f → ∃ g, Scoreboards (.fexp2 f) s p ((s.ctx.executing f).flatMap g) ∧ ∀ l,
    (∃ v x, g l = s.ctx.put32 l f.d v x) ∧ (one l = .nan → is g l .nan false) ∧
    (one l = .inf false → is g l (.inf false) false) ∧ (one l = .inf true → is g l (.fin false 0 1) false) ∧
    ((one l).isZero = true → is g l (.fin false 1 1) false)) ∧
  (Residents s .flog2 f → ∃ g, Scoreboards (.flog2 f) s p ((s.ctx.executing f).flatMap g) ∧ ∀ l,
    (∃ v x, g l = s.ctx.put32 l f.d v x) ∧ (one l = .nan ∨ one l = .inf true → is g l .nan false) ∧
    (one l = .inf false → is g l (.inf false) false) ∧ ((one l).isZero = true → is g l (.inf true) true) ∧
    (∀ n d, one l = .fin true n d → n ≠ 0 → is g l .nan false)) ∧
  (Residents s .fsin f → ∃ g, Scoreboards (.fsin f) s p ((s.ctx.executing f).flatMap g) ∧ ∀ l,
    (∃ v x, g l = s.ctx.put32 l f.d v x) ∧ (one l = .nan → is g l .nan false) ∧
    (∀ neg, one l = .inf neg → is g l .nan false) ∧ ((one l).isZero = true → is g l (one l) false)) ∧
  (Residents s .fcos f → ∃ g, Scoreboards (.fcos f) s p ((s.ctx.executing f).flatMap g) ∧ ∀ l,
    (∃ v x, g l = s.ctx.put32 l f.d v x) ∧ (one l = .nan → is g l .nan false) ∧
    (∀ neg, one l = .inf neg → is g l .nan false) ∧ ((one l).isZero = true → is g l (.fin false 1 1) false)) ∧
  (Residents s .ftanh f → ∃ g, Scoreboards (.ftanh f) s p ((s.ctx.executing f).flatMap g) ∧ ∀ l,
    (∃ v x, g l = s.ctx.put32 l f.d v x) ∧ (one l = .nan → is g l .nan false) ∧
    (∀ neg, one l = .inf neg → is g l (.fin neg 1 1) false) ∧ ((one l).isZero = true → is g l (one l) false))

/-- R326. The square root that FSQRT and FRSQ round: exact where it is a multiple of 2^-160, else the middle of the cell of
that width that holds it. That a number between two multiples of 2^-160 stands for the exact root is the model's choice (log 23): R326
asks for the exact root, rounded once. -/
def Obligations.SquareRoot : Prop := ∀ n d : Nat, 0 < n → 0 < d → n * 2 ^ 320 / d < 2 ^ 624 →
  ∃ r : Nat, r * r ≤ n * 2 ^ 320 / d ∧ n * 2 ^ 320 / d < (r + 1) * (r + 1) ∧
    sqrtNum n d = if r * r * d = n * 2 ^ 320 then .fin false r (2 ^ 160) else .fin false (2 * r + 1) (2 ^ 161)

/-- R426 to R429. The conversions: CVT, F2I, I2F, PACK and UNPK, through a slot that R331 allows for them. -/
def Obligations.Conversions : Prop := ∀ (s : State) (f : Fields), Issuable s →
  let x := slotOfBits (s.ctx.lr.slots.getD (modField f 0 3) 0)
  let E := x.format
  let n := 32 / E.width
  let mapped := fun (a : Machine.Num) => if x.sce then
      (let p := a.mul (f32Of x.scale); if x.zp = 0 then p else p.add (Machine.Num.ofInt x.zp) (x.rnd == 3)) else a
  (Residents s .cvt f → x.convertible = true → ComputesIn (.cvt f) f s (drawn s x.rnd) 6 fun l =>
    let a := s.ctx.a32 l f
    let r := s.ctx.b32 l f
    let S := (elemFmt (modField f 3 5)).getD (.float .f32)
    let v := mapped (S.value (a.val.toNat % 2 ^ S.width))
    let y := if x.rnd = 7 then E.stage v else E.round (modeOf s x.rnd [r] l 0) x.sat v
    let d : Word := if x.rnd != 7 && (match E with | .int _ false => true | _ => false) then BitVec.ofInt 32 (sextNat y.code E.width)
      else BitVec.ofNat 32 y.code
    s.ctx.put32 l f.d d (a.x || srxX x.rnd [r] || y.inx)) ∧
  (Residents s .f2i f → ComputesIn (.f2i f) f s (drawn s (modField f 3 3)) 6 fun l =>
    let a := s.ctx.a32 l f
    let r := s.ctx.c32 l f
    let y := roundToInt 32 (modField f 0 2 == 1) (modeOf s (modField f 3 3) [r] l 0) (f32Of a.val)
    s.ctx.put32 l f.d (BitVec.ofInt 32 y.1) (a.x || srxX (modField f 3 3) [r] || y.2)) ∧
  (Residents s .i2f f → ComputesIn (.i2f f) f s (drawn s (modField f 3 3)) 6 fun l =>
    let a := s.ctx.a32 l f
    let r := s.ctx.c32 l f
    let y := FloatFmt.f32.round (modeOf s (modField f 3 3) [r] l 0) false (Machine.Num.ofInt (int a.val (modField f 0 2 == 1)))
    s.ctx.put32 l f.d (BitVec.ofNat 32 y.code) (a.x || srxX (modField f 3 3) [r] || y.inx)) ∧
  (Residents s .pack f → x.convertible = true → x.rnd ≠ 7 →
    ComputesIn (.pack f) f s (drawn s x.rnd) 6 fun l =>
    let as := (List.range n).map (s.ctx.reg l f.a)
    let rs := (List.range (if n = 8 then 2 else 1)).map (s.ctx.regB l f.b)
    let ys := (List.range n).map fun j =>
      E.round (modeOf s x.rnd rs l j) x.sat (mapped (f32Of (as.getD j .zero).val))
    s.ctx.put32 l f.d (packed E.width (ys.map (·.code))) (as.any (·.x) || srxX x.rnd rs || ys.any (·.inx))) ∧
  (Residents s .unpk f → x.convertible = true →
    ComputesIn (.unpk f) f s (drawn s x.rnd) 6 fun l =>
    let a := s.ctx.a32 l f
    let rs := (List.range (if n = 8 then 2 else 1)).map (s.ctx.regB l f.b)
    s.ctx.put l f.d ((List.range n).map fun j =>
      let v := E.value (element E.width a.val j)
      let v := if x.sce then (if x.zp = 0 then v else v.add (Machine.Num.ofInt (-x.zp)) (x.rnd == 3)) else v
      let q := if x.sce then v.div (f32Of x.scale) else v
      let flag := x.sce && (f32Of x.scale).isZero && !(match q with | .fin _ 0 _ => true | _ => false)
      let y := FloatFmt.f32.round (modeOf s x.rnd rs l j) false q
      ⟨BitVec.ofNat 32 y.code, a.x || (x.rnd == 6 && (rs.getD (j / 4) .zero).x) || y.inx || flag⟩))

/-- R392, R431, R432, R337, R182. SREG reads the special operand with X = 0, and clears the named sticky flags once for the wave when a
lane executes, but not those that are set in the same cycle; RAND draws the word of Philox for its lane, in a task wave for its task, and
advances the draw counters of the executing lanes alone; RSEED writes them. -/
def Obligations.SpecialAndRandom : Prop := ∀ (s : State) (f : Fields), Issuable s →
  let cleared := match f.a with
    | .special .wstat => s.modWave s.ctx.k fun w => { w with wstat := w.wstat &&& ~~~ (f.mod.setWidth 5 &&& ~~~ w.setNow.extractLsb' 0 5) }
    | .special .mstat => s.modWave s.ctx.k fun w => { w with mstat := w.mstat &&& ~~~ (f.mod.setWidth 3 &&& ~~~ w.setNow.extractLsb' 5 3) }
    | _ => s
  (Residents s .sreg f → ComputesIn (.sreg f) f s (if s.ctx.executing f = [] then s else cleared) 4 fun l =>
    s.ctx.put32 l f.d (s.ctx.a32 l f).val false) ∧
  (Residents s .rand f →
    Scoreboards (.rand f) s
      ((s.ctx.executing f).foldl (fun t l => t.modThread s.ctx.k l fun x => { x with draw := x.draw + 1 }) s)
      ((s.ctx.executing f).flatMap fun l =>
        let v := s.ctx.lr.visible l
        let wave := BitVec.ofNat 32 ((s.crew s.ctx.w.crew).number * s.ctx.lr.creww + s.ctx.w.wid)
        let sel := (s.ctx.b32 l f).val &&& 0xFFFF
        let draws := fun (hi lo : Word) => philox ((s.ctx.w.thread l).draw, hi, lo, 0x5CA10000 ^^^ sel)
          (s.ctx.lr.rngkey.extractLsb' 0 32) (s.ctx.lr.rngkey.extractLsb' 32 32) 10
        let r := draws wave (BitVec.ofNat 32 (v / 4))
        match s.ctx.launch.task, (s.crew s.ctx.w.crew).taskOf v with
        | some _, some t => s.ctx.put32 l f.d (draws (BitVec.ofNat 32 (t.task.word 6 / 2 ^ 32)) 0).1 false
        | _, _ => s.ctx.put32 l f.d (match v % 4 with | 0 => r.1 | 1 => r.2.1 | 2 => r.2.2.1 | _ => r.2.2.2) false)) ∧
  (Residents s .rseed f → Does (.rseed f) s
    ((s.ctx.executing f).foldl (fun t l => t.modThread s.ctx.k l fun x => { x with draw := (s.ctx.a32 l f).val }) s))

/-- R471 to R474, R476. TILE, and the votes, elections and matches of a tile among the lanes that execute. That TILE acts for
the whole wave is the model's reading (log 55). -/
def Obligations.TileVotes : Prop := ∀ (s : State) (f : Fields), Issuable s → tileOk s →
  let q := fun (m : Nat) => (s.ctx.w.thread m).pred (modField f 5 3) ^^ modBit f 8
  (Residents s .vote f → tileScalar s f → Computes (.vote f) f s 6 fun l =>
    let T := tileOf s f l
    match modField f 0 2 with
    | 0 => putPred l (modField f 2 3) (T.all q)
    | 1 => putPred l (modField f 2 3) (T.any q)
    | 2 => putPred l (modField f 2 3) (T.all fun m => q m == q l)
    | _ => s.ctx.put32 l f.d (maskVisible s (T.filter q)) false) ∧
  (Residents s .elect f → tileScalar s f → Computes (.elect f) f s 6 fun l =>
    let first := (tileOf s f l).headD l
    putPred l (modField f 0 3) (first == l) ++ s.ctx.put32 l f.d (BitVec.ofNat 32 (s.ctx.lr.visible first)) false) ∧
  (Residents s .matchLanes f → Scoreboards (.matchLanes f) s s ((s.ctx.executing f).flatMap fun l =>
    let n := if modBit f 0 then 2 else 1
    let T := tileOf s f l
    let same := fun (m : Nat) => (List.range n).all fun i => (s.ctx.reg m f.a i).val == (s.ctx.reg l f.a i).val
    s.ctx.put32 l f.d (maskVisible s (T.filter same)) false ++ putPred l (modField f 1 3) (T.all same))) ∧
  ((∀ l ∈ s.ctx.active, s.ctx.operandsResident .tile f l = true) → Does (.tile f) s
    (s.modWave s.ctx.k fun w => { w with tile := 2 ^ (modField f 0 3 + 1) }))

/-- R475, R477, R478. SHFL, RED and SCAN: a shuffle reads its source lane whatever its state; a reduction gives every
executing lane of a tile the root of the tree of R328, a scan the prefixes of R329. -/
def Obligations.TileSums : Prop := ∀ (s : State) (f : Fields), Issuable s → tileOk s →
  let w := if s.ctx.lr.prot then min s.ctx.w.tile 16 else s.ctx.w.tile
  let lane := fun (l v : Nat) => if s.ctx.lr.prot then 2 * v + l % 2 else v
  let here := fun (l : Nat) => (List.range w).map fun i =>
    let m := lane l (s.ctx.lr.visible l / w * w + i)
    if m ∈ s.ctx.executing f then some (s.ctx.reg m f.a 0) else none
  (Residents s .shfl f → Scoreboards (.shfl f) s s ((s.ctx.executing f).flatMap fun l =>
    let v := s.ctx.lr.visible l
    let i := v % w
    let d := ((s.ctx.b32 l f).val &&& 31).toNat
    let src := match modField f 0 2 with
      | 0 => v - i + d % w
      | 1 => if d ≤ i then v - d else v
      | 2 => if i + d < w then v + d else v
      | _ => v - i + (i ^^^ (d % w))
    s.ctx.put l f.d ((List.range (if modBit f 2 then 2 else 1)).map (s.ctx.reg (lane l src) f.a)))) ∧
  (Residents s .red f → tileScalar s f → Scoreboards (.red f) s s ((s.ctx.executing f).flatMap fun l =>
    s.ctx.put l f.d [(treeRoot (modField f 0 4) (modField f 4 3) 5 (here l)).getD .zero])) ∧
  (Residents s .scan f → Scoreboards (.scan f) s s ((s.ctx.executing f).flatMap fun l =>
    let i := s.ctx.lr.visible l % w
    let ps := scanFrom (modField f 0 4) (modField f 4 3) 0 (here l) 5
    let r := if !modBit f 7 then ps.getD i none else if i = 0 then none else ps.getD (i - 1) none
    let identity : Word := match modField f 0 4 with
      | 1 => 0x7FFFFFFF
      | 2 => 0x80000000
      | 3 | 5 => 0xFFFFFFFF
      | 8 => 0x80000000
      | 9 => 0x7F800000
      | 10 => 0xFF800000
      | _ => 0
    s.ctx.put l f.d [r.getD ⟨identity, false⟩]))

namespace Sys2Proof.Says

/-- Every active lane has the rows that a whole-wave instruction names. -/
def WaveResidents (s : State) (o : Op) (f : Fields) : Prop := ∀ l ∈ s.ctx.active, s.ctx.operandsResident o f l = true

/-- One lane executes, in a launch that is not protected. -/
def Sole (s : State) (f : Fields) (l : Nat) : Prop := s.ctx.executing f = [l] ∧ s.ctx.lr.prot = false

/-- The launch takes no checkpoints, so that no interval of it is held or spoilt (R239, R242). -/
def NoRollback (s : State) : Prop :=
  s.ctx.lr.rbk = false ∧ (s.launchAt (s.crew s.ctx.w.crew).launch).record.rbk = false

/-- The window has its least size of R186 or more, and SIZE is one of R358, so that a group names distinct rows. -/
def Windowed (s : State) (f : Fields) : Prop := 16 ≤ s.ctx.lr.w ∧ modField f 0 3 ≤ 5

/-- The model's serial number is new: no entry of the wave's scoreboard or operand log, and no access outside, has it. -/
def Fresh (s : State) : Prop :=
  (∀ p ∈ s.ctx.w.pend, p.serial ≠ s.serial) ∧ (∀ e ∈ s.ctx.w.log, e.serial ≠ s.serial) ∧
    ∀ o ∈ s.outstanding, o.serial ≠ s.serial

/-- A byte of a number (R2). -/
def byteOf (v i : Nat) : Byte := BitVec.ofNat 8 (v / 2 ^ (8 * i))

/-- The registers of a loaded value of `n` bytes: extended to one, or one for each 4 bytes (R437). -/
def loaded (n : Nat) (sx : Bool) (v : Nat) : List Reg :=
  if n < 4 then [⟨if sx && v.testBit (8 * n - 1) then BitVec.ofNat 32 (v + 2 ^ 32 - 2 ^ (8 * n)) else BitVec.ofNat 32 v, false⟩]
  else (List.range (n / 4)).map fun i => ⟨BitVec.ofNat 32 (v / 2 ^ (32 * i)), false⟩

/-- A slot address is a target: in range, in a line of the instruction cache, not literal, and marked (R354, R355). -/
def Target (s : State) (t : Nat) : Prop :=
  t < 5 * 2 ^ 51 ∧ ∃ L, s.cachedLine s.cur.core s.ctx.lr.pasid (lineByte t) = some L ∧
    lineLit L (t % 5) = false ∧ lineTgt L (t % 5) = true

/-- The lanes of a pair of a protected launch agree on `g`. -/
def Agree {α : Type} (s : State) (f : Fields) (g : Nat → α) : Prop :=
  s.ctx.lr.prot = true → ∀ l ∈ s.ctx.executing f, l % 2 = 0 → g l = g (l + 1)

/-- The state after a call by `n` steps of 16 rows: window and link of every executing lane, the results in flight for the
rows of the link overwritten, and their block of rows in the log of the interval (R209, R380, R240). -/
def called (s : State) (f : Fields) (n : Nat) : State :=
  (s.ctx.executing f).foldl (fun p l =>
    let wb := (s.ctx.w.thread l).wb.toNat + 16 * n
    let row := fun (i : Nat) => (wb + i) % (s.ctx.lr.w + 16 * s.ctx.lr.stackr)
    let link : DWord := BitVec.ofNat 64 (s.ctx.next.toNat + n * 2 ^ 57)
    p.modWave s.ctx.k fun w =>
      { w.setThread l { w.thread l with
          wb := BitVec.ofNat 24 wb
          regs := SMap.set (SMap.set (w.thread l).regs (row 0) ⟨link.extractLsb' 0 32, false⟩ .zero) (row 1)
            ⟨link.extractLsb' 32 32, false⟩ .zero } with
        fly := w.fly.filter fun x => x.dst ≠ .v l (row 0) ∧ x.dst ≠ .v l (row 1)
        touched := if row 0 / 32 ∈ w.touched then w.touched else w.touched ++ [row 0 / 32] }) s

/-- A window can slide by `n` steps without a spill, and the rows of the link are resident (R208, R209, R211). -/
def Slides (s : State) (f : Fields) (n : Nat) : Prop :=
  ∀ l ∈ s.ctx.executing f, let wb := (s.ctx.w.thread l).wb.toNat + 16 * n
    wb + s.ctx.lr.w ≤ 2 ^ 24 ∧ s.ctx.lr.w + wb % 32 ≤ s.ctx.lr.w + 16 * s.ctx.lr.stackr ∧
      wb + s.ctx.lr.w ≤ (s.ctx.w.thread l).rf.toNat + (s.ctx.lr.w + 16 * s.ctx.lr.stackr) ∧ (s.ctx.w.thread l).rf.toNat ≤ wb

/-- A pending entry behind those of the wave: its destinations and their values, all of them known (R207). -/
def Wave.pending (w : Wave) (serial : Nat) (ws : List (Dst × Reg)) : Wave :=
  { w with pend := w.pend ++ [{ serial := serial, marks := ws.map (·.1), writes := ws, waiting := 0 }] }

/-- The instruction completes with the effect that makes `p` of `s`, and with one scoreboarded result `ws`. -/
def Answers (i : Instr) (s p : State) (ws : List (Dst × Reg)) : Prop :=
  ∃ t, exec i s = .next t ∧ FallsThrough s p t ∧
    (t.wave s.ctx.k).noThreads = (Wave.pending (p.wave s.ctx.k) s.serial ws).noThreads

/-- `p` is `s` with the number `v` in the `n` bytes at `a`: every other byte is as before, and so is all else but what a write
of memory touches besides its bytes (poison, release sequences, reservations and the stalls on them) and the sticky SCOPEMISS of
wave `k`. -/
structure Wrote (s p : State) (k a n v : Nat) : Prop where
  bytes : ∀ i < n, p.byte (a + i) = byteOf v i
  outside : sameOutside s p a n
  rest : ({ p with mem := s.mem, poisoned := s.poisoned, upsets := s.upsets, releases := s.releases, harts := s.harts } : State).kept =
      s.kept
  waves : ∀ j, j ≠ k → p.wave j = s.wave j
  own : ({ p.wave k with wstat := (s.wave k).wstat, setNow := (s.wave k).setNow } : Wave) = s.wave k

/-- A place is memory of this package, where no stored copy of the `n` bytes has an error (R77, R245). -/
def Local (s : State) (pa n : Nat) : Prop :=
  (s.regionAt pa = .hbm ∨ s.regionAt pa = .vault ∨ s.regionAt pa = .cxl) ∧ ∀ i < n, SMap.find s.upsets ((pa + i) / 32) = none

/-- An access of `n` bytes at `va` reaches this package's memory at `pa` at once: the page is present, permits it and is
marked, its type is one of those of R77 for memory, and no stored copy there has an error. -/
def Reaches (s : State) (va : Nat) (need : Need) (pa mt n : Nat) : Prop :=
  s.translate s.ctx.lr.pasid va need = (s, .ok pa mt) ∧ mt ≤ 2 ∧ Local s pa n

/-- What an atomic operation leaves for the old value `m` and the data `d` of `n` bytes; for CAS `d` holds the compare value
below the new one (R444). -/
def updated (aop n m d : Nat) : Nat :=
  let x := d % 2 ^ (8 * n)
  let less := (BitVec.ofNat (8 * n) m).toInt ≤ (BitVec.ofNat (8 * n) x).toInt
  match aop with
  | 0 => (m + x) % 2 ^ (8 * n)
  | 1 => m &&& x
  | 2 => m ||| x
  | 3 => m ^^^ x
  | 4 => if less then m else x
  | 5 => if less then x else m
  | 6 => min m x
  | 7 => max m x
  | 8 => x
  | 9 => if m = x then d / 2 ^ (8 * n) % 2 ^ (8 * n) else m
  | _ => (FloatFmt.f32.round ⟨0, 0⟩ false ((FloatFmt.f32.value m).add (FloatFmt.f32.value x) false)).code

/-- `p` is `s` with the number `v` in the `n` window bytes at `o` of crew `c`, and F of every line as `full` says. -/
structure Stored (s p : State) (c k o n v : Nat) (full : Nat → Bool) : Prop where
  bytes : ∀ i < n, p.spByte c (o + i) = byteOf v i
  outside : ∀ j, (j < o ∨ o + n ≤ j) → p.spByte c j = s.spByte c j
  fbits : ∀ j, p.spFull c j = full j
  crews : ∀ d, d ≠ c → p.crew d = s.crew d
  rest : ({ p with crews := s.crews, releases := s.releases } : State).kept = s.kept
  waves : ∀ j, j ≠ k → p.wave j = s.wave j
  own : ({ p.wave k with wstat := (s.wave k).wstat, setNow := (s.wave k).setNow } : Wave) = s.wave k

/-- The window access of `n` bytes at `o` is allowed (R256), and its page is pinned. -/
def InWindow (s : State) (o n : Nat) : Prop :=
  o + n ≤ s.ctx.lr.spw * 4096 ∧ o % n = 0 ∧ ((s.crew s.ctx.w.crew).page (o / 4096)).state = .pinned

/-- The crew of the wave has this wave alone, in its slot, and the lanes of its live threads all execute. -/
def LoneWave (s : State) (f : Fields) : Prop :=
  let x := s.crew s.ctx.w.crew
  x.resident = true ∧ x.core = s.ctx.core ∧ x.slots = [s.ctx.slot] ∧ (s.launchAt x.launch).record.creww = 1 ∧
    SMap.sorted s.ctx.w.threads = true ∧ (∀ e ∈ s.ctx.w.threads, e.2.exited = false → e.1 ∈ s.ctx.executing f) ∧
    s.ctx.executing f ≠ []

/-- The phase count of the crew barrier. -/
def crewPhase (s : State) : Nat := (s.crew s.ctx.w.crew).cp

end Sys2Proof.Says

/-- R377, R448, R449, R488, R489, R494, R495. MFSR reads a thread system register, MTSR writes it but for its read-only parts, MARG
reads a margin register of the core, ICINV empties the instruction cache of the core; NOP changes nothing; PREF, CWB and CINV
change nothing where their pages are present, and flag the lanes that are out of bounds; BREC builds a buffer record. -/
def Obligations.SystemAndHints : Prop := ∀ (s : State) (f : Fields), Issuable s →
  let n := modField f 0 12
  let size := memSize f
  let there := ∀ l ∈ s.ctx.executing f, ∃ va pa mt, s.ctx.recAddress f BufRec.rdp size true l = .va va ∧
    s.translate s.ctx.lr.pasid va .read = (s, .ok pa mt)
  let none' := s.ctx.executing f ≠ [] ∧ ∀ l ∈ s.ctx.executing f, s.ctx.recAddress f BufRec.rdp size true l = .oob
  let flagged := s.modWave s.ctx.k fun w => { w with wstat := w.wstat ||| 1, setNow := w.setNow ||| 1 }
  (Residents s .mfsr f → Computes (.mfsr f) f s 4 fun l =>
    let t := s.ctx.w.thread l
    s.ctx.put l f.d [match n with
      | 0 => ⟨t.res.extractLsb' 0 32, false⟩
      | 1 => ⟨BitVec.ofNat 32 (t.res.toNat / 2 ^ 32), false⟩
      | 2 => ⟨BitVec.ofNat 32 t.tpred.toNat, false⟩
      | 3 => ⟨BitVec.ofNat 32 t.wt.toNat, false⟩
      | 4 => ⟨BitVec.ofNat 32 t.rf.toNat, false⟩
      | 5 => ⟨BitVec.ofNat 32 t.wb.toNat, false⟩
      | 6 => ⟨t.spoff, false⟩
      | _ => SMap.get t.ts n .zero]) ∧
  (Residents s .mtsr f → Does (.mtsr f) s ((s.ctx.executing f).foldl (fun p l => p.modThread s.ctx.k l fun t =>
    let v := s.ctx.a32 l f
    match n with
    | 0 => { t with res := BitVec.ofNat 57 (t.res.toNat / 2 ^ 32 * 2 ^ 32 + v.val.toNat) }
    | 1 => { t with res := BitVec.ofNat 57 (t.res.toNat % 2 ^ 32 + v.val.toNat % 2 ^ 25 * 2 ^ 32) }
    | 2 => { t with tpred := BitVec.ofNat 7 v.val.toNat }
    | 3 | 4 | 5 => t
    | 6 => { t with spoff := v.val }
    | _ => { t with ts := SMap.set t.ts n v .zero }) s)) ∧
  (Residents s .marg f → Scoreboards (.marg f) s s ((s.ctx.executing f).flatMap fun l =>
    s.ctx.put32 l f.d (BitVec.ofNat 32 (s.hubRead (0x30000 + 0x40 * s.cur.core + 8 * modField f 0 2))) false)) ∧
  (WaveResidents s .icinv f → Does (.icinv f) s (s.modCore s.cur.core fun x => { x with lines := [] })) ∧
  (Residents s .nop f → Does (.nop f) s s) ∧
  (Residents s .pref f → there → Does (.pref f) s s) ∧
  (Residents s .pref f → none' → Does (.pref f) s flagged) ∧
  (Residents s .cwb f → there → Does (.cwb f) s s) ∧
  (Residents s .cwb f → none' → Does (.cwb f) s flagged) ∧
  (Residents s .cinv f → there → Does (.cinv f) s s) ∧
  (Residents s .cinv f → none' → Does (.cinv f) s flagged) ∧
  (Residents s .brec f → Computes (.brec f) f s 4 fun l =>
    let lo := s.ctx.reg l f.a 0
    let hi := s.ctx.reg l f.a 1
    s.ctx.put l f.d [lo,
      ⟨BitVec.ofNat 32 (hi.val.toNat % 2 ^ 25 + modField f 0 3 * 2 ^ 25 + modField f 3 3 * 2 ^ 28 + modField f 6 1 * 2 ^ 31), hi.x⟩,
      s.ctx.b32 l f, s.ctx.c32 l f])

/-- R447, R283, R286. FENCE: every other part is unchanged; a fence with RELEASE heads the later writes of its threads at its scope,
from the core on which it was performed. That a fence heads later writes by tags is the model's reading (log 14). -/
def Obligations.Fences : Prop := ∀ (s : State) (f : Fields), Issuable s → NoRollback s → Residents s .fence f →
  ∃ p, Does (.fence f) s p ∧ p.kept = s.kept ∧ (∀ k, k ≠ s.ctx.k → p.wave k = s.wave k) ∧
    (p.wave s.ctx.k).noThreads = (s.wave s.ctx.k).noThreads ∧
    ∀ l, p.thread s.ctx.k l = { s.thread s.ctx.k l with fences := (p.thread s.ctx.k l).fences } ∧
      ∀ x, x ∈ (p.thread s.ctx.k l).fences ↔ x ∈ (s.thread s.ctx.k l).fences ∨
        (modBit f 8 = true ∧ l ∈ s.ctx.executing f ∧ x = { scope := scopeOf (modField f 4 3), core := s.cur.core })

/-- R376, R378 to R381, R387, R209, R210, R491. Transfers: BRA, BRX, CALL and CALLX go to a target that R354 admits, a call of
more than 0 steps slides the window and leaves its link, RET slides it back, TRET restores predicates and leaves trap mode.
That the targets of RET and TRET are judged by what memory holds is the model's reading (log 25). -/
def Obligations.ControlTransfers : Prop := ∀ (s : State) (f : Fields), Issuable s → Together s f →
  let ex := s.ctx.executing f
  let rel : DWord := s.cur.pc.setWidth 64 + (disp f.b).signExtend 64
  let reg := fun (l : Nat) => s.ctx.pair l f.a
  let n := modField f 0 7
  let k := s.ctx.k
  let link := fun (l : Nat) => ((s.ctx.reg l (.v 1) 0).val ++ (s.ctx.reg l (.v 0) 0).val : DWord)
  let slot := fun (d : DWord) => (d.setWidth 57 : SlotAddr)
  let open' := fun (t : Nat) => t < 5 * 2 ^ 51 ∧
    ∀ L, s.lineOfSlot s.cur.core s.ctx.lr.pasid t = some L → lineLit L (t % 5) = false
  (Residents s .bra f → Target s rel.toNat → Transfers (.bra f) f s s fun _ => slot rel) ∧
  (Residents s .brx f → (∀ l ∈ ex, Target s (reg l).toNat) → Agree s f reg → Transfers (.brx f) f s s fun l => slot (reg l)) ∧
  (Residents s .call f → Target s rel.toNat → n = 0 → Transfers (.call f) f s s fun _ => slot rel) ∧
  (Residents s .call f → Target s rel.toNat → n ≠ 0 → Slides s f n → Transfers (.call f) f s (called s f n) fun _ => slot rel) ∧
  (Residents s .callx f → (∀ l ∈ ex, Target s (reg l).toNat) → Agree s f reg → n = 0 →
    Transfers (.callx f) f s s fun l => slot (reg l)) ∧
  (Residents s .callx f → (∀ l ∈ ex, Target s (reg l).toNat) → Agree s f reg → n ≠ 0 → Slides s f n →
    Transfers (.callx f) f s (called s f n) fun l => slot (reg l)) ∧
  (Residents s .ret f → (∀ l ∈ ex, let t := s.ctx.w.thread l
      let m := (link l).toNat / 2 ^ 57
      s.ctx.resident l (.v 0) 2 = true ∧ m ≠ 0 ∧ t.rf.toNat + 16 * m ≤ t.wb.toNat ∧ open' ((link l).toNat % 2 ^ 57)) →
    Agree s f link → Transfers (.ret f) f s
      (ex.foldl (fun p l => p.modThread k l fun t =>
        { t with wb := BitVec.ofNat 24 (t.wb.toNat - 16 * ((link l).toNat / 2 ^ 57)) }) s) fun l => slot (link l)) ∧
  (Residents s .tret f → (∀ l ∈ ex, let t := s.ctx.w.thread l
      t.trapMode = true ∧ t.rf.toNat ≤ t.wb.toNat ∧ open' t.res.toNat) →
    Agree s f (fun l => (s.ctx.w.thread l).res) → Transfers (.tret f) f s
      (ex.foldl (fun p l => p.modThread k l fun t => { t with preds := t.tpred, trapMode := false }) s)
      fun l => (s.ctx.w.thread l).res)

/-- R382, R383, R385, R389, R390, R155. MEET answers the old meeting address and sets it, MEETR sets it; ROLE, PREOFF and
PREON change the wave alone; YIELD changes nothing but holds its bundle back for eight cycles. That ROLE, PREOFF and PREON act
for the whole wave is the model's reading (log 55). -/
def Obligations.Meetings : Prop := ∀ (s : State) (f : Fields), Issuable s →
  let ex := s.ctx.executing f
  let k := s.ctx.k
  let met := fun (g : Nat → SlotAddr) => ex.foldl (fun p l => p.modThread k l fun t => { t with mr := g l }) s
  (Residents s .meet f → ComputesIn (.meet f) f s
    (met fun l => if f.b.isImm then (s.cur.pc.setWidth 64 + (disp f.b).signExtend 64 : DWord).setWidth 57
      else (s.ctx.pair l f.a).setWidth 57) 4
    fun l => s.ctx.put64 l f.d ((s.ctx.w.thread l).mr.setWidth 64) false) ∧
  (Residents s .meetr f → Does (.meetr f) s (met fun l => (s.ctx.pair l f.a).setWidth 57)) ∧
  (WaveResidents s .role f → Does (.role f) s (s.modWave k fun w =>
    { w with role := match modField f 0 2 with | 0 => .a | 1 => .l | _ => .e })) ∧
  (WaveResidents s .preoff f → Does (.preoff f) s (s.modWave k fun w =>
    { w with window := match w.window with | some n => some n | none => some 0 })) ∧
  (WaveResidents s .preon f → Does (.preon f) s (s.modWave k fun w => { w with window := none })) ∧
  (Residents s .yield f → ∃ t, exec (.yield f) s = .next t ∧ FallsThrough s s t ∧
    (t.wave k).noThreads = (s.wave k).noThreads ∧
    (ex ≠ [] → ∀ l ∈ s.ctx.active, (s.ctx.w.thread l).trapMode = false → s.cycle + 9 ≤ (t.thread k l).hold))

/-- R384, R189, R197. EXIT ends the executing threads: they leave every bundle and convergence set; no register, no predicate
and no byte of memory changes. -/
def Obligations.Exits : Prop := ∀ (s : State) (f : Fields), Issuable s → Together s f → NoRollback s → Residents s .exit f →
  ∃ t, exec (.exit f) s = .next t ∧ t.mem = s.mem ∧ t.hub = s.hub ∧
    (∀ l ∈ s.ctx.executing f, let u := t.thread s.ctx.k l
      u.exited = true ∧ u.parked = false ∧ u.block = none ∧ u.ptrap = none ∧
      (∀ b ∈ (t.wave s.ctx.k).bundles, b.lanes.getLsbD l = false) ∧
      ∀ e ∈ (t.wave s.ctx.k).kregs, e.2.set.getLsbD (s.ctx.lr.visible l) = false ∧
        e.2.signed.getLsbD (s.ctx.lr.visible l) = false) ∧
    (∀ l ∈ s.ctx.active, l ∉ s.ctx.executing f → (t.thread s.ctx.k l).exited = false ∧
      (s.thread s.ctx.k l).wentTo (t.thread s.ctx.k l) s.ctx.next) ∧
    ∀ j l, (t.thread j l).regs = (s.thread j l).regs ∧ (t.thread j l).preds = (s.thread j l).preds ∧
      (t.thread j l).wb = (s.thread j l).wb ∧ (t.thread j l).rf = (s.thread j l).rf

/-- R386, R369, R216, R490. BRK, TRAP and a slot whose opcode is not listed: every executing lane takes the trap, with its
cause, its value, the PC of the slot, and the resume address (the slot itself for a slot that is no instruction). That a trap
waits for the results in flight of its lane is the model's reading (log 11). -/
def Obligations.SoftwareTraps : Prop := ∀ (s : State), Issuable s → handles s →
  (∀ f, Together s f → Enterable s f → Residents s .brk f →
    Traps (.brk f) f s (fun _ => 0x0F) (fun _ => BitVec.ofNat 64 (modField f 0 8)) s.ctx.next) ∧
  (∀ f, Together s f → Enterable s f → Residents s .trap f →
    Traps (.trap f) f s (fun _ => 0x0E) (fun _ => BitVec.ofNat 64 (modField f 0 8)) s.ctx.next) ∧
  (∀ (w : BitVec 96) f, Op.ofCode (Raw.ofWord w).opc = none → f.g0 = Guard.ofBits (Raw.ofWord w).g0 →
    f.g1 = Guard.ofBits (Raw.ofWord w).g1 → Together s f → Enterable s f →
    Traps (.illegalInstruction w) f s (fun _ => 1) (fun _ => w.setWidth 64) s.cur.pc)

/-- R435, R437, R440, R442, R271. LD and LDK of one lane: the value at the physical address, extended or split into registers,
as one scoreboarded result; nothing else changes but SCOPEMISS of an acquire. Out of bounds, zeros, and the flag OOB.
SCOPEMISS is judged by release tags, the model's reading (log 14). -/
def Obligations.GlobalLoads : Prop := ∀ (s : State) (f : Fields) (l va pa mt : Nat), Issuable s → Sole s f l → Windowed s f →
  let n := memSize f
  let held := (s.crew s.ctx.w.crew).held
  let v := leNat ((List.range n).map fun i => (SMap.find held (pa + i)).getD (s.byte (pa + i)))
  let flagged := s.modWave s.ctx.k fun w => { w with wstat := w.wstat ||| 1, setNow := w.setNow ||| 1 }
  let zeros := List.replicate (max 1 (n / 4)) (⟨0, false⟩ : Reg)
  (Residents s .ld f → s.ctx.recAddress f BufRec.rdp n true l = .va va → Reaches s va .read pa mt n → s.poisonIn pa n = false →
    Scoreboards (.ld f) s (if modBit f 7 then s.acquire s.ctx.k l (scopeOf (modField f 4 3)) pa n else s)
      (s.ctx.put l f.d (loaded n (modBit f 3) v))) ∧
  (Residents s .ld f → s.ctx.recAddress f BufRec.rdp n true l = .oob → Scoreboards (.ld f) s flagged (s.ctx.put l f.d zeros)) ∧
  (Residents s .ldk f → s.ctx.recAddress f BufRec.rdp n true l = .va va → Reaches s va .read pa mt n → s.poisonIn pa n = false →
    Scoreboards (.ldk f) s s (s.ctx.put l f.d (loaded n false v))) ∧
  (Residents s .ldk f → s.ctx.recAddress f BufRec.rdp n true l = .oob → Scoreboards (.ldk f) s flagged (s.ctx.put l f.d zeros))

/-- R440, R444, R445, R271. ST and ATOM of one lane, on memory of this package: the bytes at the physical address change as
the rules say, every other byte of memory is unchanged, and ATOM answers the value that it found. With one lane no order of
lanes shows (log 64). -/
def Obligations.GlobalStores : Prop := ∀ (s : State) (f : Fields) (l va pa mt : Nat),
  Issuable s → Sole s f l → NoRollback s → Windowed s f →
  let n := memSize f
  let data := fun (o : Operand) (m : Nat) => groupNat (s.ctx.group l o m)
  let regs := max 1 (n / 4)
  let old := leNat (s.bytes pa n)
  (Residents s .st f → s.ctx.recAddress f BufRec.wrp n true l = .va va → Reaches s va .write pa mt n →
    ∃ p, Does (.st f) s p ∧ Wrote s p s.ctx.k pa n (data f.d regs)) ∧
  (Residents s .st f → s.ctx.recAddress f BufRec.wrp n true l = .oob →
    Does (.st f) s (s.modWave s.ctx.k fun w => { w with wstat := w.wstat ||| 1, setNow := w.setNow ||| 1 })) ∧
  (Residents s .atom f → s.ctx.recAddress f BufRec.atp n true l = .va va → Reaches s va .both pa mt n →
    s.poisonIn pa n = false →
    ∃ p, Scoreboards (.atom f) s p (s.ctx.put l f.d (loaded (max 4 n) false old)) ∧
      Wrote s p s.ctx.k pa n (updated (modField f 9 4) n old (data f.e (if modField f 9 4 = 9 then 2 * regs else regs))))

/-- R436, R437, R441, R446. LDS, STS and ATOMS of one lane, in a pinned page of the crew's window. -/
def Obligations.WindowAccesses : Prop := ∀ (s : State) (f : Fields) (l : Nat), Issuable s → Sole s f l →
  let n := memSize f
  let c := s.ctx.w.crew
  let o := ((s.ctx.a32 l f).val + (s.ctx.b32 l f).val).toNat
  let old := leNat ((List.range n).map fun i => s.spByte c (o + i))
  let data := fun (x : Operand) (m : Nat) => groupNat (s.ctx.group l x m)
  let regs := max 1 (n / 4)
  InWindow s o n → s.spPoisonIn c (o / 128 * 128) 128 = false →
  (Residents s .lds f → ∃ p, Scoreboards (.lds f) s p (s.ctx.put l f.d (loaded n (modBit f 3) old)) ∧
    Stored s p c s.ctx.k o n old (s.spFull c)) ∧
  (Residents s .sts f → ∃ p, Does (.sts f) s p ∧ Stored s p c s.ctx.k o n (data f.d regs) (s.spFull c)) ∧
  (Residents s .atoms f → ∃ p, Scoreboards (.atoms f) s p (s.ctx.put l f.d (loaded n false old)) ∧
    Stored s p c s.ctx.k o n (updated (modField f 9 4) n old (data f.c (if modField f 9 4 = 9 then 2 * regs else regs)))
      (s.spFull c))

/-- R443, R258. LDE and STF of one lane: LDE takes the value of a full line and empties it, STF fills an empty line; where F does
not admit the access, the thread waits and nothing of the window changes. -/
def Obligations.FullEmptyAccesses : Prop := ∀ (s : State) (f : Fields) (l : Nat), Issuable s → Sole s f l → Fresh s → Windowed s f →
  let n := memSize f
  let c := s.ctx.w.crew
  let o := ((s.ctx.a32 l f).val + (s.ctx.b32 l f).val).toNat
  let old := leNat ((List.range n).map fun i => s.spByte c (o + i))
  let data := groupNat (s.ctx.group l f.d (max 1 (n / 4)))
  InWindow s o n → s.spPoisonIn c (o / 128 * 128) 128 = false →
  (Residents s .lde f → s.spFull c (o / 128) = true → ∃ p, Answers (.lde f) s p (s.ctx.put l f.d (loaded n false old)) ∧
    Stored s p c s.ctx.k o n old fun j => s.spFull c j && j != o / 128) ∧
  (Residents s .lde f → s.spFull c (o / 128) = false → ∃ t, exec (.lde f) s = .next t ∧ t.kept = s.kept ∧
    (t.thread s.ctx.k l).block.isSome = true ∧ (t.thread s.ctx.k l).pc = s.cur.pc) ∧
  (Residents s .stf f → s.spFull c (o / 128) = false → ∃ p, Does (.stf f) s p ∧
    Stored s p c s.ctx.k o n data fun j => s.spFull c j || j == o / 128) ∧
  (Residents s .stf f → s.spFull c (o / 128) = true → ∃ t, exec (.stf f) s = .next t ∧ t.kept = s.kept ∧
    (t.thread s.ctx.k l).block.isSome = true ∧ (t.thread s.ctx.k l).pc = s.cur.pc)

/-- R450, R451. The crew barrier of a crew with one wave, whose live threads all execute: BAR and BARA arrive and complete the
phase, BARW goes on where the phase of its threads is complete. -/
def Obligations.CrewBarrier : Prop := ∀ (s : State) (f : Fields), Issuable s → NoRollback s → LoneWave s f →
  modBit f 0 = false → s.ctx.lr.prot = false →
  let ex := s.ctx.executing f
  let arrived := fun (t : Thread) => SMap.get t.ap 256 0
  let done := (ex.foldl (fun p l => p.modThread s.ctx.k l fun t => { t with ap := SMap.set t.ap 256 (crewPhase s + 1) 0 }) s).modCrew
    s.ctx.w.crew fun x => { x with cp := crewPhase s + 1 }
  (Residents s .bar f → (∀ l ∈ ex, arrived (s.ctx.w.thread l) = crewPhase s) → Does (.bar f) s done) ∧
  (Residents s .bara f → (∀ l ∈ ex, arrived (s.ctx.w.thread l) = crewPhase s) → Does (.bara f) s done) ∧
  (Residents s .barw f → (∀ l ∈ ex, arrived (s.ctx.w.thread l) ≤ crewPhase s) → Does (.barw f) s s)

/-- R453, R264. Gates of one lane: GINIT writes what is expected, no bytes arrived, and F = 0; GADD credits bytes and sets F when
they reach what is expected; GWAIT takes F, or waits for it. -/
def Obligations.Gates : Prop := ∀ (s : State) (f : Fields) (l : Nat), Issuable s → Sole s f l →
  let c := s.ctx.w.crew
  let o := (s.ctx.a32 l f).val.toNat
  let b := (s.ctx.b32 l f).val.toNat
  let exp := leNat ((List.range 4).map fun i => s.spByte c (o + i))
  let old := leNat ((List.range 4).map fun i => s.spByte c (o + 4 + i))
  let now := (old + b) % 2 ^ 32
  InWindow s o 128 →
  (Residents s .ginit f → ∃ p, Does (.ginit f) s p ∧ Stored s p c s.ctx.k o 8 b fun j => s.spFull c j && j != o / 128) ∧
  (Residents s .gadd f → ∃ p, Does (.gadd f) s p ∧ Stored s p c s.ctx.k (o + 4) 4 now fun j =>
    s.spFull c j || (j == o / 128 && decide (old < exp ∧ exp ≤ now))) ∧
  (Residents s .gwait f → s.spFull c (o / 128) = true →
    ∃ p, Does (.gwait f) s p ∧ Stored s p c s.ctx.k o 0 0 fun j => s.spFull c j && j != o / 128) ∧
  (Residents s .gwait f → s.spFull c (o / 128) = false → ∃ t, exec (.gwait f) s = .next t ∧ t.kept = s.kept ∧
    (t.thread s.ctx.k l).block.isSome = true ∧ (t.thread s.ctx.k l).pc = s.cur.pc)

namespace Sys2Proof.Says

/-- The crew of the wave is resident, and its record names the slot of the wave. -/
def Placed (s : State) : Prop :=
  let x := s.crew s.ctx.w.crew
  x.resident = true ∧ waveKey x.core (x.slots.getD s.ctx.w.wid 0) = s.ctx.k

/-- The results of PUSH: the answer, and the predicates that it names, of which `set` is set. -/
def pushed (s : State) (f : Fields) (l v : Nat) (set : Option Nat) : List (Dst × Reg) :=
  let pf := modField f 0 3
  let pe := modField f 3 3
  s.ctx.put32 l f.d (BitVec.ofNat 32 v) false ++ putPred l pf (set == some pf) ++
    if pe = pf then [] else putPred l pe (set == some pe)

/-- Every window page that [o, o + n) meets is pinned. -/
def Pinned (s : State) (o n : Nat) : Prop :=
  ∀ p, o / 4096 ≤ p → p ≤ (o + n - 1) / 4096 → ((s.crew s.ctx.w.crew).page p).state = .pinned

/-- A window byte-for-byte as before but where `p` says, F bits and all else as before. -/
structure Kept (s p : State) (c : Nat) (touched : Nat → Prop) : Prop where
  outside : ∀ b, ¬ touched b → p.spByte c b = s.spByte c b
  fbits : ∀ j, p.spFull c j = s.spFull c j
  crews : ∀ d, d ≠ c → p.crew d = s.crew d
  rest : ({ p with crews := s.crews, releases := s.releases } : State).kept = s.kept
  waves : ∀ j, p.wave j = s.wave j

end Sys2Proof.Says

/-- R454. SEAL answers the number of the open batch and opens the next, which skips 0; BWAIT goes on where no copy of a covered
batch is incomplete, and else waits. -/
def Obligations.Batches : Prop := ∀ (s : State) (f : Fields), Issuable s →
  (∀ l, Sole s f l → Fresh s → Residents s .seal f →
    let t := s.ctx.w.thread l
    ((t.copies.filter (· ≠ t.batch)).eraseDups).length < 15 →
    Answers (.seal f) s
      (s.modThread s.ctx.k l fun t => { t with batch := if t.batch = 0xFFFFFFFF then 1 else t.batch + 1 })
      (s.ctx.put32 l f.d t.batch false)) ∧
  (Residents s .bwait f → (∀ l ∈ s.ctx.executing f, ∀ x ∈ (s.ctx.w.thread l).copies,
      2 ^ 31 ≤ ((s.ctx.b32 l f).val - x).toNat) → Does (.bwait f) s s) ∧
  (∀ l, Sole s f l → Residents s .bwait f → (∃ x ∈ (s.ctx.w.thread l).copies, ((s.ctx.b32 l f).val - x).toNat < 2 ^ 31) →
    ∃ t, exec (.bwait f) s = .next t ∧ t.kept = s.kept ∧ (t.thread s.ctx.k l).block = some (.bwait (s.ctx.b32 l f).val) ∧
      (t.thread s.ctx.k l).pc = s.cur.pc)

/-- R455, R456, R454. PUSH of one lane to a copy queue: the queue with room takes the command, with its pusher and open batch, and
answers 0; a full one answers 1 and sets PF, where PF names a predicate; a queue ID that names no queue answers 2 and sets PE. -/
def Obligations.Pushes : Prop := ∀ (s : State) (f : Fields) (l : Nat),
  Issuable s → Sole s f l → Fresh s → NoRollback s → Placed s → Residents s .push f →
  let q := (s.ctx.b32 l f).val.toNat % 2 ^ 12
  let t := s.ctx.w.thread l
  let pe := modField f 3 3
  let cmd : QCmd := ⟨(s.ctx.group l f.a 16).map fun r => r.val, s.ctx.lr.pasid, some ⟨s.ctx.w.crew, s.ctx.w.wid, l⟩, t.batch, false⟩
  (q < 256 → (s.queueAt q).length < 64 → Answers (.push f) s
    ((s.setQueue q (s.queueAt q ++ [cmd])).modThread s.ctx.k l fun t => { t with copies := t.copies ++ [t.batch] })
    (pushed s f l 0 none)) ∧
  (q < 256 → 64 ≤ (s.queueAt q).length → modField f 0 3 ≠ 7 →
    Answers (.push f) s s (pushed s f l 1 (some (modField f 0 3)))) ∧
  (0x142 ≤ q → q ≠ 0x1F0 → pe ≠ 7 → Answers (.push f) s s (pushed s f l 2 (some pe)))

/-- R465, R119. WAIT of one lane whose word is at least its value ends at once with the word, as an acquire at its scope, where no
other entry of the operand log holds its line (R214); with a smaller word and no deadline it waits. -/
def Obligations.Waits : Prop := ∀ (s : State) (f : Fields) (l va pa mt : Nat),
  Issuable s → Sole s f l → Fresh s → Residents s .wait f →
  let n := if modBit f 0 then 8 else 4
  let held := (s.crew s.ctx.w.crew).held
  let v := leNat ((List.range n).map fun i => (SMap.find held (pa + i)).getD (s.byte (pa + i)))
  let least := if modBit f 0 then (s.ctx.reg l f.c 0).val.toNat + 2 ^ 32 * (s.ctx.reg l f.c 1).val.toNat
    else (s.ctx.reg l f.c 0).val.toNat
  s.ctx.recAddress f BufRec.rdp n false l = .va va → Reaches s va .read pa mt n → s.poisonIn pa n = false →
  (least ≤ v → s.ctx.w.logLineOther s.serial va = false → Answers (.wait f) s (s.acquire s.ctx.k l (scopeOf (modField f 4 3)) pa n) (s.ctx.put l f.d (loaded n false v))) ∧
  (v < least → modBit f 1 = false → ∃ t, exec (.wait f) s = .next t ∧ (t.thread s.ctx.k l).block.isSome = true ∧
    (t.thread s.ctx.k l).pc = s.cur.pc ∧ (t.thread s.ctx.k l).regs = (s.thread s.ctx.k l).regs)

/-- R466, R467, R468, R120, R57. WAKE posts a wake for the line that its lane names, TSIG records what a task will signal, and
nothing in another launch, DBL puts a doorbell into the proxy of its port. -/
def Obligations.Signals : Prop := ∀ (s : State) (f : Fields), Issuable s → NoRollback s → s.ctx.lr.prot = false →
  (∀ l va pa mt, Sole s f l → Residents s .wake f → s.ctx.recAddress f BufRec.rdp 1 false l = .va va → Reaches s va .read pa mt 1 →
    ∃ p, Does (.wake f) s p ∧ ({ p with harts := s.harts, inputs := s.inputs } : State).kept = s.kept ∧
      (∀ i, i ∈ p.inputs ↔ i ∈ s.inputs ∨ ∃ e ∈ s.launches, i = .afterEventSatisfied e.1 ∧ e.2.state = .waitEv ∧ e.2.ended = false ∧
        pa / 64 ∈ e.2.lines) ∧
      (∀ j, (p.wave j).noThreads = (s.wave j).noThreads) ∧
      (∀ j m, p.thread j m = { s.thread j m with block := (s.thread j m).block.map fun b => b.woken (pa / 64) }) ∧
      ∀ h < 16, (p.hartAt h).reserved =
        if (s.hartAt h).reserved = some (pa / 64) then none else (s.hartAt h).reserved) ∧
  (Residents s .tsig f → Does (.tsig f) s (if s.ctx.launch.task.isNone then s
    else (s.ctx.executing f).foldl (fun p l => p.modThread s.ctx.k l fun t =>
      { t with tsig := t.tsig ||| ((s.ctx.b32 l f).val).setWidth 2 }) s)) ∧
  (∀ l va pa mt port a, Sole s f l → Residents s .dbl f →
    let n := memSize f
    s.ctx.recAddress f BufRec.wrp n true l = .va va → s.translate s.ctx.lr.pasid va ⟨false, false, false, true⟩ = (s, .ok pa mt) →
    s.translate s.ctx.lr.pasid va .doorbell = (s, .ok pa mt) → s.regionAt pa = .pcie → s.pcieRoute pa = some (port, a) → (s.portAt port).up = true →
    (s.portAt port).doorbells.length < 256 →
    Does (.dbl f) s (s.modPort port fun x => { x with doorbells := x.doorbells ++
      [{ addr := a, pa := pa, data := BitVec.ofNat 64 (groupNat (s.ctx.group l f.d (max 1 (n / 4))) % 2 ^ (8 * n)), size := n
         waveKey := s.ctx.k, crew := s.ctx.w.crew, pasid := s.ctx.lr.pasid
         who := BitVec.ofNat 64 (s.cur.core + s.cur.slot * 2 ^ 8 + l * 2 ^ 14) }] }))

/-- R195, R479. CVR sets a convergence register without signers to its mask, without the lanes that have ended. -/
def Obligations.ConvergenceSets : Prop := ∀ (s : State) (f : Fields) (l : Nat), Issuable s → Residents s .cvr f →
  let n := modField f 0 3
  let kr := SMap.get s.ctx.w.kregs n KReg.blank
  let dead := fun (i : Nat) => s.ctx.w.threads.any fun e => e.2.exited && s.ctx.lr.visible e.1 == i
  (s.ctx.executing f).head? = some l → kr.signed = 0 →
  let mask : Word := wordOf fun i => (s.ctx.b32 l f).val.getLsbD i && !dead i && (!s.ctx.lr.prot || i < 16)
  let fresh : KReg := { kr with set := mask, signed := 0, barred := none }
  Does (.cvr f) s (s.modWave s.ctx.k fun w => { w with kregs := SMap.set w.kregs n fresh KReg.blank })

/-- R196, R480, R484. MMA, MMQ and MMS sign: where the set is not complete yet, the executing lanes are added to SIGNED, the
PC and the block offset are recorded, the lanes wait at their slot, and no register changes. Where it is complete, the array
and the registers of all 32 lanes are free, and the block lies in pinned pages, the instruction issues: the array takes a job with the products of R484 for the 32
lanes, SIGNED is empty, and the signers go on. That a complete set issues at once, as the bundle of the set, is the model's
reading (log 58). -/
def Obligations.MatrixIssues : Prop := ∀ (s : State) (f : Fields) (o : Op) (i : Instr), Issuable s → s.ctx.lr.prot = false →
  (o = .mma ∧ i = .mma f) ∨ (o = .mmq ∧ i = .mmq f) ∨ (o = .mms ∧ i = .mms f) → Residents s o f →
  s.ctx.executing f ≠ [] → (∀ l ∈ s.ctx.executing f, signCheck o f s.ctx l = none) →
  let n := modField f 6 3
  let k := s.ctx.k
  let kr := SMap.get s.ctx.w.kregs n KReg.blank
  let signed : Word := wordOf fun i => kr.signed.getLsbD i || (s.ctx.executing f).contains i
  let off := (s.ctx.reg ((s.ctx.executing f).getLast?.getD 0) f.a 0).val
  let x := slA f s.ctx.lr
  let bfmt := (slB f s.ctx.lr).fmt
  let cols := 32 * 2 ^ modField f 9 2
  let size := blockBytes x.planes cols (headerGroup o x)
  let block := leNat (s.spBytes s.ctx.w.crew off.toNat size)
  let rows := (List.range 16).map (rowInts block x.fmt x.planes x.semi cols)
  let out := fun (l : Nat) => columnUpdate o x bfmt cols block rows (s.ctx.group l f.b.operand (cols * bWidth bfmt / 32))
    (s.ctx.group l f.d 16)
  (signed ≠ kr.set → ∃ t, exec i s = .next t ∧ t.kept = s.kept ∧
    SMap.get (t.wave k).kregs n KReg.blank = { kr with signed := signed, spc := s.cur.pc, offset := off } ∧
    (∀ m, m ≠ n → SMap.get (t.wave k).kregs m KReg.blank = SMap.get (s.wave k).kregs m KReg.blank) ∧
    (∀ l ∈ s.ctx.executing f, (t.thread k l).block = some (.signed n) ∧ (t.thread k l).pc = s.cur.pc) ∧
    ∀ l, (t.thread k l).regs = (s.thread k l).regs ∧ (t.thread k l).preds = (s.thread k l).preds) ∧
  (signed = kr.set → s.arrayBusy k = false → s.ctx.matrixFree f = true → kr.barred ≠ some s.cur.core → off.toNat + size ≤ s.ctx.lr.spw * 4096 → off.toNat % 128 = 0 →
    Pinned s off.toNat size → ∃ t j, exec i s = .next t ∧ t.kept = s.kept ∧
    (t.wave k).mat = (s.wave k).mat ++ [j] ∧ j.k = n ∧
    j.writes = ((List.range 32).flatMap fun l => s.ctx.put l f.d ((out l).map fun a => (⟨a.val, a.x⟩ : Reg))) ∧
    j.flags.getLsbD 0 = (List.range 32).any (fun l => (out l).any (·.sat)) ∧
    j.flags.getLsbD 1 = (List.range 32).any (fun l => (out l).any (·.nan)) ∧
    j.flags.getLsbD 2 = (List.range 32).any (fun l => (out l).any (·.inx)) ∧
    (SMap.get (t.wave k).kregs n KReg.blank).signed = 0 ∧
    (∀ l, l < 32 → signed.getLsbD l = true → (t.thread k l).block = none ∧ (t.thread k l).pc = s.ctx.next) ∧
    ∀ l, (t.thread k l).regs = (s.thread k l).regs ∧ (t.thread k l).preds = (s.thread k l).preds)

namespace Sys2Proof.Says

/-- acc := rnd(acc + v, f32, RN): one rounding (R335). X takes the inexact flag of the window and that of the rounding; a NaN counts as
inexact for X (R314), and MNAN instead of MINX says it. -/
def accumulated (t : Acc) (v : Machine.Num) (inx : Bool) : Acc :=
  let y := FloatFmt.f32.round ⟨0, 0⟩ false ((FloatFmt.f32.value t.val.toNat).add v false)
  let val : Word := BitVec.ofNat 32 y.code
  { val := val, x := t.x || inx || y.inx, sat := t.sat, nan := t.nan || v == .nan
    inx := t.inx || inx || (y.inx && FloatFmt.f32.value val.toNat != .nan) }

/-- The value of column `k` of B, where it is finite, as m * 2^x. -/
def finiteAt (b : List BVal) (k : Nat) : Option (Int × Int) :=
  match b.getD k (.val 0 0) with
  | .val m x => some (m, x)
  | _ => none

/-- A product of column `k` is an infinity with this sign. -/
def Infinite (a : List Int) (b : List BVal) (k : Nat) (neg : Bool) : Prop :=
  k < a.length ∧ a.getD k 0 ≠ 0 ∧ b.getD k (.val 0 0) = .inf (neg != decide (a.getD k 0 < 0))

/-- A product of column `k` is a NaN: of a NaN, or 0 times an infinity. -/
def NanProduct (a : List Int) (b : List BVal) (k : Nat) : Prop :=
  k < a.length ∧ (b.getD k (.val 0 0) = .nan ∨ (a.getD k 0 = 0 ∧ ∃ neg, b.getD k (.val 0 0) = .inf neg))

/-- The product of column `k` is finite and not 0, with the largest bit at 2^e; the elements of A have the exponent `ea`. -/
def Weighs (a : List Int) (ea : Int) (b : List BVal) (k : Nat) (e : Int) : Prop :=
  k < a.length ∧ ∃ m x, finiteAt b k = some (m, x) ∧ a.getD k 0 * m ≠ 0 ∧ e = (Nat.log2 (a.getD k 0 * m).natAbs : Int) + ea + x

/-- S_g of a floating group (R335), as a value with its inexact flag: a NaN, an infinity, or the exact sum rounded to odd at 2^(e - 57), `e`
being the weight of the largest product. `low` is an exponent below that of every product. -/
structure GroupSum (a : List Int) (ea : Int) (b : List BVal) (out : Machine.Num × Bool) : Prop where
  nan : (∃ k, NanProduct a b k) ∨ (∃ j k, Infinite a b j true ∧ Infinite a b k false) → out = (.nan, false)
  inf : ∀ k neg, Infinite a b k neg → (∀ j, ¬ NanProduct a b j) → (∀ j, ¬ Infinite a b j !neg) → out = (.inf neg, false)
  zero : (∀ k < a.length, ∃ m x, finiteAt b k = some (m, x) ∧ a.getD k 0 * m = 0) → out = (.fin false 0 1, false)
  sum : (∀ k < a.length, (finiteAt b k).isSome = true) → ∀ e low : Int, (∃ k, Weighs a ea b k e) → (∀ k d, Weighs a ea b k d → d ≤ e) →
    (∀ k m x, finiteAt b k = some (m, x) → low ≤ ea + x) →
    let s := (List.range a.length).foldl (fun n k =>
      n + match finiteAt b k with | some (m, x) => a.getD k 0 * m * 2 ^ (ea + x - low).toNat | none => 0) (0 : Int)
    let u := e - 57
    let unit := 2 ^ (u - low).toNat
    (s = 0 → out = (.fin false 0 1, false)) ∧
    (s ≠ 0 → ∃ n v, out.1 = Machine.Num.dyadic (decide (s < 0)) n v ∧ low ≤ v ∧
      (out.2 = true ↔ low < u ∧ s.natAbs % unit ≠ 0) ∧ (out.2 = false → n * 2 ^ (v - low).toNat = s.natAbs) ∧
      (out.2 = true → v = u ∧ n % 2 = 1 ∧ s.natAbs < (n + 1) * unit ∧ n * unit < s.natAbs + unit))

end Sys2Proof.Says

/-- R335, R336, R484. One element of MMA, MMQ and MMS. MMA with integers: for each group of 32 columns, the exact sum of products is
added and clamped to 32 bits, with X and MSAT where the clamp changed it. MMA with a floating A or B: the sum of each group, rounded to odd at
its window, is added with one rounding; a group that the header marks NAN counts as a NaN. MMQ: scale × Σ (q − z) · b of each group, exact, is
added with one rounding. MMS: the least or greatest of the clamped sums or products, or the boolean semiring. That MINX does not say
a NaN is the model's reading of R346 (log 58). -/
def Obligations.MatrixArithmetic : Prop := ∀ (x : Slot) (bfmt g : Nat) (hdr : Nat → Nat) (a b : List Int) (t : Acc),
  let cols := 32 * g
  let dot := fun (i : Nat) => (List.range 32).foldl (fun n j => n + a.getD (32 * i + j) 0 * b.getD (32 * i + j) 0) 0
  let ints := b.map fun m => BVal.val m 0
  let size := 16 * 2 ^ x.gsz
  let taken := fun (op : Int → Int → Int) (f : Int → Int → Int) => ∃ u, elementUpdate .mms x bfmt cols hdr a ints t = u ∧
    u.val.toInt = (List.range cols).foldl (fun n i => op n (clamped 32 false (f (a.getD i 0) (b.getD i 0))).1.toInt) t.val.toInt ∧
    let clamps := (List.range cols).any fun i => (clamped 32 false (f (a.getD i 0) (b.getD i 0))).2
    u = { t with val := u.val, x := t.x || clamps, sat := t.sat || clamps }
  (∀ (c : List Int) (ea : Int) (d : List BVal), c.length = d.length → GroupSum c ea d (floatGroup c ea d)) ∧
  (a.length = cols → b.length = cols →
    (x.fmt = 0x20 → 0x10 ≤ bfmt → elementUpdate .mma x bfmt cols hdr a ints t =
      (List.range g).foldl (fun (u : Acc) i =>
        let r := clamped 32 false (u.val.toInt + dot i)
        { u with val := r.1, x := u.x || r.2, sat := u.sat || r.2 }) t) ∧
    (∀ d : List BVal, d.length = cols → (x.fmt = 0x20 ∧ bfmt < 0x10) ∨ (x.fmt = 0x21 ∧ x.gsz ≠ 0) →
      elementUpdate .mma x bfmt cols hdr a d t = (List.range g).foldl (fun (u : Acc) i =>
        let h := hdr (32 * i / size)
        let ea : Int := if x.fmt = 0x21 then (BitVec.ofNat 16 h).toInt - x.pm1 + 1 else 0
        let s := floatGroup ((a.drop (32 * i)).take 32) ea ((d.drop (32 * i)).take 32)
        if x.fmt = 0x21 ∧ h.testBit 16 = true then accumulated u .nan false else accumulated u s.1 s.2) t) ∧
    (x.gsz ≠ 0 → elementUpdate .mmq x bfmt cols hdr a ints t = (List.range (cols / size)).foldl (fun (u : Acc) i =>
      let h := hdr i
      let z := (BitVec.ofNat 16 (h / 2 ^ 16)).toInt
      let n := (List.range size).foldl (fun n j => n + (a.getD (size * i + j) 0 - z) * b.getD (size * i + j) 0) 0
      accumulated u ((FloatFmt.f16.value (h % 2 ^ 16)).mul (Machine.Num.ofInt n)) false) t) ∧
    (x.semi = 1 → taken min (· + ·)) ∧ (x.semi = 2 → taken max (· + ·)) ∧ (x.semi = 3 → taken max (· * ·)) ∧
    (x.semi = 4 → elementUpdate .mms x bfmt cols hdr a ints t =
      { t with val := if t.val ≠ 0 ∨ (List.range cols).any (fun i => a.getD i 0 == 1 && b.getD i 0 == 1) = true then 1 else 0 }))

/-- MATRIX_COMPLETE, R484, R346. The accumulators of the oldest job land, over what was in flight for them, and its flags are
set. The step of its own is the model's (log 58). -/
def Obligations.MatrixCompletes : Prop := ∀ (s : State) (core : Fin 256) (slot : Fin 64) (j : MatJob) (rest : List MatJob),
  let k := waveKey core slot
  (s.wave k).mat = j :: rest → (j.writes.map (·.1)).Nodup →
  ∃ t, exec (.matrixComplete core slot) s = .next t ∧ t.kept = s.kept ∧ (∀ i, i ≠ k → t.wave i = s.wave i) ∧
    (t.wave k).mat = rest ∧ (t.wave k).mstat = (s.wave k).mstat ||| j.flags ∧
    (∀ e ∈ j.writes, ∀ l row, e.1 = .v l row → SMap.get (t.thread k l).regs row ⟨0, false⟩ = e.2) ∧
    (∀ l row, (∀ e ∈ j.writes, e.1 ≠ .v l row) →
      SMap.get (t.thread k l).regs row ⟨0, false⟩ = SMap.get (s.thread k l).regs row ⟨0, false⟩) ∧
    ∀ y ∈ (t.wave k).fly, y ∈ (s.wave k).fly ∧ ∀ e ∈ j.writes, e.1 ≠ y.dst

/-- R483, R334. PLANE and PLANX of one lane, in pinned pages of the window: plane j of the lane's part of its row holds bit j of
its elements, which are the source words, or for PLANX magnitudes narrowed under the exponent of their group; PLANX writes the
header entries of the groups that it meets. Nothing else of the window changes. -/
def Obligations.PlaneStores : Prop := ∀ (s : State) (f : Fields) (l : Nat), Issuable s → Sole s f l →
  let x := s.ctx.lr.slot (modField f 0 3)
  let k := 32 * 2 ^ modField f 3 2
  let n := k / 2
  let h := l % 2 * n
  let c := s.ctx.w.crew
  let off := (s.ctx.reg l f.a 0).val.toNat
  let src := fun (i : Nat) => (s.ctx.reg l f.b.operand i).val
  let plane := fun (j : Nat) => off + 2 * k * j + k / 8 * (l / 2) + h / 8
  let g := 16 * 2 ^ x.gsz
  let row := s.ctx.planeRow l k f.b.operand
  let group := fun (i : Nat) => (row.drop (g * i)).take g
  let element := fun (i : Nat) => narrowElement (groupExponent (group ((h + i) / g))) x.pm1 (f32Of (src i)) +
    if f32Of (src i) = .nan ∧ (src i).getLsbD 31 = true then 2 ^ x.pm1 else 0
  let header := fun (i : Nat) => off + headerAt x.planes k + 4 * (l / 2 * (k / g) + i)
  let mine := fun (i : Nat) => i < k / g ∧ h < g * (i + 1) ∧ g * i < h + n
  let bad := fun (i : Nat) => (group i).any fun v => match v with | .fin .. => false | _ => true
  off % 128 = 0 →
  (Residents s .plane f → planeSlot .plane x k = true → off + 2 * k * x.planes ≤ s.ctx.lr.spw * 4096 →
    Pinned s off (2 * k * x.planes) → ∃ p, Does (.plane f) s p ∧
    (∀ j < x.planes, ∀ i < n, (p.spByte c (plane j + i / 8)).getLsbD (i % 8) = (src i).getLsbD j) ∧
    Kept s p c fun b => ∃ j < x.planes, plane j ≤ b ∧ b < plane j + n / 8) ∧
  (Residents s .planx f → planeSlot .planx x k = true → off + blockBytes x.planes k g ≤ s.ctx.lr.spw * 4096 →
    Pinned s off (blockBytes x.planes k g) → ∃ p, Does (.planx f) s p ∧
    (∀ j < x.planes, ∀ i < n, (p.spByte c (plane j + i / 8)).getLsbD (i % 8) = (element i).testBit j) ∧
    (∀ i, mine i → ∀ b < 4, p.spByte c (header i + b) =
      byteOf ((groupExponent (group i) % 2 ^ 16).toNat + if bad i then 2 ^ 16 else 0) b) ∧
    Kept s p c fun b => (∃ j < x.planes, plane j ≤ b ∧ b < plane j + n / 8) ∨ ∃ i, mine i ∧ header i ≤ b ∧ b < header i + 4)

/-- R211, R212, R492. WSPILL and WFILL of one lane, whose image lies in one page: WSPILL writes the 32 rows and their X bits
and raises RF by 32, WFILL loads them and lowers it. The corners of its page requests are the model's (log 28) and are not
stated here. -/
def Obligations.WindowImages : Prop := ∀ (s : State) (f : Fields) (l va pa mt : Nat), Issuable s → Sole s f l → NoRollback s →
  let k := s.ctx.k
  let t := s.ctx.w.thread l
  let rows := s.ctx.lr.w + 16 * s.ctx.lr.stackr
  let held := (s.crew s.ctx.w.crew).held
  let seen := fun (a : Nat) => (SMap.find held a).getD (s.byte a)
  let reg := fun (u : Thread) (j : Nat) => SMap.get u.regs (j % rows) ⟨0, false⟩
  va % 4096 + 144 ≤ 4096 →
  (Residents s .wspill f → s.ctx.imageAddress f false l = .va va → Reaches s va .write pa mt 144 → ∃ p, Does (.wspill f) s p ∧
    (∀ j < 32, ∀ b < 4, p.byte (pa + 4 * j + b) = byteOf (reg t (t.rf.toNat / 32 * 32 + j)).val.toNat b) ∧
    (∀ j < 32, (p.byte (pa + 128 + j / 8)).getLsbD (j % 8) = (reg t (t.rf.toNat / 32 * 32 + j)).x) ∧
    (∀ b < 12, p.byte (pa + 132 + b) = 0) ∧ sameOutside s p pa 144 ∧
    p.thread k l = { t with rf := BitVec.ofNat 24 (t.rf.toNat + 32) } ∧ (∀ m, m ≠ l → p.thread k m = s.thread k m) ∧
    ({ p with mem := s.mem, poisoned := s.poisoned, upsets := s.upsets, releases := s.releases, harts := s.harts } : State).kept =
      s.kept ∧
    (∀ j, j ≠ k → p.wave j = s.wave j) ∧ (p.wave k).noThreads = (s.wave k).noThreads) ∧
  (Residents s .wfill f → 32 ≤ rows → s.ctx.imageAddress f true l = .va va → Reaches s va .read pa mt 144 →
    s.poisonIn pa 144 = false → ∃ p, Does (.wfill f) s p ∧
    (let u := p.thread k l
     let first := (t.rf.toNat / 32 - 1) * 32
     u.rf = BitVec.ofNat 24 (t.rf.toNat - 32) ∧ u = { t with rf := u.rf, regs := u.regs } ∧
     (∀ j < 32, reg u (first + j) = ⟨BitVec.ofNat 32 (leNat ((List.range 4).map fun b => seen (pa + 4 * j + b))),
       (seen (pa + 128 + j / 8)).getLsbD (j % 8)⟩) ∧
     (∀ r < rows, (∀ j < 32, (first + j) % rows ≠ r) → reg u r = reg t r)) ∧
    (∀ m, m ≠ l → p.thread k m = s.thread k m) ∧ p.kept = s.kept ∧ (∀ j, j ≠ k → p.wave j = s.wave j) ∧
    (p.wave k).pend = (s.wave k).pend ++ [{ serial := s.serial, marks := [], writes := [], waiting := 0 }] ∧
    ({ p.wave k with fly := (s.wave k).fly, pend := (s.wave k).pend, touched := (s.wave k).touched } : Wave).noThreads =
      (s.wave k).noThreads)

/-- R496, R239. CKPT: in a launch that takes no checkpoints it only advances; in another, while the crew is not ready for one,
it records that the wave asked (here: a wave of the crew has an access in its operand log). That CKPT acts for the whole wave
is the model's reading (log 55). -/
def Obligations.CheckpointRequests : Prop := ∀ (s : State) (f : Fields), Issuable s → WaveResidents s .ckpt f →
  let c := s.ctx.w.crew
  (s.ctx.lr.rbk = false → (s.crew c).ckptDue = none → Does (.ckpt f) s s) ∧
  (s.ctx.lr.rbk = true → s.ctx.launch.task = none → (∃ k ∈ s.crewKeys c, (s.wave k).log ≠ []) →
    Does (.ckpt f) s (s.modCrew c fun x => { x with ckptDue := some (x.ckptDue.getD s.ctx.w.wid) }))

/-- R126 to R128, R388. SYSC of one lane where every access reaches memory, the ring has room and nobody else takes the
ticket: STATUS is cleared, TAIL is raised, the entry is written with its sequence number, and the lane parks until STATUS is
written. No other byte of memory changes, and no register does. The order of the steps of a call is that of R127, performed in
one step; its failures are read as log 20 says and are not stated here. -/
def Obligations.SystemCalls : Prop := ∀ (s : State) (f : Fields) (l ph pc pe : Nat),
  Issuable s → Sole s f l → Fresh s → NoRollback s → Residents s .sysc f → (s.crew s.ctx.w.crew).held = [] → s.ctx.w.log = [] →
  (∀ e ∈ s.ctx.w.threads, ∀ y, e.2.block = some (.sysc y) → y.serial ≠ s.serial) → s.laneStores s.ctx.k l = false →
  let h := s.ctx.lr.sysr.toNat
  let cva := (s.ctx.pair l f.a).toNat % 2 ^ 57
  let hdr := s.readNat (ph + 8) 8
  let tail := s.readNat ph 8
  let size := 2 ^ (hdr % 2 ^ 5)
  let e := s.readNat (ph + 0x10) 8 % 2 ^ 57 + 64 * (tail % size)
  let touched := fun (b : Nat) => (pc ≤ b ∧ b < pc + 4) ∨ (ph ≤ b ∧ b < ph + 8) ∨ (pe ≤ b ∧ b < pe + 64)
  let read := fun (b : Nat) => (pc ≤ b ∧ b < pc + 16) ∨ (ph ≤ b ∧ b < ph + 0x48) ∨ (pe ≤ b ∧ b < pe + 64)
  let maps := fun (va : Nat) (need : Need) (pa : Nat) => ∀ t : State, t.hub = s.hub →
    t.upsets = s.upsets → t.poisoned = s.poisoned → (∀ b, ¬ touched b → t.byte b = s.byte b) → ∃ mt, mt ≤ 2 ∧ t.translate s.ctx.lr.pasid va need = (t, .ok pa mt)
  let word := fun (o i : Nat) => (s.ctx.reg l f.c (2 * i + o)).val.toNat
  let entry : List Nat := [(s.ctx.b32 l f).val.toNat + l * 2 ^ 32 + s.cur.slot * 2 ^ 37 + s.cur.core * 2 ^ 43,
    (s.crew s.ctx.w.crew).number + s.ctx.w.wid * 2 ^ 24, cva, word 0 0 + 2 ^ 32 * word 1 0, word 0 1 + 2 ^ 32 * word 1 1,
    word 0 2 + 2 ^ 32 * word 1 2, word 0 3 + 2 ^ 32 * word 1 3]
  h ≠ 0 → h % 64 = 0 → h + 0x48 ≤ 2 ^ 57 → cva % 16 = 0 → e % 64 = 0 → e + 64 ≤ 2 ^ 57 →
  4 ≤ hdr % 2 ^ 5 → hdr % 2 ^ 5 ≤ 16 → tail < s.readNat (ph + 0x40) 8 + size →
  (∀ b, read b → regionOf b = .hbm ∧ SMap.find s.upsets (b / 32) = none) → s.poisonIn ph 0x48 = false → s.poisonIn pc 16 = false →
  (pc + 16 ≤ ph ∨ ph + 0x48 ≤ pc) → (pc + 16 ≤ pe ∨ pe + 64 ≤ pc) → (pe + 64 ≤ ph ∨ ph + 0x48 ≤ pe) →
  maps (h + 8) .read (ph + 8) → maps cva .write pc → maps cva .read pc → maps h .read ph → maps h .both ph →
  maps (h + 0x40) .read (ph + 0x40) → maps (h + 0x10) .read (ph + 0x10) →
  (∀ i < 8, maps (e + 8 * i) .write (pe + 8 * i)) → maps e .read pe →
  ∃ t, exec (.sysc f) s = .next t ∧ t.readNat pc 4 = 0 ∧ t.readNat ph 8 = (tail + 1) % 2 ^ 64 ∧ t.readNat pe 8 = tail ∧
    (∀ i < 7, t.readNat (pe + 8 + 8 * i) 8 = entry.getD i 0 % 2 ^ 64) ∧ (∀ b, ¬ touched b → t.byte b = s.byte b) ∧
    (∃ y, (t.thread s.ctx.k l).block = some (.sysc y) ∧ y.phase = .published) ∧ (t.thread s.ctx.k l).pc = s.cur.pc ∧
    ∀ j m, (t.thread j m).regs = (s.thread j m).regs ∧ (t.thread j m).preds = (s.thread j m).preds

namespace Sys2Proof.Says

/-- Wave `k` alone differs between two states, beside issue ports, operand latches and the model's own serial number. -/
def OnlyWave (s t : State) (k : Nat) : Prop := t.kept = s.kept ∧ ∀ j, j ≠ k → t.wave j = s.wave j

/-- An access of a space reaches this package's memory at once (see Reaches). -/
def ReachesIn (s : State) (pasid : BitVec 20) (va : Nat) (need : Need) (pa mt n : Nat) : Prop :=
  s.translate pasid va need = (s, .ok pa mt) ∧ mt ≤ 2 ∧ Local s pa n

/-- Results land: each destination holds its value, every other register and predicate is as before. -/
structure Landed (w v : Wave) (ws : List (Dst × Reg)) : Prop where
  rows : ∀ l row r, (Dst.v l row, r) ∈ ws → SMap.get (v.thread l).regs row .zero = r
  scalars : ∀ n r, (Dst.s n, r) ∈ ws → v.sreg n = r
  preds : ∀ l i r, (Dst.p l i, r) ∈ ws → i < 7 → (v.thread l).pred i = (r.val != 0)
  otherRows : ∀ l row, (∀ e ∈ ws, e.1 ≠ .v l row) → SMap.get (v.thread l).regs row .zero = SMap.get (w.thread l).regs row .zero
  otherScalars : ∀ n, (∀ e ∈ ws, e.1 ≠ .s n) → v.sreg n = w.sreg n
  otherPreds : ∀ l i, (∀ e ∈ ws, e.1 ≠ .p l i) → (v.thread l).pred i = (w.thread l).pred i
  threads : ∀ l, ({ v.thread l with regs := [], preds := 0, bad := [] } : Thread) = { w.thread l with regs := [], preds := 0, bad := [] }

/-- The registers `rs` of a lane arrive at entry `serial` of the scoreboard, which waits for one lane fewer (R207). -/
def Wave.arrives (w : Wave) (serial : Nat) (ws : List (Dst × Reg)) : Wave :=
  { w with pend := w.pend.map fun p =>
      if p.serial = serial then { p with writes := p.writes ++ ws, waiting := p.waiting - 1 } else p }

/-- A blocked lane goes on behind its instruction: not blocked, at the fall-through, and parked there if it is to meet there. -/
def WentOn (s t : State) (k l : Nat) : Prop :=
  let u := t.thread k l
  u.block = none ∧ u.kept = { (s.thread k l).kept with block := none } ∧
    (s.thread k l).wentTo u (s.fallThrough (keyCore k) (s.recOf k).pasid (s.thread k l).pc)

/-- The step ends the wait of one lane with results `ws` for its scoreboard entry, over the effect that makes `p` of `s`. -/
def EndsWait (i : Instr) (s p : State) (k l serial : Nat) (ws : List (Dst × Reg)) : Prop :=
  ∃ t, exec i s = .next t ∧ OnlyWave s t k ∧ (t.wave k).noThreads = (Wave.arrives (p.wave k) serial ws).noThreads ∧
    WentOn s t k l ∧ ∀ m, m ≠ l → t.thread k m = s.thread k m

/-- A thread that takes a trap, as it shows in the state after. -/
def Took (s t : State) (k l cause : Nat) (tval : DWord) (tpc res : SlotAddr) : Prop :=
  (t.thread k l).kept = ((s.thread k l).trapped (s.recOf k) cause tval tpc res).kept ∧
    (t.thread k l).pc = (s.recOf k).trapv ∧ (t.thread k l).checked = true ∧ (t.thread k l).parked = false

/-- A thread outside trap mode that can take a trap at once, in a launch with a handler. -/
def CanTrap (s : State) (k l : Nat) : Prop :=
  let u := s.thread k l
  u.exited = false ∧ u.trapMode = false ∧ u.parked = false ∧ u.block = none ∧ (s.wave k).inFlight l = [] ∧ (s.recOf k).trapv ≠ 0

end Sys2Proof.Says

/-- R353, R95, R354, R490, R216, R218, R188, R191, R192, R207. The steps of a core between issues: the fetch of a line that is
not cached, a failing line, entry of every lane of the wave whose waiting trap is due and the double fault, regrouping, and the arrival of a scoreboarded
result. The corners of a fetch and of a second delayed trap are read as logs 11 and 13 say, the ages of the regrouping as log
56 says. -/
def Obligations.CoreSteps : Prop := ∀ (s : State) (core : Fin 256) (slot : Fin 64) (lane : Fin 32),
  let k := waveKey core slot
  let r := s.recOf k
  let u := s.thread k lane
  let line := lineByte u.pc.toNat
  let here := (s.wave k).threads.filter fun e => e.2.eligible && lineByte e.2.pc.toNat == line
  (∀ glitch pa mt, s.cachedLine core r.pasid line = none → ReachesIn s r.pasid line .fetch pa mt 64 → s.poisonIn pa 64 = false →
    let L := lineOf (s.bytes pa 64)
    lineParityOk L = true → lineStructureOk L = true → (∀ e ∈ here, badTarget L (s.thread k e.1).pc.toNat (s.thread k e.1).checked = false) →
    ∃ t, exec (.instructionFetch core slot lane glitch) s = .next t ∧ OnlyWave s { t with cores := s.cores } k ∧
      (t.wave k).threads = (s.wave k).threads ∧ t.cachedLine core r.pasid line = some L ∧
      ∀ n p a, (n, p, a) ≠ (core.val, r.pasid, line) → t.cachedLine n p a = s.cachedLine n p a) ∧
  (∀ glitch pa mt, s.cachedLine core r.pasid line = none → ReachesIn s r.pasid line .fetch pa mt 64 →
    here.map (·.1) = [lane.val] → CanTrap s k lane →
    let L := lineOf (s.bytes pa 64)
    (s.poisonIn pa 64 = true ∨ lineParityOk L = false →
      ∃ t, exec (.instructionFetch core slot lane glitch) s = .next t ∧ OnlyWave s t k ∧
        Took s t k lane 5 (BitVec.ofNat 64 line) u.pc u.pc ∧ ∀ m, m ≠ lane.val → t.thread k m = s.thread k m) ∧
    (s.poisonIn pa 64 = false → lineParityOk L = true → lineStructureOk L = false →
      ∃ t, exec (.instructionFetch core slot lane glitch) s = .next t ∧ OnlyWave s t k ∧
        Took s t k lane 4 (BitVec.ofNat 64 line) u.pc u.pc ∧ ∀ m, m ≠ lane.val → t.thread k m = s.thread k m)) ∧
  (s.trapDue k lane = true → (∀ m < 32, s.trapDue k m = true → CanTrap s k m ∧ ∀ p, (s.thread k m).ptrap = some p → p.again = false) →
    ∃ t, exec (.trapEntry core slot lane) s = .next t ∧ OnlyWave s t k ∧
    (∀ m < 32, s.trapDue k m = true → ∀ p, (s.thread k m).ptrap = some p → let pc := (s.thread k m).pc
      Took s t k m p.cause.toNat p.tval (if p.later then pc else p.tpc) (if p.later then pc else p.res)) ∧
    ∀ m, ¬ (m < 32 ∧ s.trapDue k m = true) → t.thread k m = s.thread k m) ∧
  (∀ p, (∀ m < 32, m ≠ lane.val → s.trapDue k m = false) → u.ptrap = some p → u.exited = false → u.parked = false → u.block = none → (s.wave k).inFlight lane = [] →
    u.trapMode = true → (s.launchOf k).task = none → ∃ t, exec (.trapEntry core slot lane) s = .next t ∧
    (t.thread k lane).exited = true ∧ (t.thread k lane).killed = true ∧ OnlyWave s { t with inputs := s.inputs } k ∧
    t.inputs = if s.inputs.any (fun i => match i with | .launchFault n _ _ _ => n == (s.wave k).launch | _ => false) then s.inputs
      else .launchFault (s.wave k).launch 9 ((if p.later then u.pc else p.tpc).setWidth 64)
        (whoThread core slot (r.visible lane)) :: s.inputs) ∧
  (SMap.sorted (s.wave k).threads = true → ∃ t, exec (.regroup core slot) s = .next t ∧ OnlyWave s t k ∧
    (t.wave k).bundles.length ≤ 4 ∧ (t.wave k).regroupDue = false ∧ (t.wave k).regrouped = s.cycle ∧
    (∀ b ∈ (t.wave k).bundles, b.issued = false ∧ ∀ l < 32, b.lanes.getLsbD l = true → (t.thread k l).eligible = true ∧
      ∀ m < 32, b.lanes.getLsbD m = true → (t.thread k m).pc = (t.thread k l).pc ∧
        (t.thread k m).trapMode = (t.thread k l).trapMode) ∧
    ((t.wave k).bundles.length < 4 → ∀ e ∈ (t.wave k).threads, e.1 < 32 → e.2.eligible = true →
      ∃ b ∈ (t.wave k).bundles, b.lanes.getLsbD e.1 = true) ∧
    ∀ l, (t.thread k l).regs = (s.thread k l).regs ∧ (t.thread k l).preds = (s.thread k l).preds ∧
      (t.thread k l).pc = (s.thread k l).pc ∧ (t.thread k l).block = (s.thread k l).block ∧
      (t.thread k l).parked = ((s.thread k l).parked &&
        (s.wave k).threads.any fun e => !e.2.exited && !e.2.parked && e.2.mr == (s.thread k l).pc)) ∧
  (∀ before p after, (s.wave k).pend = before ++ p :: after → (∀ q ∈ before, q.waiting ≠ 0) → p.waiting = 0 →
    (p.writes.map (·.1)).Nodup → ∃ t, exec (.variableLatencyResult core slot) s = .next t ∧ OnlyWave s t k ∧
    (t.wave k).pend = before ++ after ∧ Landed (s.wave k) (t.wave k) p.writes ∧
    ∀ y, y ∈ (t.wave k).fly ↔ y ∈ (s.wave k).fly ∧ ∀ e ∈ p.writes, e.1 ≠ y.dst)

namespace Sys2Proof.Says

/-- The word of `n` bytes that a thread of wave `k` reads at `pa`: its crew's held bytes, else memory (R241). -/
def wordAt (s : State) (k pa n : Nat) : Nat :=
  leNat ((List.range n).map fun i => (SMap.find (s.crew (s.wave k).crew).held (pa + i)).getD (s.byte (pa + i)))

/-- Nothing of the thread's access `serial` is in the operand log or outside the package. -/
def Idle (s : State) (k l serial : Nat) : Prop :=
  (s.wave k).log.any (fun e => e.serial == serial && e.lanes.any fun x => x.lane == l) = false ∧
    s.outstanding.any (fun o => o.serial == serial && o.lane == l && o.waveKey == k) = false

/-- A wave in its slot, as its crew records it. -/
def PlacedAt (s : State) (k : Nat) : Prop :=
  let w := s.wave k
  let x := s.crew w.crew
  x.resident = true ∧ waveKey x.core (x.slots.getD w.wid 0) = k

end Sys2Proof.Says

/-- R119 to R121, R465, R443, R453, R456. Waiting threads that go on: WAIT after a wake, outside a full wake table, and at its
deadline; the re-read of the wake table, for the after-event words of launches too (R151); GWAIT and STF when F admits them; PUSH
when its queue has room. -/
def Obligations.WaitingThreads : Prop := ∀ (s : State) (core : Fin 256) (slot : Fin 64) (lane : Fin 32),
  let k := waveKey core slot
  let w := s.wave k
  (∀ va pa0 w64 v d sc serial spilled kick pa mt,
    (s.thread k lane).block = some (.wait va pa0 w64 v d sc serial spilled kick) → Idle s k lane serial →
    let n := if w64 then 8 else 4
    ReachesIn s (s.recOf k).pasid va.toNat .read pa mt n → s.poisonIn pa n = false → w.logLineOther serial va.toNat = false →
    let m := wordAt s k pa n
    let ws := (w.marksOf serial lane).zip (loaded n false m)
    let got := s.acquire k lane sc pa n
    (v.toNat ≤ m → EndsWait (.waiterReread core slot lane) s got k lane serial ws) ∧
    (v.toNat ≤ m → spilled = true → EndsWait (.wakeSpillReread core slot lane) s got k lane serial ws) ∧
    (∀ t, d = some t → t.toNat ≤ s.gtime.toNat →
      EndsWait (.waitDeadline core slot lane) s (if v.toNat ≤ m then got else s) k lane serial ws) ∧
    (m < v.toNat → d = none → ∃ t, exec (.waiterReread core slot lane) s = .next t ∧
      (∃ full, (t.thread k lane).block = some (.wait va pa w64 v d sc serial full false)) ∧
      (t.thread k lane).pc = (s.thread k lane).pc ∧ t.mem = s.mem ∧ ∀ l, l ≠ lane.val → t.thread k l = s.thread k l)) ∧
  (∃ t, exec .wakeTableReread s = .next t ∧ ({ t with inputs := s.inputs } : State).kept = s.kept ∧
    (∀ i, i ∈ t.inputs ↔ i ∈ s.inputs ∨ ∃ e ∈ s.launches, i = .afterEventSatisfied e.1 ∧ e.2.state = .waitEv ∧ e.2.ended = false) ∧
    (∀ j, (t.wave j).noThreads = (s.wave j).noThreads) ∧
    (∀ j l, t.thread j l = { s.thread j l with block := (t.thread j l).block }) ∧
    ∀ j l va pa w64 v d sc n c, (s.thread j l).block = some (.wait va pa w64 v d sc n false c) →
      (t.thread j l).block = some (.wait va pa w64 v d sc n false true)) ∧
  (∀ o serial, (s.thread k lane).block = some (.gate o serial) → SMap.sorted w.threads = true →
    (s.crew w.crew).resident = true → ((s.crew w.crew).page (o / 4096)).state = .pinned → s.spFull w.crew (o / 128) = true →
    ∃ t, exec (.fWaitSatisfied core slot lane) s = .next t ∧ OnlyWave s { t with crews := s.crews } k ∧
      (∀ j, t.spFull w.crew j = (s.spFull w.crew j && j != o / 128)) ∧ (∀ j, t.spByte w.crew j = s.spByte w.crew j) ∧
      (∀ d, d ≠ w.crew → t.crew d = s.crew d) ∧
      ∀ l, if (s.thread k l).block = some (.gate o serial) then WentOn s t k l else t.thread k l = s.thread k l) ∧
  (∀ o n d serial, (s.thread k lane).block = some (.fullEmpty true o n d serial) → n ≤ 16 → o % n = 0 → o % 128 + n ≤ 128 →
    w.lineLanes serial (o / 128) = [(lane.val, o, d.toNat)] → (s.recOf k).prot = false → (s.crew w.crew).resident = true →
    ((s.crew w.crew).page (o / 4096)).state = .pinned → s.spFull w.crew (o / 128) = false →
    ∃ t, exec (.fWaitSatisfied core slot lane) s = .next t ∧ WentOn s t k lane ∧
      (∀ i < n, t.spByte w.crew (o + i) = byteOf d.toNat i) ∧
      (∀ j, (j < o ∨ o + n ≤ j) → t.spByte w.crew j = s.spByte w.crew j) ∧
      (∀ j, t.spFull w.crew j = (s.spFull w.crew j || j == o / 128)) ∧
      OnlyWave s { t with crews := s.crews, releases := s.releases } k ∧ (∀ d, d ≠ w.crew → t.crew d = s.crew d) ∧
      ∀ l, l ≠ lane.val → t.thread k l = s.thread k l) ∧
  (∀ q cmd pf pe serial, (s.thread k lane).block = some (.push q cmd pf pe serial) → q < 256 → (s.queueAt q).length < 64 →
    (s.recOf k).prot = false → (s.launchAt (s.crew w.crew).launch).record.rbk = false → PlacedAt s k →
    let b := (s.thread k lane).batch
    let marks := (w.marksOf serial lane).filter fun d => match d with | .p _ _ => false | _ => true
    ∃ t, exec (.stalledPushAccept core slot lane) s = .next t ∧
      t.queueAt q = s.queueAt q ++ [⟨cmd, (s.recOf k).pasid, some ⟨w.crew, w.wid, lane⟩, b, false⟩] ∧
      (∀ j, j ≠ q → t.queueAt j = s.queueAt j) ∧ OnlyWave s { t with queues := s.queues } k ∧
      (t.wave k).noThreads = (Wave.arrives w serial (marks.map (fun d => (d, ⟨0, false⟩)) ++ putPred lane pf false ++
        if pe = pf then [] else putPred lane pe false)).noThreads ∧
      WentOn (s.modThread k lane fun x => { x with copies := x.copies ++ [b] }) t k lane ∧
      ∀ l, l ≠ lane.val → t.thread k l = s.thread k l)

/-- R215, R96, R104, R239, R243. The replay of a held load whose request was granted, or refused; and ROLLBACK to the
checkpoint, which the model calls for where poison or a mismatch of an RBK launch asks for it. A refused lane leaves the pending
state at once, with its values kept and X = 1, and traps before its next issue. The corners of a refused replay and
the corners of a rollback, are read as logs 21 and 29 say. -/
def Obligations.ReplayAndRollback : Prop :=
  (∀ (s : State) (core : Fin 256) (slot : Fin 64) (e : LogEntry) (x : LogLane) (rest : List LogEntry) (sx : Bool) (pa mt : Nat),
    let k := waveKey core slot
    (s.wave k).log = e :: rest → e.lanes = [x] → e.access.kind = .load sx → e.access.rel = false → e.access.size ∈ [1, 2, 4, 8, 16, 32] →
    let n := e.access.size
    (x.page.answer = some 0 → ReachesIn s (s.recOf k).pasid x.va.toNat .read pa mt n → x.va.toNat % n = 0 →
      s.poisonIn pa n = false →
      let p := if e.access.acq then s.acquire k x.lane e.access.scope pa n else s
      ∃ t, exec (.operandLogReplay core slot 0) s = .next t ∧ OnlyWave s t k ∧ (∀ l, t.thread k l = s.thread k l) ∧
        (t.wave k).noThreads = ({ Wave.arrives (p.wave k) e.serial
          (((s.wave k).marksOf e.serial x.lane).zip (loaded n sx (wordAt s k pa n))) with log := rest } : Wave).noThreads) ∧
    (x.page.answer = some 1 → let u := s.thread k x.lane
      let ds := (s.wave k).marksOf e.serial x.lane
      u.exited = false → u.trapMode = false → u.ptrap = none →
      ∃ t, exec (.operandLogReplay core slot 0) s = .next t ∧ OnlyWave s t k ∧
        (t.thread k x.lane).ptrap = some { later := true, cause := 0x0B, tval := x.va.setWidth 64, tpc := u.pc, res := u.pc } ∧
        Landed (s.wave k) ((t.wave k).setThread x.lane { t.thread k x.lane with ptrap := none }) (ds.map (s.wave k).withX) ∧
        (∀ l, l ≠ x.lane → t.thread k l = s.thread k l) ∧ (t.wave k).log = rest ∧
        (t.wave k).pend = (s.wave k).pend.map fun p => if p.serial = e.serial then
          { p with marks := p.marks.filter fun d => !ds.contains d, waiting := p.waiting - 1 } else p)) ∧
  ∀ (s : State) (c : Nat) (who : DWord), (s.crew c).rollbackDue = some who →
    let x := s.crew c
    (∀ p, x.ckpt = some p → x.eligible = true → x.rollbacks < 2 → x.slots.Nodup → (∀ i ∈ x.slots, i < 64) →
      ∃ t, exec (.rollback c) s = .next t ∧ t.mem = s.mem ∧
        t.crew c = { x with
          bytes := p.bytes, poisoned := p.poisoned, fbits := p.fbits, held := [], heldTags := [], rollbacks := x.rollbacks + 1
          rollbackDue := none
          pages := p.pages.map fun g => (g.1, if g.2.state == .zero then g.2 else
            { state := .pinned, writeback := false, frame := some x.core, dirty := List.range 32, marks := true })
          logged := [] } ∧
        (∀ d, d ≠ c → t.crew d = s.crew d) ∧
        t.hubField (0x30018 + 0x40 * x.core) 31 16 = min 65535 (s.hubField (0x30018 + 0x40 * x.core) 31 16 + 1) ∧
        (∀ i < x.slots.length, let w := t.wave (waveKey x.core (x.slots.getD i 0))
          let v := SMap.get p.waves i .blank
          w.sregs = v.sregs ∧ w.kregs = v.kregs ∧ w.pend = v.pend ∧ w.bundles = [] ∧ w.regroupDue = true ∧
          ∀ l, (w.thread l).regs = (v.thread l).regs ∧ (w.thread l).preds = (v.thread l).preds ∧ (w.thread l).pc = (v.thread l).pc) ∧
        ∀ j, (∀ i ∈ x.slots, j ≠ waveKey x.core i) → t.wave j = s.wave j) ∧
    (x.ckpt = none ∨ x.eligible = false ∨ 2 ≤ x.rollbacks → exec (.rollback c) s = .next
      { s.modCrew c (fun y => { y with rollbackDue := none }) with inputs := .launchFault x.launch 0x0D 0 who :: s.inputs })

namespace Sys2Proof.Says

/-- The hub registers beside those at `os` are as before. -/
def SameRegisters (s t : State) (os : List Nat) : Prop := ∀ o, o ∉ os → t.hubGet o = s.hubGet o

/-- A field of a hub register goes up by one, as a saturating count of `w` bits (R6). -/
def Counts (s t : State) (o lo w : Nat) : Prop :=
  t.hubField o (lo + w - 1) lo = min (2 ^ w - 1) (s.hubField o (lo + w - 1) lo + 1)

/-- The registers of a core at 0x30000 + 0x40·n (R230), and its QSTATE and CUR. -/
def marginAt (n : Nat) : Nat := 0x30000 + 0x40 * n
def qstateOf (s : State) (n : Nat) : Nat := s.hubField (marginAt n + 8) 9 8
def curOf (s : State) (n : Nat) : Nat := s.hubField (marginAt n + 8) 3 0

/-- A record of kind 0x42 about a core (R132, R231). -/
def coreRecordOf (n : Nat) (sub : Byte) : Record := ⟨0x42, sub, 0, false, 0, BitVec.ofNat 64 n, none⟩

/-- `t` is `s` but for hub registers, what the rules keep for cores, and failure records. -/
def CoresOnly (s t : State) : Prop := ({ t with hub := s.hub, cores := s.cores, failures := s.failures } : State) = s

/-- The other cores keep what the rules keep for them. -/
def OtherCores (s t : State) (n : Nat) : Prop := ∀ m, m ≠ n → t.coreAt m = s.coreAt m

end Sys2Proof.Says

/-- R222, R226 to R231. A timing detection counts, and at LIMIT raises the margin or quarantines the core; the end of a margin
window raises, quarantines, relaxes or does nothing; a relax reaches CUR when the supply has settled; a machine-mode write of
MARGIN_CTL lowers CUR to TARGET and starts the window again. Windows and settling go by %gtime, the model's reading (log 35);
a detection replays the matrix job alone (log 27). -/
def Obligations.MarginSteps : Prop := ∀ (s : State) (core : Fin 256),
  let n := core.val
  let m := marginAt n
  let x := s.coreAt n
  let limit := max 1 (s.hubField m 11 8)
  let high := s.hubField m 31 16 < s.hubField (m + 8) 31 16
  let counted := fun (t : State) (serial c : Nat) => Counts s t (m + 8) 16 16 ∧ Counts s t (m + 0x10) 0 32 ∧
    SMap.get (t.coreAt n).detections serial 0 = c ∧ OtherCores s t n ∧ CoresOnly s t ∧ SameRegisters s t [m + 8, m + 0x10]
  let ended := fun (t : State) => t.hubField (m + 8) 31 16 = 0 ∧ (t.coreAt n).raised = false ∧ OtherCores s t n ∧ CoresOnly s t ∧
    SameRegisters s t [m + 8, m + 0x10]
  (∀ serial, let c := SMap.get x.detections serial 0 + 1
    (c < limit → ∃ t, exec (.timingDetection core serial) s = .next t ∧ counted t serial c ∧ qstateOf t n = qstateOf s n ∧
      curOf t n = curOf s n ∧ t.hubField (m + 0x10) 63 32 = s.hubField (m + 0x10) 63 32 ∧ t.failures = s.failures) ∧
    (limit ≤ c → qstateOf s n ≠ 1 → curOf s n ≠ 0 → ∃ t, exec (.timingDetection core serial) s = .next t ∧ counted t serial 0 ∧
      curOf t n = curOf s n - 1 ∧ Counts s t (m + 0x10) 32 32 ∧ (t.coreAt n).raised = true ∧ qstateOf t n = qstateOf s n ∧
      t.failures = s.failures) ∧
    (limit ≤ c → qstateOf s n = 0 → curOf s n = 0 → ∃ t, exec (.timingDetection core serial) s = .next t ∧ counted t serial 0 ∧
      qstateOf t n = 1 ∧ curOf t n = 0 ∧ (t.coreAt n).cause = .automatic ∧ (t.coreAt n).quarantinedAt = x.quarantinedAt ++ [s.gtime] ∧
      t.failures = s.failures ++ [coreRecordOf n 2])) ∧
  (high → curOf s n ≠ 0 → ∃ t, exec (.marginWindowEnd core) s = .next t ∧ ended t ∧ curOf t n = curOf s n - 1 ∧
    Counts s t (m + 0x10) 32 32 ∧ qstateOf t n = qstateOf s n ∧ t.failures = s.failures) ∧
  (high → curOf s n = 0 → x.highAtZero = true → qstateOf s n = 0 → ∃ t, exec (.marginWindowEnd core) s = .next t ∧ ended t ∧
    qstateOf t n = 1 ∧ (t.coreAt n).cause = .automatic ∧ (t.coreAt n).quarantinedAt = x.quarantinedAt ++ [s.gtime] ∧
    t.failures = s.failures ++ [coreRecordOf n 1]) ∧
  (high → curOf s n = 0 → x.highAtZero = false → ∃ t, exec (.marginWindowEnd core) s = .next t ∧ ended t ∧
    (t.coreAt n).highAtZero = true ∧ qstateOf t n = qstateOf s n ∧ curOf t n = 0 ∧ t.failures = s.failures) ∧
  (¬ high → let run := if s.hubField (m + 8) 31 16 = 0 ∧ x.raised = false then x.quietRun + 1 else 0
    let relaxes := 2 ^ s.hubField m 35 32 ≤ run ∧ s.hubField m 36 36 = 0 ∧ curOf s n < s.hubField m 3 0 ∧ x.relaxTo = none
    ∃ t, exec (.marginWindowEnd core) s = .next t ∧ ended t ∧ curOf t n = curOf s n ∧ qstateOf t n = qstateOf s n ∧
      t.failures = s.failures ∧ (t.coreAt n).highAtZero = false ∧
      (relaxes → (t.coreAt n).relaxTo = some (BitVec.ofNat 4 (curOf s n + 1), s.gtime + 1000) ∧ (t.coreAt n).quietRun = 0) ∧
      (¬ relaxes → (t.coreAt n).relaxTo = x.relaxTo ∧ (t.coreAt n).quietRun = run)) ∧
  (∀ v, x.relaxTo = some v → ∃ t, exec (.marginSupplySettled core) s = .next t ∧ curOf t n = v.1.toNat ∧
    (t.coreAt n).relaxTo = none ∧ qstateOf t n = qstateOf s n ∧ OtherCores s t n ∧ CoresOnly s t ∧ t.failures = s.failures ∧
    SameRegisters s t [m + 8]) ∧
  (∀ d, exec (.marginCtlWrite false core d) s = .next s) ∧
  ∀ d : DWord, ∃ t, exec (.marginCtlWrite true core d) s = .next t ∧ t.hubField m 3 0 = field d.toNat 3 0 ∧
    t.hubField m 36 8 = field d.toNat 36 8 ∧ t.hubField m 7 4 = s.hubField m 7 4 ∧ t.hubField m 63 37 = s.hubField m 63 37 ∧
    curOf t n = min (curOf s n) (field d.toNat 3 0) ∧ qstateOf t n = qstateOf s n ∧ t.hubField (m + 8) 31 16 = 0 ∧
    (t.coreAt n).windowStart = s.gtime ∧ (t.coreAt n).raised = false ∧ OtherCores s t n ∧ CoresOnly s t ∧
    t.failures = s.failures ∧ SameRegisters s t [m, m + 8]

namespace Sys2Proof.Says

/-- The other three cores of the cluster of core `n`. -/
def siblings (n : Nat) : List Nat := (List.range 4).filterMap fun i => if n / 4 * 4 + i = n then none else some (n / 4 * 4 + i)

/-- RESULT of the service request, which has ended (R255). -/
def Ended (t : State) (result : Nat) : Prop := t.hubField 0xA008 3 1 = result ∧ t.service = none

/-- `t` is `s` but for hub registers and the named parts. -/
def ServiceOnly (s t : State) : Prop :=
  ({ t with hub := s.hub, cores := s.cores, failures := s.failures, slices := s.slices, harts := s.harts, service := s.service
            reseeds := s.reseeds, gens := s.gens } : State) = s

end Sys2Proof.Says

/-- R27, R36, R38, R231, R237, R238, R255. The last wave of a draining core starts its test; a test falls due and ends, by the cause
for which the core left service, by QCOUNT, and on the way back into service; service requests take units out and return them while
no other request runs, and end with the RESULT of R255. That a cluster taken out leaves CLUSTER_AVAIL at once is the model's reading
(log 46), as are the moments of a test (log 35) and that the slice of a cluster that is fenced off is not returned (log 66). -/
def Obligations.ServiceSteps : Prop := ∀ (s : State),
  (∀ core : Fin 256, let n := core.val
    let x := s.coreAt n
    let apart := ∀ m ∈ siblings n, qstateOf s m ≠ 2
    let empty := ∀ e ∈ s.waves, e.2.live = true → e.1 / 64 ≠ n
    let m := marginAt n
    let back := fun (t : State) => qstateOf t n = 0 ∧ curOf t n = 0 ∧ t.hubField m 3 0 = (Config.marginFuse n).toNat ∧
      (t.coreAt n).cause = .inService ∧ (t.coreAt n).wayBack = false ∧ (t.coreAt n).iftDue = false ∧
      (t.coreAt n).testedAt = s.gtime ∧ t.failures = s.failures ∧ OtherCores s t n ∧ ServiceOnly s t
    let left := fun (t : State) (subs : List Byte) => qstateOf t n = 3 ∧ t.failures = s.failures ++ subs.map (coreRecordOf n) ∧
      OtherCores s t n ∧ ServiceOnly s t
    let subs := fun (pass : Bool) => if pass then [] else [(3 : Byte)]
    let quarantined := s.hubRead (m + 0x18) % 2 ^ 8
    (qstateOf s n = 1 ∨ qstateOf s n = 0 ∧ x.iftDue = true → empty → apart → ∃ t, exec (.drainComplete core) s = .next t ∧
      qstateOf t n = 2 ∧ ({ t with hub := s.hub } : State) = s ∧ SameRegisters s t [marginAt n + 8]) ∧
    (qstateOf s n = 0 → s.hubField 0xA010 15 0 ≠ 0 → apart → (∀ m ∈ siblings n, (s.coreAt m).iftDue = false) →
      ∃ t, exec (.iftDue core) s = .next t ∧ t.coreAt n = { x with iftDue := true, testRetry := 0 } ∧ OtherCores s t n ∧
        ({ t with cores := s.cores } : State) = s) ∧
    (qstateOf s n = 2 → x.wayBack = false → x.cause = .inService → ∃ t, exec (.iftComplete core true) s = .next t ∧
      qstateOf t n = 0 ∧ curOf t n = 0 ∧ t.hubField (marginAt n) 3 0 = (Config.marginFuse n).toNat ∧
      (t.coreAt n).testedAt = s.gtime ∧ (t.coreAt n).iftDue = false ∧ t.failures = s.failures ∧ t.service = s.service ∧
      OtherCores s t n ∧ ServiceOnly s t ∧ SameRegisters s t [marginAt n, marginAt n + 8]) ∧
    (qstateOf s n = 2 → x.wayBack = false → x.cause = .inService → ∃ t, exec (.iftComplete core false) s = .next t ∧
      qstateOf t n = 3 ∧ t.failures = s.failures ++ [coreRecordOf n 3] ∧ t.service = s.service ∧ OtherCores s t n ∧
      ServiceOnly s t ∧ SameRegisters s t [marginAt n + 8]) ∧
    (qstateOf s n = 2 → x.wayBack = false → x.cause = .automatic →
      (quarantined < 3 → ∃ t, exec (.iftComplete core true) s = .next t ∧ back t ∧ t.service = s.service ∧
        SameRegisters s t [m, m + 8]) ∧
      (3 ≤ quarantined → ∃ t, exec (.iftComplete core true) s = .next t ∧ left t [4] ∧ t.service = s.service ∧
        SameRegisters s t [m + 8]) ∧
      ∃ t, exec (.iftComplete core false) s = .next t ∧ left t [3] ∧ t.service = s.service ∧ SameRegisters s t [m + 8]) ∧
    (qstateOf s n = 2 → x.wayBack = false → x.cause = .requested → ∀ pass, ∃ t, exec (.iftComplete core pass) s = .next t ∧
      left t (subs pass) ∧ Ended t 0 ∧ SameRegisters s t [m + 8, 0xA008]) ∧
    (qstateOf s n = 2 → x.wayBack = false → x.cause = .cluster → s.service = some (.clusterOut (n / 4)) → ∀ pass, ∃ t,
      exec (.iftComplete core pass) s = .next t ∧ left t (subs pass) ∧
      ((∀ i ∈ siblings n, qstateOf s i = 3) → Ended t 0 ∧ SameRegisters s t [m + 8, 0xA008]) ∧
      (¬ (∀ i ∈ siblings n, qstateOf s i = 3) → t.service = s.service ∧ SameRegisters s t [m + 8])) ∧
    (qstateOf s n = 2 → x.wayBack = true →
      (∃ t, exec (.iftComplete core true) s = .next t ∧ back t ∧ Ended t 0 ∧ SameRegisters s t [m, m + 8, 0xA008]) ∧
      ∃ t, exec (.iftComplete core false) s = .next t ∧ left t [3] ∧ (t.coreAt n).wayBack = false ∧ Ended t 2 ∧
        SameRegisters s t [m + 8, 0xA008]) ∧
    (qstateOf s n ≠ 2 → ∀ pass, exec (.iftComplete core pass) s = .next s) ∧
    (s.service = none → qstateOf s n = 0 → (s.hubGet 0x10).testBit (n / 4) = true →
      ∃ t, exec (.serviceCoreTakeOut core) s = .next t ∧ qstateOf t n = 1 ∧ curOf t n = 0 ∧ (t.coreAt n).cause = .requested ∧
        t.service = some (.coreOut n) ∧ t.failures = s.failures ++ [coreRecordOf n 5] ∧ OtherCores s t n ∧ ServiceOnly s t ∧
        SameRegisters s t [marginAt n + 8]) ∧
    (s.service = none → qstateOf s n ≠ 0 → ∃ t, exec (.serviceCoreTakeOut core) s = .next t ∧ Ended t 1 ∧
      ({ t with hub := s.hub } : State) = s ∧ SameRegisters s t [0xA008]) ∧
    (s.service = none ∨ s.service = some (.coreBack n) → qstateOf s n = 3 → apart → ∃ t,
      exec (.serviceCoreReturn core) s = .next t ∧ qstateOf t n = 2 ∧
      t.service = some (.coreBack n) ∧ t.coreAt n = { x with wayBack := true } ∧ OtherCores s t n ∧ ServiceOnly s t ∧
      SameRegisters s t [marginAt n + 8]) ∧
    (s.service = none → qstateOf s n = 3 → ¬ apart → exec (.serviceCoreReturn core) s =
      .next { s with service := some (.coreBack n) }) ∧
    (s.service = none → qstateOf s n ≠ 3 → ∃ t, exec (.serviceCoreReturn core) s = .next t ∧ Ended t 1 ∧
      ({ t with hub := s.hub } : State) = s ∧ SameRegisters s t [0xA008])) ∧
  (∀ u : Fin 64, let n := u.val
    let four := (List.range 4).map fun i => 4 * n + i
    (s.service = none → (s.hubGet 0x10).testBit n = true → s.vaultMapped n = false → (∀ m ∈ four, qstateOf s m = 0) →
      ∃ t, exec (.serviceClusterTakeOut u) s = .next t ∧ (∀ m ∈ four, qstateOf t m = 1 ∧ (t.coreAt m).cause = .cluster) ∧
        (t.hubGet 0x10).testBit n = false ∧ (∀ j, j ≠ n → (t.hubGet 0x10).testBit j = (s.hubGet 0x10).testBit j) ∧
        (t.sliceAt n).inService = false ∧ t.service = some (.clusterOut n) ∧ ServiceOnly s t) ∧
    (s.service = none → (s.hubGet 0x10).testBit n = false ∨ s.vaultMapped n = true →
      ∃ t, exec (.serviceClusterTakeOut u) s = .next t ∧ Ended t 1 ∧ ({ t with hub := s.hub } : State) = s ∧
        SameRegisters s t [0xA008]) ∧
    (s.service = none → (s.hubGet 0x10).testBit n = false → exec (.serviceClusterReturn u) s =
      .next { s with service := some (.clusterBack n) }) ∧
    (s.service = some (.clusterBack n) → (∀ m ∈ four, (s.coreAt m).cause = .cluster) → (s.sliceAt n).retired = false →
      ∃ t, exec (.clusterReturnTestDone u true) s = .next t ∧ (∀ m ∈ four, qstateOf t m = 0) ∧
        (t.hubGet 0x10).testBit n = true ∧ (∀ j, j ≠ n → (t.hubGet 0x10).testBit j = (s.hubGet 0x10).testBit j) ∧
        (t.sliceAt n).inService = true ∧ Ended t 0 ∧ t.failures = s.failures ∧
        (∀ j, t.fenced.getLsbD j = (s.fenced.getLsbD j && j != n)) ∧ ServiceOnly s { t with fenced := s.fenced }) ∧
    (s.service = some (.clusterBack n) → ∃ t, exec (.clusterReturnTestDone u false) s = .next t ∧ Ended t 2 ∧
      t.failures = s.failures ++ [⟨0x43, BitVec.ofNat 8 n, 0, false, 0, 0, none⟩] ∧
      (∀ j, t.fenced.getLsbD j = (s.fenced.getLsbD j || j == n)) ∧
      ({ t with hub := s.hub, failures := s.failures, service := s.service, fenced := s.fenced } : State) = s ∧
      SameRegisters s t [0xA008]) ∧
    (s.service = none → (s.sliceAt n).inService = true → ∃ t, exec (.serviceL2SliceTakeOut u) s = .next t ∧ Ended t 0 ∧
      t.sliceAt n = { s.sliceAt n with inService := false } ∧ ServiceOnly s t ∧ SameRegisters s t [0xA008]) ∧
    (s.service = none → (s.sliceAt n).inService = false → s.fenced.getLsbD n = false → ∃ t,
      exec (.serviceL2SliceReturn u) s = .next t ∧ Ended t 0 ∧
      t.sliceAt n = { s.sliceAt n with inService := true, retired := false } ∧ ServiceOnly s t ∧ SameRegisters s t [0xA008]) ∧
    (s.service = none → (s.sliceAt n).inService = true ∨ s.fenced.getLsbD n = true → ∃ t,
      exec (.serviceL2SliceReturn u) s = .next t ∧ Ended t 1 ∧ ({ t with hub := s.hub } : State) = s ∧
      SameRegisters s t [0xA008])) ∧
  ∀ h : Fin 16,
    (s.service = none → (s.hartAt h).inService = true → (∃ g < 16, g ≠ h.val ∧ (s.hartAt g).inService = true) →
      ∃ t, exec (.serviceLoamHartTakeOut h) s = .next t ∧ Ended t 0 ∧
        t.hartAt h = { s.hartAt h with inService := false, reserved := none } ∧ (∀ g, g ≠ h.val → t.hartAt g = s.hartAt g) ∧
        ServiceOnly s t ∧ SameRegisters s t [0xA008]) ∧
    (s.service = none → (∀ g < 16, g ≠ h.val → (s.hartAt g).inService = false) →
      ∃ t, exec (.serviceLoamHartTakeOut h) s = .next t ∧ Ended t 1 ∧ ({ t with hub := s.hub } : State) = s ∧
        SameRegisters s t [0xA008]) ∧
    (s.service = none → (s.hartAt h).inService = false → ∃ t, exec (.serviceLoamHartReturn h) s = .next t ∧ Ended t 0 ∧
      t.hartAt h = { s.hartAt h with inService := true } ∧ (∀ g, g ≠ h.val → t.hartAt g = s.hartAt g) ∧ ServiceOnly s t ∧
      SameRegisters s t [0xA008])

namespace Sys2Proof.Says

/-- The junction temperatures of a sample (R11, R18). -/
def temps (m : MonitorReadings) : List Nat := m.hubTemp :: (m.clusterTemp ++ m.hbmTemp)

end Sys2Proof.Says

/-- R11, R13 to R15, R17 to R20, R31, R245 to R247, R250 to R253. Power and heat: a sample of the monitors with the heat-flux limit
and the trip at 110 °C, the 10 µs and 100 µs steps of the duties, writes of PWR_CTL by the limits of each field, a supply out of
range; errors that the patrol scrubber finds; the profile and the disabled ways of an L2 slice. Samples and errors come as inputs
(log 30), a field out of range leaves that field alone (log 50), PEAKW is judged by the SUSTW that the write leaves, readings
past their field show as the largest value, and the 14 ways of DECTED and BOTH are the first (log 66); how far the heat-flux
limit lowers a duty is free (log 67). -/
def Obligations.PowerAndErrors : Prop := ∀ (s : State),
  let r := s.power.readings
  let inForce := s.power.control
  let limit := field inForce 6 0
  let rates := fun (t : State) (g : Nat → Nat) => ∀ i, SMap.get t.power.hbmRate i 8 =
    if i < 8 then g (SMap.get s.power.hbmRate i 8) else SMap.get s.power.hbmRate i 8
  let since := fun (o : Option DWord) => ∃ since, o = some since ∧ since.toNat + 100000 ≤ s.gtime.toNat
  let pthr := fun (t : State) => t.hubField 0x108 12 12 = if t.power.powerDuty < 8 ∨ t.power.hbmRate ≠ [] then 1 else 0
  let down := fun (n : Nat) => max 1 (n - 1)
  let up := fun (n : Nat) => min 8 (n + 1)
  (∀ m : MonitorReadings, (∀ x ∈ temps m, x < 110) → ∃ t, exec (.monitorSample m) s = .next t ∧
    t = { s with hub := t.hub, fresh := s.fresh + m.clusterFlux.length, power := { s.power with
      readings := m, fluxDuty := t.power.fluxDuty
      calm := if m.power50us * 100 < field inForce 31 20 * 95 ∧ m.power100ms * 100 < field inForce 19 8 * 95 then
        some (s.power.calm.getD s.gtime) else none
      hbmCalm := if m.hbmPower * 100 < 85500 then some (s.power.hbmCalm.getD s.gtime) else none } } ∧ SameRegisters s t [0x108] ∧
    (∀ c, let duty := SMap.get t.power.fluxDuty c 8
      if ∃ w, m.clusterFlux[c]? = some w ∧ 250 < w then 1 ≤ duty ∧ duty < 8 else duty = 8) ∧
    t.hubField 0x108 11 0 = min 4095 m.power50us ∧
    (t.hubField 0x108 22 16 ∈ temps m ∧ ∀ x ∈ temps m, x ≤ t.hubField 0x108 22 16) ∧
    t.hubField 0x108 14 14 = (if ∃ c ∈ m.clusterTemp, limit + 10 ≤ c then 1 else s.hubField 0x108 14 14)) ∧
  (∀ m : MonitorReadings, (∃ x ∈ temps m, 110 ≤ x) → s.hubField 0 15 8 = 0 → ∃ t, exec (.monitorSample m) s = .next t ∧
    t.hubField 0 15 8 = 0x0A ∧ t.hubField 0 3 0 = 15 ∧ t.boot.safe = true ∧ t.waves = [] ∧ t.launches = [] ∧ t.queues = []) ∧
  (∃ t, exec .supplyOutOfRange s = .next t ∧ t.hubField 0 3 0 = 15 ∧ t.boot.safe = true ∧ t.waves = [] ∧ t.launches = [] ∧
    (s.hubField 0 15 8 = 0 → t.hubField 0 15 8 = 0x0B) ∧ (s.hubField 0 15 8 ≠ 0 → t.hubField 0 15 8 = s.hubField 0 15 8)) ∧
  (s.gtime.toNat / 10000 = s.power.stepped → exec (.powerDutyStep false) s = .next s) ∧
  (s.gtime.toNat / 10000 ≠ s.power.stepped → ∃ t, exec (.powerDutyStep false) s = .next t ∧ SameRegisters s t [0x108] ∧ pthr t ∧
    rates t (fun n => if 900 < r.hbmPower then down n else n) ∧
    t = { s with hub := t.hub, power := { s.power with
      control := s.hubGet 0x100, stepped := s.gtime.toNat / 10000, hbmRate := t.power.hbmRate
      powerDuty := if s.hubField 0x100 31 20 < r.power50us ∨ s.hubField 0x100 19 8 < r.power100ms then down s.power.powerDuty
        else s.power.powerDuty } }) ∧
  (∃ t, exec (.powerDutyStep true) s = .next t ∧ SameRegisters s t [0x108] ∧ pthr t ∧
    (since s.power.hbmCalm → rates t up) ∧ (¬ since s.power.hbmCalm → rates t id) ∧
    (since s.power.calm → t.power.powerDuty = up s.power.powerDuty) ∧
    (¬ since s.power.calm → t.power.powerDuty = s.power.powerDuty) ∧
    t = { s with hub := t.hub, power := { s.power with
      powerDuty := t.power.powerDuty, calm := t.power.calm, hbmRate := t.power.hbmRate, hbmCalm := t.power.hbmCalm } }) ∧
  (∀ (cluster : Fin 64) raise, let temp := r.clusterTemp.getD cluster 0
    let old := SMap.get s.power.thermalDuty cluster 8
    let last := SMap.get s.power.thermalSteps cluster (0, 0)
    let now := if raise then (last.1, s.gtime.toNat / 100000) else (s.gtime.toNat / 10000, last.2)
    (now = last → exec (.thermalDutyStep cluster raise) s = .next s) ∧
    (now ≠ last → ∃ t, exec (.thermalDutyStep cluster raise) s = .next t ∧
      t = { s with hub := t.hub, power := { s.power with
        thermalDuty := t.power.thermalDuty, thermalSteps := t.power.thermalSteps } } ∧ SameRegisters s t [0x108] ∧
      SMap.get t.power.thermalSteps cluster (0, 0) = now ∧
      t.hubField 0x108 13 13 = (if t.power.thermalDuty = [] then 0 else 1) ∧
      SMap.get t.power.thermalDuty cluster 8 =
        (if raise then (if temp + 3 ≤ limit then up old else old) else if limit ≤ temp then down old else old) ∧
      ∀ c, c ≠ cluster.val → SMap.get t.power.thermalDuty c 8 = SMap.get s.power.thermalDuty c 8)) ∧
  (∀ d, exec (.pwrCtlWrite false d) s = .next s) ∧
  (∀ d : BitVec 32, let safe := field d.toNat 6 0
    let sust := field d.toNat 19 8
    let peak := field d.toNat 31 20
    ∃ t, exec (.pwrCtlWrite true d) s = .next t ∧ t = { s with hub := t.hub } ∧ SameRegisters s t [0x100] ∧
      t.hubField 0x100 6 0 = (if 70 ≤ safe ∧ safe ≤ 100 then safe else s.hubField 0x100 6 0) ∧
      t.hubField 0x100 19 8 = (if 800 ≤ sust ∧ sust ≤ 3200 then sust else s.hubField 0x100 19 8) ∧
      t.hubField 0x100 31 20 =
        if t.hubField 0x100 19 8 ≤ peak ∧ peak ≤ 3600 then peak else s.hubField 0x100 31 20) ∧
  (∀ (stack : Fin 8) (sector : BitVec 47) found way, let o := 0xC000 + 0x40 * (sector.toNat / 2 ^ 31)
    SMap.find s.upsets sector.toNat = some { error := .single, way := none } → sector.toNat < 2 ^ 34 → ∃ t,
      exec (.patrolScrub stack sector found way) s = .next t ∧ t = { s with hub := t.hub, upsets := s.upsets.erase sector.toNat } ∧
      Counts s t o 0 32 ∧ SameRegisters s t [o]) ∧
  (∀ (stack : Fin 8) (sector : BitVec 47), SMap.find s.upsets sector.toNat = none → let o := 0xC000 + 0x40 * stack.val
    (∀ way, exec (.patrolScrub stack sector .good way) s = .next s) ∧
    (∃ t, exec (.patrolScrub stack sector .corrected none) s = .next t ∧ t = { s with hub := t.hub } ∧ Counts s t o 0 32 ∧
      t.hubField o 63 32 = s.hubField o 63 32 ∧ SameRegisters s t [o]) ∧
    (∀ found, found = .address ∨ found = .uncorrectable → ∃ t, exec (.patrolScrub stack sector found none) s = .next t ∧
      t = { s with hub := t.hub, poisoned := t.poisoned } ∧ Counts s t o 32 32 ∧ t.hubGet (o + 8) = 32 * sector.toNat ∧
      (∀ j, t.isPoisoned j = (s.isPoisoned j || j == sector.toNat)) ∧ SameRegisters s t [o, o + 8]) ∧
    (∀ w : L2Way, let y := s.sliceAt w.slice
      (y.prof = 1 ∨ y.prof = 3) → ∃ t, exec (.patrolScrub stack sector .uncorrectable (some w)) s = .next t ∧
      t = { s with hub := t.hub, poisoned := t.poisoned, slices := t.slices } ∧
      Counts s t (0xB018 + 0x20 * w.slice.val) 32 32 ∧ t.isPoisoned sector.toNat = true ∧
      (SMap.get (t.sliceAt w.slice).ways w.set 0).getLsbD w.way = true ∧
      ((t.sliceAt w.slice).retired = true ↔ y.retired = true ∨
        ((List.range (if y.prof = 3 then 14 else 16)).filter fun i =>
          !(SMap.get (t.sliceAt w.slice).ways w.set 0).getLsbD i).length < 2))) ∧
  ∀ (slice : Fin 64), let o := 0xB000 + 0x20 * slice.val
    (∀ d, exec (.l2ProfileWrite false slice d) s = .next s ∧ exec (.l2WmaskWrite false slice d) s = .next s) ∧
    (∀ d : DWord, ∃ t, exec (.l2ProfileWrite true slice d) s = .next t ∧ t = { s with hub := t.hub, slices := t.slices } ∧
      t.hubField o 1 0 = d.toNat % 4 ∧ SameRegisters s t [o] ∧
      t.sliceAt slice = { s.sliceAt slice with flushing := some (d.setWidth 2) }) ∧
    (∀ p, (s.sliceAt slice).flushing = some p → ∃ t, exec (.sliceFlushComplete slice) s = .next t ∧
      t = { s with slices := t.slices } ∧ t.sliceAt slice = { s.sliceAt slice with prof := p, flushing := none }) ∧
    ∀ d : DWord, let set := s.hubField (o + 8) 11 0
      let p := (s.sliceAt slice).prof
      let lines := ((List.range (if p = 2 ∨ p = 3 then 14 else 16)).filter fun i => !d.getLsbD i).length
      ∃ t, exec (.l2WmaskWrite true slice d) s = .next t ∧ t = { s with slices := t.slices } ∧
        SMap.get (t.sliceAt slice).ways set 0 = d.setWidth 16 ∧
        (∀ j, j ≠ set → SMap.get (t.sliceAt slice).ways j 0 = SMap.get (s.sliceAt slice).ways j 0) ∧
        (t.sliceAt slice).prof = (s.sliceAt slice).prof ∧
        (t.sliceAt slice).inService = ((s.sliceAt slice).inService && decide (2 ≤ lines))

namespace Sys2Proof.Says

/-- The safe talkative state with the failure code that a first failure `code` leaves (R29, R33): nothing of cores and ports is
left, the reasons of BOOT_STATUS are kept from the first failure. -/
def Safe (s t : State) (code : Nat) : Prop :=
  t.boot.safe = true ∧ t.hubField 0 3 0 = 15 ∧
    t.hubField 0 15 8 = (if s.hubField 0 15 8 = 0 then code else s.hubField 0 15 8) ∧
    t.hubGet 0x10 = s.hubGet 0x10 ∧ t.hubField 0x108 11 0 = s.hubField 0x108 11 0 ∧ t.hubField 0x108 13 12 = 0 ∧
    t.hubField 0x108 63 14 = s.hubField 0x108 63 14 ∧ t.waves = [] ∧ t.crews = [] ∧ t.launches = [] ∧ t.queues = [] ∧ t.engines = [] ∧ t.ports = [] ∧ t.out = s.out

/-- The step of bring-up fails with `code`. -/
def Fails (i : Instr) (s : State) (code : Nat) : Prop := ∃ t, exec i s = .next t ∧ Safe s t code

/-- The number in `n` bytes of the boot image at offset `o` (R22). -/
def imageAt (s : State) (o n : Nat) : Nat := s.readNat ((s.boot.hdm.getD 0).toNat + o) n

/-- The number in `n` bytes at offset `o` of the header that phase 3 read. -/
def headerAt (s : State) (o n : Nat) : Nat := leNat ((s.boot.header.drop o).take n)

/-- The header is well formed (R22): magic, version 1, reserved flags 0, a length of whole blocks, an entry inside the image and
outside the continuation table. -/
def HeaderGood (s : State) : Prop :=
  let len := imageAt s 0x10 8
  let entry := imageAt s 0x18 8
  imageAt s 0 8 = Config.bootMagic.toNat ∧ imageAt s 8 4 = 1 ∧ imageAt s 0xC 4 ≤ 1 ∧ 65536 ∣ len ∧ 0 < len ∧ len ≤ 2 ^ 28 ∧
    0x1000 ≤ entry ∧ entry < len ∧ ¬ (0x10000 ≤ entry ∧ entry < 0x10000 * (1 + ((len / 65536 - 61) * 64 + 65535) / 65536))

/-- The key, the signature and the version of the header pass (R22, R23). -/
def keyGood (s : State) : Prop := Config.sha512 (s.bytes ((s.boot.hdm.getD 0).toNat + 0x20) 32) = Config.fusedKeyHash
def SignatureGood (s : State) : Prop :=
  let b := (s.boot.hdm.getD 0).toNat
  Config.ed25519Valid (BitVec.ofNat 256 (imageAt s 0x20 32)) (BitVec.ofNat 512 (imageAt s 0x40 64))
      (Config.sha512 (s.bytes b 0x40 ++ s.bytes (b + 0x80) 0xF80)) = true ∧
    Config.fusedMinVersion.toNat ≤ imageAt s 0x80 64

end Sys2Proof.Says

/-- R17, R21 to R31, R33, R34. Bring-up: package reset, the tests of phases 1 to 3 and the failure code of each, the header checks in
their order, firmware entry, the verified fetch of a block, XIP_OFF, the safe talkative state, and the management replies. That
memory below the CXL windows reads 0 after a package reset is the model's choice (log 1), that a length of 0 and an entry past the
length are malformed, and that the endpoint ID stays (log 66); the pins at a reset by the effecter are free, the sensor numbers the
model's (log 31). The boot port is root port 4 × BOOT_PORT, and the header that phase 3 takes serves the later checks (log 32,
DEDUCED); the range of the boot port stands in its HDM decoder 0 (log 68, PRESUMED); what the Safe state leaves is read as log 33
says (DEDUCED). -/
def Obligations.BootAndManagement : Prop := ∀ (s : State),
  let phase := s.hubField 0 3 0
  (∀ pins, ∃ t, exec (.packageReset pins) s = .next t ∧ t.hub = [] ∧ t.hubField 0 3 0 = 1 ∧ t.hubField 0 17 17 = 1 ∧
    t.waves = [] ∧ t.crews = [] ∧ t.launches = [] ∧ t.queues = [] ∧ t.ports = [] ∧ t.boot.pins = pins ∧ t.boot.safe = false ∧
    t.boot.eid = s.boot.eid ∧ (∀ a < 0x100000000000, t.byte a = 0) ∧ (∀ a, 0x100000000000 ≤ a → t.byte a = s.byte a) ∧
    t.out = s.out) ∧
  (∃ pins, exec .pldmResetEffecter s = exec (.packageReset pins) { s with fresh := s.fresh + 1 }) ∧
  (phase = 1 → ∃ t, exec (.hubSelfTest true) s = .next t ∧ t = { s with hub := t.hub } ∧ t.hubField 0 3 0 = 2 ∧
    t.hubField 0 63 4 = s.hubField 0 63 4 ∧ SameRegisters s t [0]) ∧
  (phase = 1 → Fails (.hubSelfTest false) s 7) ∧
  (∀ base b, phase = 2 → Fails (.bootPortTrain false base) s 1 ∧ Fails (.bootPortTrain true none) s 2 ∧
    ∃ t, exec (.bootPortTrain true (some b)) s = .next t ∧ t.hubField 0 3 0 = 3 ∧ t.hubField 0x5400 51 12 = b.1.toNat / 4096 ∧
      SameRegisters s t [0, 0x5400] ∧ t.boot = { s.boot with hdm := some b.1 } ∧
      (let p := 4 * (if Config.bootFusePortLock then Config.bootFusePort else s.boot.pins).toNat
       t.portAt p = { s.portAt p with up := true, cxl := true } ∧ (∀ q, q ≠ p → t.portAt q = s.portAt q) ∧
       t.decoder p 0 = { on := true, base := b.1.toNat, size := b.2.toNat, ways := 1, grain := 256, pos := 0 }) ∧
      t = { s with hub := t.hub, boot := t.boot, ports := t.ports, cfg := t.cfg }) ∧
  (phase = 3 → (¬ HeaderGood s → Fails .headerChecks s 3) ∧
    (HeaderGood s → ¬ keyGood s → Fails .headerChecks s 4) ∧
    (HeaderGood s → keyGood s → ¬ SignatureGood s → Fails .headerChecks s 5) ∧
    (HeaderGood s → keyGood s → SignatureGood s → s.boot.clustersOk ≠ some false →
      (s.boot.hdm.getD 0).toNat + imageAt s 0x10 8 ≤ 2 ^ 52 → ∃ t, exec .headerChecks s = .next t ∧
      t.boot = { s.boot with
        headerOk := some true, header := s.bytes (s.boot.hdm.getD 0).toNat 4096
        measured := Config.sha512 (s.bytes (s.boot.hdm.getD 0).toNat 4096) } ∧
      t.hubField 0x5408 51 12 = ((s.boot.hdm.getD 0).toNat + imageAt s 0x10 8 - 1) / 4096 ∧ SameRegisters s t [0x5408] ∧
      t = { s with hub := t.hub, boot := t.boot })) ∧
  (phase = 3 → (∀ pass, Fails (.computeDieSelfTest pass false) s 7) ∧
    (∀ pass, s.boot.headerOk ≠ some true ∨ pass = BitVec.allOnes 64 → ∃ t, exec (.computeDieSelfTest pass true) s = .next t ∧
      t.hubGet 0x10 = pass.toNat ∧ SameRegisters s t [0x10] ∧ t.boot.clustersOk = some (pass == BitVec.allOnes 64) ∧
      (∀ c, t.sliceAt c = if c < 64 ∧ pass.getLsbD c = false then { s.sliceAt c with inService := false } else s.sliceAt c) ∧
      t = { s with
        hub := t.hub, boot := { s.boot with clustersOk := t.boot.clustersOk }, fenced := ~~~pass, slices := t.slices }) ∧
    (∀ pass, s.boot.headerOk = some true → pass ≠ BitVec.allOnes 64 →
      (headerAt s 0xC 4 % 2 = 1 → ∃ t, exec (.computeDieSelfTest pass true) s = .next t ∧ t.hubField 0 16 16 = 1 ∧
        t.hubGet 0x10 = pass.toNat ∧ SameRegisters s t [0, 0x10]) ∧
      (headerAt s 0xC 4 % 2 = 0 → ∃ t, exec (.computeDieSelfTest pass true) s = .next t ∧ t.boot.safe = true ∧
        t.hubGet 0x10 = pass.toNat ∧ (s.hubField 0 15 8 = 0 → t.hubField 0 15 8 = 8))) ∧
    exec (.hbmTraining 0xFF) s = .next { s with boot := { s.boot with hbmOk := some true } } ∧
    (∀ pass, pass ≠ 0xFF → Fails (.hbmTraining pass) s 9) ∧
    (s.boot.headerOk = some true → s.boot.clustersOk ≠ none → s.boot.hbmOk = some true → ∃ t, exec .firmwareEntry s = .next t ∧
      t.hubField 0 3 0 = 4 ∧ t = { s with hub := t.hub, harts := t.harts } ∧ SameRegisters s t [0] ∧
      t.hartAt 0 = { s.hartAt 0 with entry := some (BitVec.ofNat 64 ((s.boot.hdm.getD 0).toNat + headerAt s 0x18 8)) } ∧
      ∀ h, h ≠ 0 → t.hartAt h = s.hartAt h)) ∧
  (∀ block : BitVec 12, let n := block.toNat
    let blocks := headerAt s 0x10 8 / 65536
    let bytes := s.bytes ((s.boot.hdm.getD 0).toNat + 65536 * n) 65536
    let digest := Config.sha512 (if n = 0 then bytes.drop 0x1000 else bytes)
    let held := ∃ e ∈ s.boot.verified, e.1 = n
    (phase = 4 ∨ phase = 5) → s.hubField 0 17 17 = 1 → n < blocks → n < 61 → blocks ≤ 61 → s.boot.safe = false →
    (held → exec (.bootBlockVerify block) s = .next s) ∧
    (¬ held → BitVec.ofNat 512 (headerAt s (0xC0 + 64 * n) 64) = digest → ∃ t, exec (.bootBlockVerify block) s = .next t ∧
      (n, bytes) ∈ t.boot.verified ∧ t.boot.verified.length ≤ 64 ∧ (∀ e ∈ t.boot.verified, e ∈ s.boot.verified ∨ e = (n, bytes)) ∧
      t = { s with boot := { s.boot with verified := t.boot.verified } }) ∧
    (¬ held → BitVec.ofNat 512 (headerAt s (0xC0 + 64 * n) 64) ≠ digest → Fails (.bootBlockVerify block) s 6)) ∧
  (∀ d : BitVec 32, d.getLsbD 0 = true → ∃ t, exec (.xipOff true d) s = .next t ∧ t.hubField 0 17 17 = 0 ∧
    SameRegisters s t [0] ∧ t = { s with hub := t.hub, boot := { s.boot with verified := [] } }) ∧
  (∀ m d, m = false ∨ d.getLsbD 0 = false → exec (.xipOff m d) s = .next s) ∧
  (∀ code : Byte, 1 ≤ code.toNat ∧ code.toNat ≤ 0x0B → Fails (.safeTalkativeEntry code) s code.toNat) ∧
  (∀ code : Byte, ¬ (1 ≤ code.toNat ∧ code.toNat ≤ 0x0B) → exec (.safeTalkativeEntry code) s = .next s) ∧
  (∀ eid, exec (.mctpEndpointIdAssign eid) s = .next { s with boot := { s.boot with eid := eid } }) ∧
  (∀ n r, (n, r) ∈ [(1, 0), (2, 0x10), (3, 0x108)] → exec (.pldmSensorRead n) s =
    .next { s with out := s.out ++ [.management n (BitVec.ofNat 512 (s.hubGet r))] }) ∧
  (∀ n v, (∃ i < 64, n = i + 4 ∧ s.power.readings.clusterTemp[i]? = some v) ∨ (∃ i < 8, n = i + 68 ∧ s.power.readings.hbmTemp[i]? = some v) ∨
      (n = 76 ∧ v = s.power.readings.hubTemp) ∨ (∃ i, n = i + 77 ∧ s.power.readings.supplies[i]? = some v) →
    exec (.pldmSensorRead n) s = .next { s with out := s.out ++ [.management n (BitVec.ofNat 512 v)] }) ∧
  (∀ i n, (i, n) ∈ [(Instr.getVersion, 0), (.getCapabilities, 1), (.negotiateAlgorithms, 2), (.getDigests, 3), (.getCertificate, 4)] →
    exec i s = .next { s with out := s.out ++ [.management (256 + n) (Config.spdmReply n 0)] }) ∧
  (∀ nonce, exec (.challenge nonce) s = .next { s with out := s.out ++ [.management 261 (Config.spdmReply 5 nonce)] }) ∧
  ∀ index : Byte, ∃ v, exec (.getMeasurements index) s = .next { s with out := s.out ++ [.management 262 v] } ∧
    (index = 1 → v = s.boot.measured) ∧ (index = 2 → v = Config.fuseState) ∧
    (index = 3 → v = BitVec.ofNat 512 (s.hubGet 0))

namespace Sys2Proof.Says

/-- Byte `i` of a record of 32 bytes (R132). -/
def recordByte (r : Record) (gtime : DWord) (i : Nat) : Byte :=
  let words := [r.kind.toNat + r.sub.toNat * 2 ^ 8 + r.pasid.toNat * 2 ^ 16 + r.pv.toNat * 2 ^ 36, r.addr.toNat, r.who.toNat,
    gtime.toNat]
  byteOf (words.getD (i / 8) 0) (i % 8)

/-- A queue of the hub with its registers at `q` takes a record (R130): LOGE is legal, EN is set, and it is not full. -/
def HasRoom (s : State) (q : Nat) : Prop :=
  let loge := s.hubField q 4 0
  6 ≤ loge ∧ loge ≤ 16 ∧ s.hubField q 5 5 = 1 ∧
    (s.hubField (q + 8) 31 0 + 2 ^ 32 - s.hubField (q + 16) 31 0) % 2 ^ 32 ≠ 2 ^ loge

/-- The entry of 32 bytes at the tail of a queue is written and TAIL advances (R103, R130). -/
def Appended (s t : State) (q : Nat) (bytes : Nat → Byte) : Prop :=
  let tail := s.hubField (q + 8) 31 0
  let a := s.hubField q 51 12 * 4096 + tail % 2 ^ s.hubField q 4 0 * 32
  (∀ i < 32, t.byte (a + i) = bytes i) ∧ sameOutside s t a 32 ∧ t.hubField (q + 8) 31 0 = (tail + 1) % 2 ^ 32 ∧
    t.hubField (q + 8) 63 32 = s.hubField (q + 8) 63 32 ∧ SameRegisters s t [q + 8]

/-- A record goes to the fault queue, or is dropped and counted in LOST when the queue takes none (R131). -/
def Logged (s t : State) (r : Record) : Prop :=
  (HasRoom s 0x4200 → Appended s t 0x4200 (recordByte r s.gtime)) ∧
    (¬ HasRoom s 0x4200 → sameMemory s t ∧ Counts s t 0x4208 32 32 ∧ t.hubField 0x4208 31 0 = s.hubField 0x4208 31 0 ∧
      SameRegisters s t [0x4208])

/-- `t` is `s` but for memory and what writes of memory touch, and hub registers. -/
def MemHub (s t : State) : Prop :=
  ({ t with mem := s.mem, poisoned := s.poisoned, upsets := s.upsets, releases := s.releases, harts := s.harts, hub := s.hub } :
    State) = s

/-- A record of the fault queue. -/
def faultOf (kind sub : Byte) (pasid : Option (BitVec 20)) (addr : Nat) (who : DWord) : Record :=
  ⟨kind, sub, pasid.getD 0, pasid.isSome, BitVec.ofNat 64 addr, who, none⟩

/-- WHO of a device thread (R132). -/
def whoOf (s : State) (k lane : Nat) : DWord :=
  BitVec.ofNat 64 (k / 64 + k % 64 * 256 + (if (s.recOf k).prot then lane / 2 else lane) * 16384)

/-- The load `o` of a lane that waits for no SYSC and no WAIT is answered with `rs`: it is no longer outstanding, and its registers
arrive at its scoreboard entry; `flags` are set in %wstat. -/
def Answered (s t : State) (o : Outstanding) (flags : BitVec 5) (rs : List Reg) : Prop :=
  let k := o.waveKey
  t.outstanding = s.outstanding.filter (fun e => e.tag ≠ o.tag) ∧ (∀ j, j ≠ k → t.wave j = s.wave j) ∧
    (∀ l, t.thread k l = s.thread k l) ∧
    (t.wave k).noThreads = (Wave.arrives { s.wave k with
        wstat := (s.wave k).wstat ||| flags, setNow := (s.wave k).setNow ||| flags.setWidth 8 } o.serial
      ((((s.wave k).marksOf o.serial o.lane).drop o.skip).zip rs)).noThreads

/-- A load that failed outside (R46, R70, R76): all ones with X = 1, IOERR, and a record of kind 1. -/
def FailedSent (i : Instr) (s : State) (o : Outstanding) (sub : Byte) : Prop :=
  ∃ t, exec i s = .next t ∧
    Answered s t o 8 (List.replicate (max 1 (o.access.size / 4)) ⟨0xFFFFFFFF, true⟩) ∧
    Logged s t (faultOf 1 sub (some (s.recOf o.waveKey).pasid) o.pa (whoOf s o.waveKey o.lane)) ∧
    ({ t with mem := s.mem, poisoned := s.poisoned, upsets := s.upsets, releases := s.releases, harts := s.harts, hub := s.hub
              outstanding := s.outstanding } : State).kept = s.kept

/-- A port whose link has gone down (R47, R115). -/
def Dropped (x : Port) : Port := { x with up := false, cxl := false, hotplug := x.hotplug || x.up }

/-- A load outside the package under its tag, made by a thread that is not blocked, in a launch without rollback; no request waits for a
tag. -/
def SentLoad (s : State) (o : Outstanding) (sx : Bool) : Prop :=
  s.outstanding.find? (fun e => e.tag == o.tag) = some o ∧ o.who = .thread ∧ (s.recOf o.waveKey).rbk = false ∧ o.access.kind = .load sx ∧
    o.access.size ∈ [1, 2, 4, 8, 16, 32] ∧ (s.thread o.waveKey o.lane).block = none ∧ ∀ e ∈ s.outstanding, e.held = none

/-- A layout of a lane group that R39 and R45 admit: code 0 is no sub-port and code c is 2^(c−1) lanes; the sub-ports come first,
at least one, each aligned to its width, within 16 lanes; a bridge is one sub-port of 16 lanes. -/
def GoodLayout (v : Nat) : Prop :=
  let code := fun (k : Nat) => field v (4 * k + 3) (4 * k)
  let lanes := fun (k : Nat) => if code k = 0 then 0 else 2 ^ (code k - 1)
  code 0 ≠ 0 ∧ (∀ k < 4, code k ≤ 5 ∧ (code k ≠ 0 → (∀ j < k, code j ≠ 0) ∧
    lanes k ∣ (List.range k).foldl (fun n j => n + lanes j) 0)) ∧
  (List.range 4).foldl (fun n j => n + lanes j) 0 ≤ 16 ∧ (v.testBit 16 = true → v % 65536 = 5)

end Sys2Proof.Says

/-- R36, R39, R41, R43, R45 to R47, R54 to R57, R61, R70, R73, R75, R76, R115, R133, R161. The links: a write of PORT_CFG, links
going up and down, answers and time-outs of accesses that left the package, errors of a port, doorbells that leave, and PTM; what
leaves a root port carries an ECRC where its lane group generates it. Answers of the outside come as inputs (log 19), whether a CXL
device is the partner of a port among them (log 68); the corners of a link that fails are read as log 34 says; that the proxy sends
doorbells one by one in the order of its queue and merges none is the model's reading (log 60), and so is that the other held fields
go with a held layout (log 66). -/
def Obligations.PortSteps : Prop := ∀ (s : State),
  (∀ p m, s.tlp p m = if s.hubField (0x1000 + 0x40 * (p / 4)) 18 18 = 1 then .ecrc m else m) ∧
  (∀ (group : Fin 16) (d : BitVec 32), let g := group.val
    let o := 0x1000 + 0x40 * g
    let held := d.toNat % 2 ^ 24
    exec (.portCfgApply false group d) s = .next s ∧
    (d.getLsbD 31 = false → ∃ t, exec (.portCfgApply true group d) s = .next t ∧ SMap.find t.portHeld g = some held ∧
      (∀ j, j ≠ g → SMap.find t.portHeld j = SMap.find s.portHeld j) ∧ t.hubField o 23 0 = s.hubField o 23 0 ∧
      t.hubField o 24 24 = (if d.getLsbD 24 then 0 else s.hubField o 24 24) ∧ SameRegisters s t [o] ∧
      t = { s with hub := t.hub, portHeld := t.portHeld }) ∧
    (d.getLsbD 31 = true → GoodLayout held → (∀ e ∈ s.outstanding, ∀ k < 4, e.port ≠ some (4 * g + k)) →
      ∃ t, exec (.portCfgApply true group d) s = .next t ∧ SMap.find t.portHeld g = none ∧ t.hubField o 23 0 = held ∧
        SameRegisters s t [o] ∧ (∀ k < 4, t.portAt (4 * g + k) = Dropped (s.portAt (4 * g + k))) ∧
        (∀ p, p / 4 ≠ g → t.portAt p = s.portAt p) ∧ t = { s with hub := t.hub, portHeld := t.portHeld, ports := t.ports }) ∧
    (d.getLsbD 31 = true → ¬ GoodLayout held → ∃ t, exec (.portCfgApply true group d) s = .next t ∧
      SMap.find t.portHeld g = none ∧ t.hubField o 24 24 = 1 ∧ t.hubField o 23 0 = s.hubField o 23 0 ∧ SameRegisters s t [o] ∧
      t = { s with hub := t.hub, portHeld := t.portHeld })) ∧
  (∀ (port : Fin 64), let p := port.val
    let x := s.portAt p
    let width := s.hubField (0x1000 + 0x40 * (p / 4)) (4 * (p % 4) + 3) (4 * (p % 4))
    let others := fun (t : State) => (∀ q, q ≠ p → t.portAt q = s.portAt q) ∧ t = { s with ports := t.ports }
    ((∀ e ∈ s.outstanding, e.port ≠ some p) → ∃ t, exec (.linkDown port) s = .next t ∧ t.portAt p = Dropped x ∧ others t) ∧
    (∀ o sx, s.outstanding.filter (fun e => e.port == some p) = [o] → SentLoad s o sx → ∃ t, exec (.linkDown port) s = .next t ∧
      t.portAt p = Dropped x ∧ (∀ q, q ≠ p → t.portAt q = s.portAt q) ∧
      Answered s t o 8 (List.replicate (max 1 (o.access.size / 4)) ⟨0xFFFFFFFF, true⟩) ∧
      Logged s t (faultOf 1 4 (some (s.recOf o.waveKey).pasid) o.pa (whoOf s o.waveKey o.lane))) ∧
    (width = 0 ∨ x.disabled = true → exec (.linkUp port) s = .next s) ∧
    (width ≠ 0 → x.disabled = false → ∃ t, exec (.linkUp port) s = .next t ∧
      t.portAt p = { x with
        up := true, dpc := false, hotplug := x.hotplug || !x.up, cxl := Config.cxlPartner p s.cycle && decide (3 ≤ width)
        barSizes := (s.hubField (0x40000 + 0x200 * (p / 4)) 5 0, s.hubField (0x40000 + 0x200 * (p / 4)) 13 8) } ∧ others t) ∧
    (∀ fatal, ∃ t, exec (.aerErrorMessage port (.error fatal)) s = .next t ∧
      t.portAt p = { x with aer := true, aerCount := x.aerCount + 1, dpc := x.dpc || fatal } ∧ others t) ∧
    (∃ t, exec (.aerErrorMessage port .pme) s = .next t ∧ t.portAt p = { x with pme := true } ∧ others t) ∧
    (∃ t, exec (.aerErrorMessage port .slot) s = .next t ∧ t.portAt p = { x with hotplug := true } ∧ others t) ∧
    (∃ t, exec (.assertIntx port) s = .next t ∧ t.portAt p = { x with aer := true, aerCount := x.aerCount + 1 } ∧ others t) ∧
    exec (.ioRequest port) s = .next { s with out := s.out ++ [s.tlp p (.completion 0 false [] false)] } ∧
    (s.hubField 0x5300 1 0 = 2 → exec (.ptmRequest port) s =
      .next { s with out := s.out ++ [s.tlp p (.reply s.gtime)], sourceSeen := s.gtime }) ∧
    (s.hubField 0x5300 1 0 ≠ 2 → exec (.ptmRequest port) s = .next s) ∧
    (∀ d rest, x.doorbells = d :: rest → d.size ≤ 128 →
      (∀ e ∈ s.waves, ∀ u ∈ e.2.threads, ∀ q b c m, u.2.block = some (.doorbell q b c m) → q ≠ p) →
      ∃ t, exec (.doorbellSend port) s = .next t ∧ (∀ q, q ≠ p → t.portAt q = s.portAt q) ∧
        (x.up = true → x.dpc = false → t.portAt p = { x with doorbells := rest } ∧
          t.out = s.out ++ [s.tlp p (.posted d.addr ((List.range d.size).map (byteOf d.data.toNat))
            { ep := false, relaxed := some false })] ∧
          t = { s with ports := t.ports, out := t.out }) ∧
        (x.up = true → x.dpc = true → t.portAt p = { x with doorbells := rest, aerCount := x.aerCount + 1 } ∧
          t = { s with ports := t.ports }) ∧
        (x.up = false → t.portAt p = { x with doorbells := rest } ∧ t.out = s.out ∧
          Logged s t (faultOf 3 0 (some d.pasid) d.pa d.who) ∧ (∀ k, k ≠ d.waveKey → t.wave k = s.wave k) ∧
          let w := s.wave d.waveKey
          t.wave d.waveKey = if w.live = true ∧ w.crew = d.crew then { w with wstat := w.wstat ||| 8, setNow := w.setNow ||| 8 } else w))) ∧
  (∀ o sx, SentLoad s o sx →
    (∀ bytes, o.access.acq = false ∨ o.port ≠ none → let n := o.access.size
      ∃ t, exec (.pcieCompletion o.tag (.data bytes)) s = .next t ∧
        Answered s t o 0 (loaded n sx (leNat bytes % 2 ^ (8 * n))) ∧ ({ t with outstanding := s.outstanding } : State).kept = s.kept) ∧
    (∀ p, o.port = some p →
      let late := o.sent.toNat + 2 ^ min 10 (s.hubField (0x1000 + 0x40 * (p / 4)) 23 20) * 10 ^ 6 ≤ s.gtime.toNat
      FailedSent (.pcieCompletion o.tag .ur) s o 1 ∧ FailedSent (.pcieCompletion o.tag .ca) s o 2 ∧
      (late → FailedSent (.completionTimeout o.tag) s o 3) ∧ (¬ late → exec (.completionTimeout o.tag) s = .next s) ∧
      exec (.peerTimeout o.tag) s = .next s) ∧
    (o.port = none → let late := o.sent.toNat + 100000 ≤ s.gtime.toNat
      FailedSent (.pcieCompletion o.tag .ur) s o 6 ∧ (late → FailedSent (.peerTimeout o.tag) s o 3) ∧
      (¬ late → exec (.peerTimeout o.tag) s = .next s) ∧ exec (.completionTimeout o.tag) s = .next s)) ∧
  ∀ (peer : Byte) before o after, s.outstanding = before ++ o :: after → o.port = none → o.who = .thread → o.access.kind = .store →
    field o.pa 50 43 = peer.toNat →
    (∀ e ∈ before, e.tag ≠ o.tag ∧ (e.port = none → e.access.kind = .store → field e.pa 50 43 ≠ peer.toNat)) →
    (∀ e ∈ after, e.tag ≠ o.tag) → exec (.domainAcknowledge peer) s = .next { s with outstanding := before ++ after }

namespace Sys2Proof.Says

/-- `t` is `s` with the bytes `bs` at `a`, but for what a write of memory touches besides its bytes, and for what left the
package. -/
structure Stores (s t : State) (a : Nat) (bs : List Byte) : Prop where
  bytes : t.bytes a bs.length = bs
  outside : sameOutside s t a bs.length
  rest : ({ t with mem := s.mem, poisoned := s.poisoned, upsets := s.upsets, releases := s.releases, harts := s.harts, out := s.out } :
    State) = s

/-- `n` bytes of a number, lowest first (R2). -/
def bytesOf (v n : Nat) : List Byte := (List.range n).map (byteOf v)

/-- A request of an endpoint without a hit in the capture window, whose address is translated in the space of its PASID (R82,
R90, R99). -/
def Untranslated (s : State) (rid : BitVec 16) (translated : Bool) : Prop :=
  s.hubGet 0x1800 = 0 ∧ (translated = false ∨ rid ∈ s.distrusted)

/-- A request that arrives at root port `p` is not turned away: its ECRC agrees, or its lane group does not check it (R43), and no ACS
control of the port refuses its requester, or that it is translated (R41; the place of ACS Control is PRESUMED, log 9). -/
def Admitted (s : State) (p : Nat) (rid : BitVec 16) (translated badEcrc : Bool) : Prop :=
  let control := (SMap.get s.cfg ((p / 4 * 2 ^ 15 + p % 4 * 2 ^ 12 + 0xD04) / 4) 0).toNat / 2 ^ 16
  let buses := (SMap.get s.cfg ((p / 4 * 2 ^ 15 + p % 4 * 2 ^ 12 + 0x18) / 4) 0).toNat
  (badEcrc = true → s.hubField (0x1000 + 0x40 * (p / 4)) 19 19 = 0) ∧
    (control.testBit 0 = true → field buses 15 8 ≤ rid.toNat / 2 ^ 8 ∧ rid.toNat / 2 ^ 8 ≤ field buses 23 16) ∧
    (control.testBit 1 = true → translated = false)

def Passes (s : State) (r : InboundRequest) : Prop := Admitted s r.port r.rid r.translated r.badEcrc

/-- The request is dropped, and its port logs it. -/
def TurnedAway (i : Instr) (s : State) (p : Nat) : Prop := ∃ t, exec i s = .next t ∧ t = { s with ports := t.ports } ∧
  t.portAt p = { s.portAt p with aer := true, aerCount := (s.portAt p).aerCount + 1 } ∧ ∀ q, q ≠ p → t.portAt q = s.portAt q

/-- The requester has no posted write under way to a domain peer, and no capture that waits for one (R52). -/
def Visible (s : State) (r : InboundRequest) : Prop :=
  (∀ o ∈ s.outstanding, o.who ≠ .endpoint r.port r.rid) ∧ ∀ e ∈ s.heldCaptures, ¬ (e.port = r.port ∧ e.rid = r.rid)

/-- A place in memory that an endpoint may write: no shared read-only range of CXL (R63). -/
def Writable (s : State) (pa : Nat) : Prop := s.regionAt pa = .cxl → s.pmaMt pa ≠ some 4

/-- Offset `o` of configuration space is in word `r` of the header of root port `p`, which the layout has (R39, R113). -/
def PortWord (s : State) (o p r : Nat) : Prop :=
  p < 64 ∧ r < 4096 ∧ r % 4 = 0 ∧ o = p / 4 * 2 ^ 15 + p % 4 * 2 ^ 12 + r ∧
    s.hubField (0x1000 + 0x40 * (p / 4)) (4 * (p % 4) + 3) (4 * (p % 4)) ≠ 0

/-- An access at offset `o` of the capture window (R48). -/
def InCapture (s : State) (addr o : Nat) : Prop :=
  s.hubGet 0x1800 ≠ 0 ∧ addr = s.hubGet 0x1800 / 2 ^ 14 * 2 ^ 14 + o ∧ o < 2 ^ 14

/-- The operation of R444 that an AtomicOp of PCIe makes, and its data. -/
def opOf (r : InboundAtomic) : Nat := match r.op with | .fetchAdd => 0 | .swap => 8 | .cas => 9
def dataOf (r : InboundAtomic) : Nat :=
  match r.op with
  | .cas => r.compare.toNat % 2 ^ (8 * r.size) + r.operand.toNat % 2 ^ (8 * r.size) * 2 ^ (8 * r.size)
  | _ => r.operand.toNat

/-- The file number of an interrupt file, and its hart (R114). -/
def fileOf : ImsicFile → Nat × Nat
  | .m h => (h, 0)
  | .s h => (h, 1)
  | .guest h g => (h, 2 + g)

end Sys2Proof.Says

/-- R42, R43, R48 to R52, R58 to R60, R65, R66, R69, R82, R90, R98, R99, R113, R114. What arrives at the package: requests,
AtomicOps and translation requests of endpoints, captures, bridge partners, domain peers, flits, seteipnum and configuration
accesses. That configuration space is stored raw, and where its status words and bus numbers lie, is the model's choice (log 9), and so is
what becomes of a request that ECRC or ACS turns away. What a load of an endpoint from outside answers is a free value (log 36), the
corners of translated requests and their grants are read as log 38 says; that the low 14 bits of MSIX_CAP_BASE count for
nothing is the model's reading (log 66), and so is which word and requester ID of a capture entry are in force while it is rewritten
(log 70). -/
def Obligations.InboundSteps : Prop := ∀ (s : State),
  (∀ r : InboundRequest, ¬ Passes s r → TurnedAway (.inboundMemoryRequest r) s r.port) ∧
  (∀ (r : InboundRequest) p, r.pasid = some p → Untranslated s r.rid r.translated → Passes s r →
    let va := r.addr.toNat
    let who := r.rid.setWidth 64
    let need := if r.write then Need.write else .read
    let refused := fun (t : State) => if r.write then t.out = s.out ∧ (t.portAt r.port).aer = true
      else t.out = s.out ++ [s.tlp r.port (.completion r.rid false [] false)]
    (∀ pa mt, ReachesIn s p va need pa mt r.size → 0 < r.size → r.write = true → r.data.length = r.size → Writable s pa → ∃ t,
      exec (.inboundMemoryRequest r) s = .next t ∧ Stores s t pa r.data ∧ t.out = s.out ∧
        (r.ep = true → ∀ c, pa / 32 ≤ c → c ≤ (pa + r.size - 1) / 32 → t.isPoisoned c = true)) ∧
    (∀ pa mt, ReachesIn s p va need pa mt r.size → 0 < r.size → r.write = false → exec (.inboundMemoryRequest r) s =
      .next { s with out := s.out ++ [s.tlp r.port (.completion r.rid true (s.bytes pa r.size) (s.poisonIn pa r.size))] }) ∧
    (s.spaceOf p.toNat = none → ∃ t, exec (.inboundMemoryRequest r) s = .next t ∧ Logged s t (faultOf 5 0 (some p) 0 who) ∧
      refused t ∧ t.waves = s.waves) ∧
    (s.spaceOf p.toNat ≠ none → va < 2 ^ 57 → s.translate p va need = (s, .absent) → ∃ t,
      exec (.inboundMemoryRequest r) s = .next t ∧ Logged s t (faultOf 0x0B 1 (some p) va who) ∧ refused t ∧ t.waves = s.waves)) ∧
  (∀ (r : InboundRequest) o, InCapture s r.addr.toNat o → r.write = true → r.size = 4 → o % 4 = 0 → r.data.length = 4 →
    Passes s r →
    let e := (s.captureNow (o / 4)).1
    let pa := field e 51 3 * 8
    let old := leNat (s.bytes pa 8)
    (Visible s r → field e 0 0 = 1 → (field e 2 2 = 1 → (s.captureNow (o / 4)).2 = r.rid.toNat) →
        regionOf pa = .hbm → SMap.find s.upsets (pa / 32) = none → ∃ t,
      exec (.capture r) s = .next t ∧ exec (.inboundMemoryRequest r) s = .next t ∧
        t.bytes pa 8 = bytesOf ((old + leNat r.data) % 2 ^ 64) 8 ∧ sameOutside s t pa 8 ∧
        ({ t with mem := s.mem, poisoned := s.poisoned, upsets := s.upsets, releases := s.releases, harts := s.harts
                  inputs := s.inputs } : State).kept = s.kept ∧
        (∀ i, i ∈ t.inputs ↔ i ∈ s.inputs ∨ field e 1 1 = 1 ∧ ∃ l ∈ s.launches, i = .afterEventSatisfied l.1 ∧ l.2.state = .waitEv ∧
          l.2.ended = false ∧ pa / 64 ∈ l.2.lines) ∧
        ∀ j m, t.thread j m = if field e 1 1 = 1 then
          { s.thread j m with block := (s.thread j m).block.map fun b => b.woken (pa / 64) } else s.thread j m) ∧
    (¬ Visible s r → exec (.capture r) s =
      .next { s with heldCaptures := s.heldCaptures ++ [⟨r.port, r.rid, o / 4, leNat r.data, r.addr.toNat⟩] }) ∧
    (Visible s r → field e 0 0 = 0 → ∃ u t, exec (.capture r) s = .next t ∧ Counts s u (0x10008 + 4 * o) 32 32 ∧
      SameRegisters s u [0x10008 + 4 * o] ∧ u = { s with hub := u.hub } ∧
      Logged u t (faultOf 2 1 none r.addr.toNat (r.rid.setWidth 64)) ∧ MemHub u t)) ∧
  (∀ r : InboundAtomic, ¬ Admitted s r.port r.rid r.translated r.badEcrc → TurnedAway (.atomicOpRequest r) s r.port) ∧
  (∀ r : AtsRequest, ¬ Admitted s r.port r.rid true r.badEcrc → TurnedAway (.atsTranslationRequest r) s r.port) ∧
  (∀ r : NtbRequest, let p := 4 * r.group.val
    s.hubField (0x1000 + 0x40 * r.group.val) 16 16 = 1 → (s.portAt p).up = true → ¬ Admitted s p r.rid false r.badEcrc →
    TurnedAway (.ntbInboundAccess r) s p) ∧
  (∀ (r : InboundRequest) g, s.hubGet 0x1800 = 0 → r.translated = true → r.rid ∉ s.distrusted → Passes s r → r.write = false → r.size ≠ 0 →
    let a := r.addr.toNat
    (g ∈ s.atsHolders → g.rid = r.rid → g.pa ≤ a → a < g.pa + 2 ^ g.bits → g.rd = true → s.regionAt a = .hbm → Local s a r.size →
      exec (.inboundMemoryRequest r) s =
        .next { s with out := s.out ++ [s.tlp r.port (.completion r.rid true (s.bytes a r.size) (s.poisonIn a r.size))] }) ∧
    ((∀ h ∈ s.atsHolders, ¬ (h.rid = r.rid ∧ h.pa ≤ a ∧ a < h.pa + 2 ^ h.bits ∧ h.rd = true)) → s.flushWait = none → ∃ t,
      exec (.inboundMemoryRequest r) s = .next t ∧ Logged s t (faultOf 7 0 none a (r.rid.setWidth 64)) ∧
      t.out = s.out ++ [s.tlp r.port (.completion r.rid false [] false)] ∧ t.waves = s.waves)) ∧
  (∀ (r : InboundAtomic) p pa mt, r.pasid = some p → Untranslated s r.rid r.translated → Admitted s r.port r.rid r.translated r.badEcrc →
    let n := r.size
    let old := leNat (s.bytes pa n)
    (r.addr.toNat % n = 0 → n = 4 ∨ n = 8 ∨ r.op = .cas ∧ n = 16 → ReachesIn s p r.addr.toNat .both pa mt n →
      ∃ t, exec (.atomicOpRequest r) s = .next t ∧ Stores s t pa (bytesOf (updated (opOf r) n old (dataOf r)) n) ∧
        t.out = s.out ++ [s.tlp r.port (.completion r.rid true (bytesOf old n) (s.poisonIn pa n))]) ∧
    (r.addr.toNat % n ≠ 0 → exec (.atomicOpRequest r) s =
      .next { s with out := s.out ++ [s.tlp r.port (.completion r.rid false [] false)] })) ∧
  (∀ (r : AtsRequest) p desc, Admitted s r.port r.rid true r.badEcrc → r.pasid = some p → s.spaceOf p.toNat = some desc → r.va.toNat < 2 ^ 57 →
    s.upsets = [] →
    (∀ z a, s.lookup desc r.va.toNat = ([(z, a)], []) →
      let e := s.entryAt a
      let wr := field e 2 2 == 1 && !r.noWrite
      entryMt e ≠ 3 → entryMt e ≠ 5 → entryMt e ≠ 6 → s.markUsed a wr = s → ∃ t, exec (.atsTranslationRequest r) s = .next t ∧
      t = { s with out := t.out, atsHolders := t.atsHolders } ∧
      t.out = s.out ++ [s.tlp r.port (.ats r.rid (field e 1 1 == 1) wr (r.exec && field e 3 3 == 1) (field e 55 16 * 4096) z)] ∧
      ∀ h, h ∈ t.atsHolders ↔ h ∈ s.atsHolders ∨ h =
        { port := r.port, rid := r.rid, pasid := p, va := r.va.toNat / 2 ^ pageShift z * 2 ^ pageShift z, pa := field e 55 16 * 4096
          bits := pageShift z, rd := field e 1 1 == 1, wr := wr }) ∧
    (s.lookup desc r.va.toNat = ([], []) → exec (.atsTranslationRequest r) s =
      .next { s with out := s.out ++ [s.tlp r.port (.ats r.rid false false false 0 0)] })) ∧
  (∀ (r : NtbRequest) pa mt, let g := r.group.val
    let reg := 0x40010 + 0x200 * g + 0x10 * (r.offset / 2 ^ ((s.portAt (4 * g)).barSizes.1 - 2))
    let size := (s.portAt (4 * g)).barSizes.1 - 2
    let pasid := BitVec.ofNat 20 (s.hubField (reg + 8) 19 0)
    let va := (s.hubField reg 56 12 * 4096 / 2 ^ size * 2 ^ size + r.offset % 2 ^ size) % 2 ^ 57
    s.hubField (0x1000 + 0x40 * g) 16 16 = 1 → (s.portAt (4 * g)).up = true → Admitted s (4 * g) r.rid false r.badEcrc → r.bar = 1 →
    r.offset / 2 ^ size < 4 →
    (s.hubField reg 0 0 = 1 → r.write = false → 0 < r.size → ReachesIn s pasid va .read pa mt r.size → exec (.ntbInboundAccess r) s =
      .next { s with out := s.out ++ [s.tlp (4 * g) (.completion r.rid true (s.bytes pa r.size) (s.poisonIn pa r.size))] }) ∧
    (s.hubField reg 0 0 = 1 → r.write = true → 0 < r.size → r.data.length = r.size → ReachesIn s pasid va .write pa mt r.size → Writable s pa →
      ∃ t, exec (.ntbInboundAccess r) s = .next t ∧ Stores s t pa r.data ∧ t.out = s.out) ∧
    (s.hubField reg 0 0 = 0 → ∃ t, exec (.ntbInboundAccess r) s = .next t ∧
      Logged s t (faultOf 8 (BitVec.ofNat 8 (r.offset / 2 ^ size)) (some pasid) (r.offset % 2 ^ size) (r.rid.setWidth 64)) ∧
      t.out = (if r.write then s.out else s.out ++ [s.tlp (4 * g) (.completion r.rid false [] false)]) ∧ t.waves = s.waves)) ∧
  (∀ (r : DomainRequest), let a := r.offset.toNat
    let here := 0 < r.size ∧ Local s a r.size ∧ s.regionAt a ≠ .cxl
    (s.exported a r.size 0 = true → r.op = .read → here → exec (.inboundDomainAccess r) s =
      .next { s with out := s.out ++ [.peerReply r.peer true (s.bytes a r.size) (s.poisonIn a r.size)] }) ∧
    (∀ bs, s.exported a r.size 1 = true → r.op = .write bs false → bs.length = r.size → here → ∃ t,
      exec (.inboundDomainAccess r) s = .next t ∧ Stores s t a bs ∧ t.out = s.out ++ [.peerReply r.peer true [] false]) ∧
    (s.exported a r.size 0 = false → r.op = .read → ∃ t, exec (.inboundDomainAccess r) s = .next t ∧
      Logged s t (faultOf 0x0A 1 none a (r.peer.setWidth 64)) ∧ t.out = s.out ++ [.peerReply r.peer false [] false] ∧
      MemHub s { t with out := s.out })) ∧
  (∀ port ok, exec (.ubnorFlit port ok) s = .next s) ∧
  (∀ port : Fin 24, ∃ t, exec (.ubnorPortDegrade port) s = .next t ∧ Logged s t (faultOf 9 0 none 0 (BitVec.ofNat 64 port.val)) ∧
    (∀ p, p ∈ t.ubnorNarrow ↔ p ∈ s.ubnorNarrow ∨ p = port.val) ∧ MemHub s { t with ubnorNarrow := s.ubnorNarrow }) ∧
  (∀ (file : ImsicFile) (identity : BitVec 32), let h := (fileOf file).1
    let n := identity.toNat
    let f := (fileOf file).2
    (1 ≤ n → n ≤ 2047 → ∃ t ns, exec (.imsicSeteipnum file identity) s = .next t ∧ t = { s with harts := t.harts } ∧
      (t.hartAt h).file f = { (s.hartAt h).file f with pending := ns } ∧ (∀ m, m ∈ ns ↔ m ∈ ((s.hartAt h).file f).pending ∨ m = n) ∧
      (∀ j, j ≠ f → (t.hartAt h).file j = (s.hartAt h).file j) ∧
      ({ t.hartAt h with files := (s.hartAt h).files } : Hart) = s.hartAt h ∧
      ∀ g, g ≠ h → t.hartAt g = s.hartAt g) ∧
    (n = 0 ∨ 2047 < n → exec (.imsicSeteipnum file identity) s = .next s)) ∧
  ∀ (offset : BitVec 27) (d : BitVec 32), let o := offset.toNat
    let trusts := fun (t : State) => ∀ x, x ∈ t.distrusted ↔ x ∈ s.distrusted ∧ ¬ (0x100 ≤ o % 4096 ∧ x.toNat = o / 4096)
    let below := 2 ^ 20 ≤ o ∧ s.busPort (o / 2 ^ 20) ≠ none
    o % 4 = 0 →
    (∀ p r, PortWord s o p r → r ∉ [0x50, 0x58, 0x60, 0x130, 0x148] →
      exec (.configRead offset 2) s = .next { s with out := s.out ++ [.reply ((SMap.get s.cfg (o / 4) 0).setWidth 64)] } ∧
      ∃ t, exec (.configWrite offset 2 d) s = .next t ∧ SMap.get t.cfg (o / 4) 0 = d ∧
        (∀ j, j ≠ o / 4 → SMap.get t.cfg j 0 = SMap.get s.cfg j 0) ∧ t = { s with cfg := t.cfg, distrusted := t.distrusted } ∧
        trusts t) ∧
    ((∀ p r, ¬ PortWord s o p r) → ¬ below →
      exec (.configRead offset 2) s = .next { s with out := s.out ++ [.reply 0xFFFFFFFF] } ∧
      ∃ t, exec (.configWrite offset 2 d) s = .next t ∧ t = { s with distrusted := t.distrusted } ∧ trusts t) ∧
    (below → (∃ v, exec (.configRead offset 2) s =
        .next { s with fresh := s.fresh + 1, out := s.out ++ [s.tlp ((s.busPort (o / 2 ^ 20)).getD 0) (.config o none), .reply v] }) ∧
      ∃ t, exec (.configWrite offset 2 d) s = .next t ∧ trusts t ∧
        t = { s with out := s.out ++ [s.tlp ((s.busPort (o / 2 ^ 20)).getD 0) (.config o (some (bytesOf d.toNat 4)))]
                     distrusted := t.distrusted })

namespace Sys2Proof.Says

/-- The STAT register of an update port (R88). -/
def statOf (hart : Nat) : Nat := 0x4818 + 0x40 * hart

/-- A command at an update port ends with a result, over memory and its port alone (R88). -/
def TableEnds (i : Instr) (s : State) (hart result : Nat) (p : State) : Prop :=
  ∃ t, exec i s = .next t ∧ t.hubGet (statOf hart) = 16 * result ∧ SameRegisters s t [statOf hart] ∧ sameMemory p t ∧ MemHub s t

/-- The three candidate buckets of a page have slots that a lookup of the page reads. -/
def slotsOf (s : State) (desc z va : Nat) : List Nat := s.probeSlots desc z va

/-- The port is free to take a command: not busy, and no command waits for endpoints (R88, R90). -/
def PortFree (s : State) (hart : Nat) : Prop := s.hubField (statOf hart) 0 0 = 0 ∧ s.flushWait = none ∧ s.tableWaiting = []

/-- No endpoint was granted a page of the space between two addresses (R90). -/
def NotGranted (s : State) (desc lo hi : Nat) : Prop :=
  field (s.readNat (desc + 0x60) 8) 20 20 = 0 ∨
    ∀ h ∈ s.atsHolders, h.pasid.toNat = s.readNat (desc + 0x60) 8 % 2 ^ 20 → h.va < lo ∨ hi ≤ h.va

/-- No access that was translated is still to be performed: nothing has left the package unanswered, and no crew holds stores or
doorbells (R90). -/
def Performed (s : State) : Prop := s.outstanding = [] ∧ ∀ e ∈ s.crews, e.2.live = true → s.crewHolds e.1 = false

/-- Fetched lines of the pages of a space from `lo` to `hi` have left the instruction caches; all else is as before but for memory and
the register of the port (R90). -/
def Unfetched (s t : State) (desc lo hi : Nat) : Prop :=
  (∀ n, ∃ ls, t.coreAt n = { s.coreAt n with lines := ls } ∧ ∀ e, e ∈ ls ↔
    e ∈ (s.coreAt n).lines ∧ ¬ (t.spaceOf e.1.toNat = some desc ∧ lo ≤ e.2.1 ∧ e.2.1 < hi)) ∧ MemHub s { t with cores := s.cores }

/-- The command that invalidates has everything it waits for but the endpoints (R90). -/
def Over (s : State) (f : FlushWait) : Prop :=
  (∀ n ∈ f.tags, ∀ o ∈ s.outstanding, o.tag ≠ n) ∧ (∀ c ∈ f.crews, s.crewHolds c = false) ∧ s.tableWaiting = [] ∧ f.result < 16

/-- A bucket slot lies apart from the descriptor, so that a write of one leaves the other. -/
def Apart (a n b m : Nat) : Prop := a + n ≤ b ∨ b + m ≤ a

/-- Byte `i` of an entry of the page-request ring (R103). -/
def requestByte (r : PageReq) (gtime : DWord) (i : Nat) : Byte :=
  let words := [r.pri.toNat + r.rd.toNat * 4 + r.wr.toNat * 8 + r.ex.toNat * 16 + r.priv.toNat * 32 + r.last.toNat * 64 +
      r.perm.toNat * 128 + (r.rtag.getD 0).toNat * 2 ^ 16 + r.pasid.toNat * 2 ^ 32 + r.pv.toNat * 2 ^ 52,
    r.va.toNat % 2 ^ 57 / 4096 * 4096, r.who.toNat + (if r.pri then r.prg.toNat else r.cnt) * 2 ^ 16, gtime.toNat]
  byteOf (words.getD (i / 8) 0) (i % 8)

end Sys2Proof.Says

/-- R82, R84, R85, R87 to R91, R102 to R104, R115. The table engine: XLT_PDIR while nothing uses a space, INSERT, REMOVE and
MODIFY with their results in the order of R89, RESIZE, FLUSH and its acknowledgements, the steps of a resize; and the
page-request queue. The slot that INSERT takes, and the corners of MODIFY and of the request queue, are the model's (logs 39,
40); a write of XLT_PDIR with LOGP above 20 leaves LOGP and sets the other fields, as log 50 reads fields out of range. No stored copy
of memory has an error here (R245), which a merge would decode, and no sector is poisoned, of which the manual does not say what a
walk makes (log 66). -/
def Obligations.TableSteps : Prop := ∀ (s : State), s.upsets = [] → s.poisoned = [] →
  (∀ d : DWord, (s.spacesInUse = true → exec (.xltPdirWrite d) s = .next s) ∧
    (s.spacesInUse = false → ∃ t, exec (.xltPdirWrite d) s = .next t ∧ t = { s with hub := t.hub, cores := t.cores } ∧
      (∀ n, t.coreAt n = { s.coreAt n with lines := [] }) ∧ SameRegisters s t [0x4000] ∧ t.hubField 0x4000 5 5 = field d.toNat 5 5 ∧ t.hubField 0x4000 51 12 = field d.toNat 51 12 ∧
      t.hubField 0x4000 4 0 = if field d.toNat 4 0 ≤ 20 then field d.toNat 4 0 else s.hubField 0x4000 4 0)) ∧
  (∀ (hart : Fin 16) (cmd : DWord), PortFree s hart →
    let h := hart.val
    let desc := field cmd.toNat 51 7 * 128
    let z := field cmd.toNat 5 4
    let cur := s.readNat (desc + 0x18 * z) 8
    let legal := field cur 5 5 = 1 ∧ 4 ≤ field cur 4 0 ∧ field cur 4 0 ≤ 24
    let arg0 := s.hubGet (0x4800 + 0x40 * h)
    let e := arg0 + s.hubGet (0x4808 + 0x40 * h) * 2 ^ 64
    let good := field e 0 0 = 1 ∧ s.entryWf z e = true
    let va := field e 108 64 * 4096
    let held := fun (va : Nat) => (slotsOf s desc z va).filter fun a => entryNames z va (s.entryAt a)
    (¬ legal → TableEnds (.insert hart cmd) s h 9 s) ∧
    (legal → ¬ good → TableEnds (.insert hart cmd) s h 4 s) ∧
    (legal → good → held va ≠ [] → TableEnds (.insert hart cmd) s h 1 s) ∧
    (legal → good → held va = [] → s.overlaps desc z va = true → TableEnds (.insert hart cmd) s h 5 s) ∧
    (∀ a, legal → good → held va = [] → s.overlaps desc z va = false →
      (slotsOf s desc z va).find? (fun a => field (s.entryAt a) 0 0 != 1) = some a → ∃ t, exec (.insert hart cmd) s = .next t ∧
      t.hubGet (statOf h) = 0 ∧ SameRegisters s t [statOf h] ∧ t.entryAt a = e ∧ sameOutside s t a 16 ∧ MemHub s t) ∧
    (legal → held arg0 = [] → TableEnds (.remove hart cmd) s h 2 s) ∧
    (∀ a, legal → held arg0 = [a] → NotGranted s desc (pageLo z arg0) (pageLo z arg0 + 2 ^ pageShift z) → Performed s →
      Apart a 16 (desc + 0x60) 8 → ∃ t, exec (.remove hart cmd) s = .next t ∧ t.hubGet (statOf h) = 0 ∧
        SameRegisters s t [statOf h] ∧ t.entryAt a = 0 ∧ sameOutside s t a 16 ∧
        Unfetched s t desc (pageLo z arg0) (pageLo z arg0 + 2 ^ pageShift z)) ∧
    (legal → held va = [] → TableEnds (.modify hart cmd) s h 2 s) ∧
    (∀ a, legal → good → held va = [a] → NotGranted s desc va (va + 2 ^ pageShift z) → Performed s → Apart a 16 (desc + 0x60) 8 →
      ∃ t, exec (.modify hart cmd) s = .next t ∧ t.hubGet (statOf h) = 0 ∧ SameRegisters s t [statOf h] ∧ t.entryAt a = e ∧
        sameOutside s t a 16 ∧ Unfetched s t desc va (va + 2 ^ pageShift z)) ∧
    (let new := s.readNat (desc + 0x18 * z + 8) 8
     let fits := field arg0 5 5 = 1 ∧ field arg0 11 6 = 0 ∧ field arg0 63 52 = 0 ∧ 4 ≤ field arg0 4 0 ∧ field arg0 4 0 ≤ 24 ∧
       field arg0 4 0 ≠ field cur 4 0
     (¬ legal → TableEnds (.resize hart cmd) s h 9 s) ∧
     (legal → field new 5 5 = 1 → TableEnds (.resize hart cmd) s h 6 s) ∧
     (legal → field new 5 5 = 0 → ¬ fits → TableEnds (.resize hart cmd) s h 4 s) ∧
     (legal → field new 5 5 = 0 → fits → ∃ t, exec (.resize hart cmd) s = .next t ∧ t.hubGet (statOf h) = 0 ∧
       SameRegisters s t [statOf h] ∧ t.readNat (desc + 0x18 * z + 8) 8 = arg0 ∧ t.readNat (desc + 0x18 * z + 16) 8 = 0 ∧
       sameOutside s t (desc + 0x18 * z + 8) 16 ∧ t.tableResize = s.tableResize ++ [⟨BitVec.ofNat 52 desc, z, false⟩] ∧
       MemHub s { t with tableResize := s.tableResize })) ∧
    (NotGranted s desc 0 (2 ^ 57) → Performed s → ∃ t, exec (.flush hart cmd) s = .next t ∧ t.hubGet (statOf h) = 0 ∧
      SameRegisters s t [statOf h] ∧ sameMemory s t ∧ Unfetched s t desc 0 (2 ^ 57)) ∧
    (¬ NotGranted s desc 0 (2 ^ 57) → ∃ t f, exec (.flush hart cmd) s = .next t ∧ t.hubField (statOf h) 0 0 = 1 ∧
      t.flushWait = some f ∧ f.hart = h ∧ f.result = 0 ∧ f.since = s.gtime ∧ f.rids ≠ [] ∧ t.mem = s.mem ∧
      let pasid := BitVec.ofNat 20 (s.readNat (desc + 0x60) 8)
      ∃ asked : List (Nat × BitVec 16), asked.Nodup ∧
        (∀ e, e ∈ asked ↔ ∃ g ∈ s.atsHolders, g.pasid = pasid ∧ g.va < 2 ^ 57 ∧ e = (g.port, g.rid)) ∧
        (∀ r, r ∈ f.rids ↔ ∃ e ∈ asked, e.2 = r) ∧
        t.out = s.out ++ asked.map fun e => s.tlp e.1 (.invalidate e.2 pasid))) ∧
  (∀ f rid, s.flushWait = some f → let stat := statOf f.hart
    (f.rids.filter (· ≠ rid) ≠ [] → ∃ g, exec (.invalidationAcknowledge rid) s = .next { s with flushWait := some g } ∧
      g.rids = f.rids.filter (· ≠ rid) ∧ g.hart = f.hart ∧ g.result = f.result) ∧
    (f.rids.filter (· ≠ rid) = [] → Over s f → ∃ t, exec (.invalidationAcknowledge rid) s = .next t ∧
      t.hubGet stat = 16 * f.result ∧ t.flushWait = none ∧ SameRegisters s t [stat] ∧ t = { s with hub := t.hub, flushWait := none }) ∧
    let late := f.since.toNat + 10000000 ≤ s.gtime.toNat
    (¬ late → exec .atsInvalidationTimeout s = .next s) ∧
    (late → f.rids ≠ [] → Over s f → ∃ t, exec .atsInvalidationTimeout s = .next t ∧ t.hubGet stat = 16 * 7 ∧ t.flushWait = none ∧
      SameRegisters s t [stat] ∧ (∀ r, r ∈ t.distrusted ↔ r ∈ f.rids ∨ r ∈ s.distrusted) ∧
      t = { s with hub := t.hub, flushWait := none, distrusted := t.distrusted })) ∧
  (∀ r : Resize, (∀ q ∈ s.tableResize, q.desc = r.desc → q.size = r.size → q = r) →
    let o := r.desc.toNat + 0x18 * r.size
    let cur := s.readNat o 8
    let new := s.readNat (o + 8) 8
    let i := field (s.readNat (o + 16) 8) 24 0
    let slots := (List.range 3).flatMap fun w => (List.range 4).map fun j =>
      field cur 51 12 * 4096 + (w * 2 ^ field cur 4 0 + i) * 64 + 16 * j
    let homes := fun (e : Nat) => ((List.range 3).filter fun w => bucketHash w (entryVa e >>> pageShift r.size) (field cur 4 0) ≤ i).flatMap
      fun w => (List.range 4).map fun j =>
        field new 51 12 * 4096 + (w * 2 ^ field new 4 0 + bucketHash w (entryVa e >>> pageShift r.size) (field new 4 0)) * 64 + 16 * j
    let free := fun (t : State) (a : Nat) => field (t.entryAt a) 0 0 = 0
    let run := fun (i' : Instr) => (∀ a ∈ slots, Apart a 16 o 24) →
      let after := fun (t : State) => exec i' s = .next t ∧ (∀ a ∈ slots, t.entryAt a = 0) ∧
        (i + 1 < 2 ^ field cur 4 0 → t.readNat (o + 16) 8 = i + 1 ∧ t.readNat o 8 = cur ∧ t.readNat (o + 8) 8 = new ∧
          t.tableResize = s.tableResize.map (fun q => if q = r then { r with held := false } else q) ∧ t.resizeDone = s.resizeDone) ∧
        (i + 1 = 2 ^ field cur 4 0 → field cur 4 0 ≤ 24 → t.readNat o 8 = new ∧ field (t.readNat (o + 8) 8) 5 5 = 0 ∧
          t.readNat (o + 16) 8 = 0 ∧ t.tableResize = s.tableResize.filter (· ≠ r) ∧ t.resizeDone = s.resizeDone + 1) ∧
        t.hub = s.hub ∧ t.waves = s.waves
      ((∀ a ∈ slots, free s a) → ∃ t, after t) ∧
      ∀ a b, a ∈ slots → ¬ free s a → (∀ c ∈ slots, c ≠ a → free s c) → slots.Nodup →
        (∀ h ∈ homes (s.entryAt a), Apart h 16 o 24 ∧ ∀ c ∈ slots, Apart h 16 c 16) →
        ((homes (s.entryAt a)).find? fun h => field (s.entryAt h) 0 0 != 1) = some b →
        ∃ t, after t ∧ t.entryAt b = s.entryAt a ∧ ∀ h ∈ homes (s.entryAt a), h ≠ b → Apart h 16 b 16 → t.entryAt h = s.entryAt h
    i + 1 < 2 ^ 25 → (s.tableResize.find? (fun q => !q.held) = some r → run .resizeMigrateStep) ∧
      (s.tableResize.filter (fun q => q.held) = [r] → run .resizeRetry)) ∧
  exec (.tblAck 1) s = .next { s with resizeDone := s.resizeDone - 1 } ∧
  (∀ d, d ≠ 1 → exec (.tblAck d) s = .next s) ∧
  (∀ r : PriRequest, ¬ Admitted s r.port r.rid false r.badEcrc → TurnedAway (.pageRequest r) s r.port) ∧
  (HasRoom s 0x4100 →
    let space := fun (r : PriRequest) =>
      let defp := 0x4400 + 8 * r.port.val
      r.pasid.getD (if s.hubField defp 20 20 = 1 then BitVec.ofNat 20 (s.hubField defp 19 0) else 0)
    (∀ before r after, s.requests = before ++ r :: after → r.rtag = none → (∀ q ∈ before, q.rtag ≠ none) → ∃ t tag,
      let r' := { r with rtag := some tag }
      exec .prqAppend s = .next t ∧ Appended s t 0x4100 (requestByte r' s.gtime) ∧ t.requests = before ++ r' :: after ∧
      (s.requests.length < 2 ^ 16 → ∀ q ∈ s.requests, q.rtag ≠ some tag) ∧
      MemHub s { t with requests := s.requests, nextRtag := s.nextRtag }) ∧
    (∀ (r : PriRequest), Admitted s r.port r.rid false r.badEcrc → ∃ t tag, let q : PageReq :=
        { rtag := some tag, pri := true, pasid := space r, pv := r.pasid.isSome, va := r.va, rd := r.rd, wr := r.wr,
          ex := r.ex, perm := false, priv := r.priv, last := r.last, who := r.rid, prg := r.prg, cnt := 0, port := r.port }
      exec (.pageRequest r) s = .next t ∧ Appended s t 0x4100 (requestByte q s.gtime) ∧ t.requests = s.requests ++ [q] ∧
      MemHub s { t with requests := s.requests, nextRtag := s.nextRtag })) ∧
  (¬ HasRoom s 0x4100 → exec .prqAppend s = .next s ∧ ∀ (r : PriRequest), Admitted s r.port r.rid false r.badEcrc → ∃ t,
    exec (.pageRequest r) s = .next t ∧ t.out = s.out ++ [s.tlp r.port (.prg r.rid r.prg 0)] ∧ Counts s t 0x4108 32 32 ∧ SameRegisters s t [0x4108] ∧
    t = { s with hub := t.hub, out := t.out }) ∧
  ∀ d : DWord, let tag := d.extractLsb' 0 16
    let code := d.extractLsb' 16 2
    let found := s.requests.find? fun r => r.rtag == some tag
    (found = none → ∃ t, exec (.prqResp d) s = .next t ∧ Logged s t (faultOf 6 1 none 0 0) ∧ MemHub s t) ∧
    (∀ r, found = some r → code = 3 → ∃ t, exec (.prqResp d) s = .next t ∧ Logged s t (faultOf 6 2 none 0 0) ∧ MemHub s t) ∧
    (∀ r, found = some r → r.pri = true → code ≠ 3 → exec (.prqResp d) s = .next
      { s with requests := s.requests.filter (fun q => q.rtag ≠ some tag), out := s.out ++ [s.tlp r.port (.prg r.who r.prg code.toNat)] }) ∧
    (∀ r, found = some r → r.pri = false → code ≠ 3 → (∀ e ∈ s.waves, ∀ u ∈ e.2.threads, u.2.block = none) →
      (∀ c ∈ s.crews, c.2.live = true → c.2.resident = true) →
      let answered := fun (p : PageWait) => if r.pasid = p.pasid ∧ r.va.toNat / 4096 = p.va.toNat / 4096 ∧ r.rd = p.rd ∧
        r.wr = p.wr ∧ r.ex = p.ex ∧ r.perm = p.perm ∧ p.answer = none then { p with answer := some code } else p
      ∃ t, exec (.prqResp d) s = .next t ∧ t.requests = s.requests.filter (fun q => q.rtag ≠ some tag) ∧
        (∀ k l, t.thread k l = s.thread k l) ∧
        (∀ k, (t.wave k).log = (s.wave k).log.map fun e => { e with lanes := e.lanes.map fun l => { l with page := answered l.page } }) ∧
        t.mem = s.mem ∧ t.hub = s.hub ∧ t.inputs = s.inputs)

namespace Sys2Proof.Says

/-- `t` is `s` but for hub registers. -/
def HubOnly (s t : State) (os : List Nat) : Prop := t = { s with hub := t.hub } ∧ SameRegisters s t os

/-- The result of the last access of a hart, and all of the harts else as in `p`. -/
def Gave (p t : State) (h : Nat) (r : LoamResult) : Prop :=
  t.hartAt h = { p.hartAt h with result := r } ∧ ∀ g, g ≠ h → t.hartAt g = p.hartAt g

/-- No hart holds a reservation of a line that [a, a + n) meets. -/
def Unreserved (s : State) (a n : Nat) : Prop :=
  ∀ h line, (s.hartAt h).reserved = some line → line < a / 64 ∨ (a + n - 1) / 64 < line

end Sys2Proof.Says

/-- R5, R6, R53, R100, R106, R107, R109, R116 to R118, R120, R122 to R125, R297, R130, R131, R160, R161, R527. The hub's registers and the Loam
harts: writes by field type, machine-mode registers, registers that act, the window of a hart onto the engine queues, timers
and the time source, the failure queue; and accesses of a hart to memory, with reservations. Loam accesses follow the
privileged architecture that R105 names (log 51), fetches from the boot image the reading of log 52, the corners of the time
source that of log 53; how long the rewriting of a capture entry lasts is the model's choice (log 70). -/
def Obligations.HubSteps : Prop := ∀ (s : State),
  (∀ d : DWord, let line := field d.toNat 51 6
    ∃ t, exec (.wakePort d) s = .next t ∧ ({ t with harts := s.harts, inputs := s.inputs } : State).kept = s.kept ∧
      (∀ i, i ∈ t.inputs ↔ i ∈ s.inputs ∨ ∃ e ∈ s.launches, i = .afterEventSatisfied e.1 ∧ e.2.state = .waitEv ∧
        e.2.ended = false ∧ line ∈ e.2.lines) ∧
      (∀ k l, t.thread k l = { s.thread k l with block := (s.thread k l).block.map fun b => b.woken line }) ∧
      ∀ h < 16, t.hartAt h =
        if (s.hartAt h).reserved = some line then { s.hartAt h with reserved := none, stall := none } else s.hartAt h) ∧
  (∀ (hart : Fin 16) (d : DWord), let w := 0x20000 + 0x1000 * hart.val
    let q := s.hubField (w + 0x40) 11 0
    let pasid : BitVec 20 := BitVec.ofNat 20 (s.hubField (w + 0x48) 19 0)
    let words := (List.range 16).map fun i => (BitVec.ofNat 32 (s.hubGet (w + 8 * (i / 2)) / 2 ^ (32 * (i % 2))) : Word)
    let answers := fun (t : State) (r : Nat) => t.hubField (w + 0x58) 1 0 = r ∧ SameRegisters s t [w + 0x58]
    let stored := ∃ o ∈ s.outstanding, o.who = .hart hart ∧ o.access.kind = .store
    (d.getLsbD 0 = false → exec (.submit hart d) s = .next s) ∧
    (d.getLsbD 0 = true → stored → exec (.submit hart d) s = .next (s.modHart hart fun x => { x with waits := some (.submit hart d) })) ∧
    (¬ stored →
    (d.getLsbD 0 = true → q < 256 → (s.queueAt q).length < 64 → s.spaceOf pasid.toNat ≠ none → ∃ t,
      exec (.submit hart d) s = .next t ∧ answers t 0 ∧ t.queueAt q = s.queueAt q ++ [⟨words, pasid, none, 0, false⟩] ∧
      (∀ j, j ≠ q → t.queueAt j = s.queueAt j) ∧ t = { s with hub := t.hub, queues := t.queues }) ∧
    (d.getLsbD 0 = true → q < 256 → 64 ≤ (s.queueAt q).length → s.spaceOf pasid.toNat ≠ none → ∃ t,
      exec (.submit hart d) s = .next t ∧ answers t 1 ∧ t = { s with hub := t.hub }) ∧
    (d.getLsbD 0 = true → 0x142 ≤ q → q ≠ 0x1F0 → ∃ t, exec (.submit hart d) s = .next t ∧ answers t 2 ∧ t = { s with hub := t.hub }) ∧
    (d.getLsbD 0 = true → q < 256 → s.spaceOf pasid.toNat = none → ∃ t, exec (.submit hart d) s = .next t ∧ answers t 3 ∧
      t = { s with hub := t.hub }))) ∧
  (∀ hart : Fin 16, ∃ t, exec (.machineTimer hart) s = .next t ∧ t = { s with harts := t.harts } ∧
    t.hartAt hart = { s.hartAt hart with mtip := decide (s.hubGet (0x5100 + 8 * hart.val) ≤ s.gtime.toNat) } ∧
    ∀ g, g ≠ hart.val → t.hartAt g = s.hartAt g) ∧
  (∀ d : DWord, exec (.slew true d) s = .next { s with slewLeft := d.toInt, slewAcc := 0 } ∧ exec (.slew false d) s = .next s) ∧
  (∀ d : DWord, let used := (∃ e ∈ s.launches, e.2.state = .active ∧ e.2.ended = false) ∨ ∃ e ∈ s.thyme, e.2.valid = true
    exec (.gtimeSet false d) s = .next s ∧
    (used → ∃ t, exec (.gtimeSet true d) s = .next t ∧ Logged s t (faultOf 0x0C 0 none 0 0) ∧ MemHub s t) ∧
    (¬ used → exec (.gtimeSet true d) s = .next { s with gtime := d, sourceSeen := d - (s.gtime - s.sourceSeen) })) ∧
  (∀ seconds valid, ∃ t, exec (.ppsEdge seconds valid) s = .next t ∧ t.hubGet 0x5308 = s.gtime.toNat ∧
    t.hubField 0x5310 47 0 = seconds.toNat ∧ t.hubField 0x5310 63 63 = valid.toNat ∧ SameRegisters s t [0x5308, 0x5310] ∧
    t = { s with hub := t.hub, sourceSeen := if s.hubField 0x5300 1 0 = 1 then s.gtime else s.sourceSeen }) ∧
  (let late := (s.hubField 0x5300 1 0 = 1 ∨ s.hubField 0x5300 1 0 = 2) ∧
     s.hubField 0x5300 31 16 * 1000000 ≤ (s.gtime - s.sourceSeen).toNat
   (late → ∃ t, exec .timeSourceLost s = .next t ∧ t.hubField 0x5318 0 0 = 1 ∧ SameRegisters s t [0x5318] ∧
     t = { s with hub := t.hub, sourceSeen := s.gtime }) ∧ (¬ late → exec .timeSourceLost s = .next s)) ∧
  (∀ r rest, s.failures = r :: rest → (¬ HasRoom s 0x4300 → exec .failureRecordAppend s = .next s) ∧
    (HasRoom s 0x4300 → r.launch = none → ∃ t, exec .failureRecordAppend s = .next t ∧ t.failures = rest ∧
      Appended s t 0x4300 (recordByte r s.gtime) ∧ MemHub s { t with failures := s.failures })) ∧
  (∀ mm (d : DWord), (∀ h < 16, ∃ t, exec (.registerWrite ⟨mm, 0x5100 + 8 * h, d, 0xFF⟩) s = .next t ∧
      t.hubGet (0x5100 + 8 * h) = d.toNat ∧ HubOnly s t [0x5100 + 8 * h]) ∧
    (∀ h < 16, ∃ t, exec (.registerWrite ⟨mm, 0x5100 + 8 * h, d, 0x0F⟩) s = .next t ∧
      t.hubField (0x5100 + 8 * h) 31 0 = field d.toNat 31 0 ∧
      t.hubField (0x5100 + 8 * h) 63 32 = s.hubField (0x5100 + 8 * h) 63 32 ∧ HubOnly s t [0x5100 + 8 * h]) ∧
    (∀ n < 4096, exec (.registerWrite ⟨false, 0x10000 + 16 * n, d, 0xFF⟩) s = .next s ∧
      (SMap.find s.captureOld n = none → s.captureNow n = (s.hubGet (0x10000 + 16 * n), s.hubField (0x10008 + 16 * n) 15 0)) ∧
      ∃ t, exec (.registerWrite ⟨true, 0x10000 + 16 * n, d, 0xFF⟩) s = .next t ∧
        t.hubField (0x10000 + 16 * n) 51 0 = field d.toNat 51 0 ∧
        t.hubField (0x10000 + 16 * n) 63 52 = s.hubField (0x10000 + 16 * n) 63 52 ∧
        (d.getLsbD 0 = false ∨ d.getLsbD 2 = false → SMap.find t.captureOld n = none) ∧
        (d.getLsbD 0 = true → d.getLsbD 2 = true → t.hubGet (0x10000 + 16 * n) ≠ s.hubGet (0x10000 + 16 * n) →
          (∀ c, SMap.find s.captureOld n = some c → c.parts.testBit 2 = false) → t.captureNow n = s.captureNow n) ∧
        HubOnly s { t with captureOld := s.captureOld } [0x10000 + 16 * n]) ∧
    (∃ t, exec (.registerWrite ⟨mm, 0x4208, d, 0xFF⟩) s = .next t ∧ t.hubField 0x4208 31 0 = s.hubField 0x4208 31 0 ∧
      t.hubField 0x4208 63 32 = (if field d.toNat 63 32 = 0 then s.hubField 0x4208 63 32 else 0) ∧ HubOnly s t [0x4208]) ∧
    (∃ t, exec (.registerWrite ⟨mm, 0x10, d, 0xFF⟩) s = .next t ∧ t.hubGet 0x10 = s.hubGet 0x10 ∧ HubOnly s t [0x10]) ∧
    exec (.registerWrite ⟨mm, 0x20, d, 0xFF⟩) s = .next s ∧
    exec (.registerWrite ⟨mm, 0x5218, d, 0xFF⟩) s = .next { s with inputs := .gtimeSet mm d :: s.inputs }) ∧
  ∀ (hart : Fin 16) (va : DWord) (n : Nat) (acq rel : Bool), let h := hart.val
    let a := va.toNat
    let go := fun (op : LoamOp) => Instr.loamAccess { hart := hart, mode := .m, va := va, size := n, op := op, acq := acq, rel := rel }
    (s.hartAt h).inService = true → (s.hartAt h).stall = none → (s.hartAt h).waits = none → (∀ o ∈ s.outstanding, o.who ≠ .hart h) → s.boot.safe = false →
    5 ≤ s.hubField 0 3 0 → n ∈ [1, 2, 4, 8] →
    let old := leNat (s.bytes a n)
    let value := fun (v : Nat) => LoamResult.value (BitVec.ofNat 64 v)
    (s.regionAt a = .hbm → Local s a n →
      (s.poisonIn a n = false → ∃ t, exec (go .load) s = .next t ∧ Gave s t h (value old) ∧ t = { s with harts := t.harts }) ∧
      (s.poisonIn a n = true → ∃ t, exec (go .load) s = .next t ∧ Gave s t h (.accessFault .load) ∧ t = { s with harts := t.harts }) ∧
      (∀ d, Unreserved s a n → ∃ t, exec (go (.store d)) s = .next t ∧ Stores s t a (bytesOf d.toNat n) ∧ t.out = s.out ∧
        Gave s t h .stored) ∧
      (∀ f d v, Unreserved s a n → s.poisonIn a n = false →
        (f, v) ∈ [(AmoOp.add, old + d.toNat), (.swap, d.toNat), (.xor, old ^^^ d.toNat), (.and, old &&& d.toNat), (.or, old ||| d.toNat)] →
        ∃ t, exec (go (.amo f d)) s = .next t ∧ Stores s t a (bytesOf v n) ∧ t.out = s.out ∧ Gave s t h (value old)) ∧
      (s.poisonIn a n = false → a % n = 0 → ∃ t, exec (go .loadReserved) s = .next t ∧ t = { s with harts := t.harts } ∧
        Gave (s.modHart h fun x => { x with reserved := some (a / 64) }) t h (value old)) ∧
      (∀ d, a % n = 0 → (s.hartAt h).reserved ≠ some (a / 64) → ∃ t, exec (go (.storeConditional d)) s = .next t ∧
        t = { s with harts := t.harts } ∧ Gave (s.modHart h fun x => { x with reserved := none }) t h .scFailed) ∧
      (∀ d, a % n = 0 → (s.hartAt h).reserved = some (a / 64) → ∃ t, exec (go (.storeConditional d)) s = .next t ∧
        Stores s t a (bytesOf d.toNat n) ∧ (t.hartAt h).reserved = none ∧ (t.hartAt h).result = .stored)) ∧
    (s.regionAt a = .unassigned → ∃ t, exec (go .load) s = .next t ∧ Gave s t h (.accessFault .load) ∧
      t = { s with harts := t.harts }) ∧
    (∀ o, o < 0x100000 → a = 0x80000000000 + o → o % 8 = 0 → n = 8 → ∃ t, exec (go .load) s = .next t ∧
      Gave s t h (value (s.hubRead o)) ∧ t = { s with harts := t.harts }) ∧
    (∃ t, exec (go .time) s = .next t ∧ Gave s t h (value s.gtime.toNat) ∧ t = { s with harts := t.harts }) ∧
    ∀ v : DWord, field v.toNat 63 60 = 15 →
      (∃ t, exec (go (.csrWrite .hgatp v)) s = .next t ∧ (t.hartAt h).result = .done ∧
        field (t.hartAt h).hgatp.toNat 63 60 = field (s.hartAt h).hgatp.toNat 63 60 ∧ t = { s with harts := t.harts }) ∧
      ∃ t, exec (go (.csrWrite .satp v)) s = .next t ∧ t = { s with harts := t.harts } ∧ t.hartAt h = { s.hartAt h with
        satp := if field v.toNat 43 40 = 0 then v else (s.hartAt h).satp, result := .done }

namespace Sys2Proof.Says

/-- Words 0 and 1 of PART_CFG (R134). -/
def partAt (p : Nat) : Nat := 0x7000 + 0x40 * p

/-- A write of word 1 sets AGE, where it is 16 or more, PMAXM1 and QUANTUM (R134). -/
structure PartFields (s t : State) (p d : Nat) : Prop where
  age : t.hubField (partAt p + 8) 35 24 = if 16 ≤ field d 35 24 then field d 35 24 else s.hubField (partAt p + 8) 35 24
  limit : t.hubField (partAt p + 8) 51 36 = field d 51 36
  quantum : t.hubField (partAt p + 8) 59 52 = field d 59 52
  others : SameRegisters s t [partAt p + 8]
  rest : t = { s with hub := t.hub, residents := t.residents, residentSince := t.residentSince }

/-- The conditions of R135 on EN = 1. -/
structure CanEnable (s : State) (p pasid : Nat) : Prop where
  clusters : s.partClusters p ≠ 0
  available : s.partClusters p &&& s.hubGet 0x10 = s.partClusters p
  space : s.spaceOf pasid ≠ none
  agree : ∀ q < 16, q ≠ p → s.partEn q = true → s.partClusters p = s.partClusters q ∨ s.partClusters p &&& s.partClusters q = 0

/-- A partition of the swap set of `p` (R136). -/
def Member (s : State) (p m : Nat) : Prop := s.partEn m = true ∧ s.partClusters m = s.partClusters p

/-- The launch, which is no task wave, is accepted and not over, in a state, in a partition. -/
def LaunchIn (x : LState) (p : Nat) (e : Nat × Launch) : Prop :=
  e.2.record.part = p ∧ e.2.ended = false ∧ e.2.task = none ∧ e.2.state = x

/-- No member of the swap set of `p` is part of a swap in progress (R159). -/
def Settled (s : State) (p : Nat) : Prop := ∀ m < 16, Member s p m → s.swapping m = false

/-- The saved waves of a crew hold no thread that waits, so that the crew only goes on when it comes back. -/
def Unblocked (x : Crew) : Prop := ∀ e ∈ x.saved, ∀ u ∈ e.2.threads, u.2.block = none

/-- The resident member `a` gives way to `b` (R158). -/
def GivesWay (s : State) (a b : Nat) : Prop :=
  ∃ e ∈ s.launches, LaunchIn .ready b e ∧
    ((∀ f ∈ s.launches, LaunchIn .ready a f ∨ LaunchIn .active a f → f.2.record.prio < e.2.record.prio) ∨
      (s.hubField (partAt a + 8) 59 52 ≠ 0 ∧
        s.hubField (partAt a + 8) 59 52 * 100000 ≤ s.gtime.toNat - (SMap.get s.residentSince a 0).toNat ∧
        ∀ f ∈ s.launches, LaunchIn .ready a f ∨ LaunchIn .active a f → f.2.record.prio ≤ e.2.record.prio))

/-- No wave, crew or Thyme entry belongs to launch `n`. -/
def Unplaced (s : State) (n : Nat) : Prop :=
  (∀ e ∈ s.waves, e.2.live = true → e.2.launch ≠ n) ∧ (∀ e ∈ s.crews, e.2.live = true → e.2.launch ≠ n) ∧
    ∀ i < 64, (s.thymeAt i).instLaunch ≠ some n

/-- The steps that are due become those of `own` and, for every swap set with a member that is not resident, its decision: an acceptance
(R140, R158). -/
def Decides (s t : State) (own : List Instr) : Prop :=
  ∀ i, i ∈ t.inputs ↔ i ∈ s.inputs ∨ i ∈ own ∨ ∃ q : Fin 16, i = .swapDecision q ∧ s.partEn q = true ∧
    (∀ m < q.val, ¬ Member s q m) ∧ ∃ m < 16, Member s q m ∧ s.resident m = false

/-- `t` is `u` after an acceptance that makes nothing else due. -/
def AcceptedIn (s u t : State) : Prop := t = { u with inputs := t.inputs } ∧ Decides s t []

/-- `i` makes launch `n` of `p` fault: its threads stop, and its record waits for the failure queue (R149, R150); a launch that has
placed nothing leaves no other trace, but for the decisions of an acceptance. -/
def FaultsLaunch (i : Instr) (s p : State) (n : Nat) (sub : Byte) (addr who : DWord) (accepts : Bool) : Prop :=
  let l := p.launchAt n
  let r : Record := ⟨0x40, sub, l.record.pasid, true, addr, who, some n⟩
  ∃ t, exec i s = .next t ∧ t.launchAt n = { l with state := .faulted, ended := true } ∧ t.failures = p.failures ++ [r] ∧
    (∀ k, (t.wave k).live = true → (t.wave k).launch = n → ∀ e ∈ (t.wave k).threads, e.2.exited = true) ∧
    (∀ m, m ≠ n → t.launchAt m = p.launchAt m) ∧ t.queues = p.queues ∧ t.mem = p.mem ∧ t.hub = p.hub ∧
    (Unplaced p n → let u := { p.setLaunch n { l with state := .faulted, ended := true } with failures := p.failures ++ [r] }
      (accepts = false → t = u) ∧ (accepts = true → AcceptedIn p u t))

/-- The thread of a new crew (R148). -/
def Started (w : Wave) (l : Launch) (i : Nat) : Prop :=
  let t := w.thread i
  t.pc = l.record.entry ∧ t.mr = BitVec.allOnes 57 ∧ t.wb = 0 ∧ t.regs = [] ∧ t.preds = 0 ∧ t.draw = 0 ∧ t.trapMode = false ∧
    t.exited = false ∧ t.parked = false ∧ t.block = none

end Sys2Proof.Says

/-- R134 to R136, R140, R142, R143, R145, R148, R149, R151, R154, R155, R157 to R159, R232. Partitions: enabling, disabling, the
choice of a swap, the swap; launches: LAUNCH, CANCEL, after-events, the two ends; crews: placement on the emptiest core with
the start values of their threads, pre-emption, the limit of a window, migration. What a malformed launch does is read as log
41 says, after-events as log 42, the choice of slots and log areas is the model's (log 45), migration is read as log 46 says, that a
cancellation lets operations of the safe slot end as log 66, and a write of AGE below 16 leaves AGE and sets the other fields as log 50
(DEDUCED). -/
def Obligations.ScheduleSteps : Prop := ∀ (s : State),
  (∀ (p : Fin 16) (d : DWord), let o := partAt p + 8
    let err := if field d.toNat 21 21 = 1 then 0 else s.hubField o 21 21
    exec (.partitionEnable false p d) s = .next s ∧ exec (.partitionDisable false p d) s = .next s ∧
    (s.partEn p = false → CanEnable s p (field d.toNat 19 0) → s.resident p = false → ∃ t,
      exec (.partitionEnable true p d) s = .next t ∧ PartFields s t p d.toNat ∧ t.partEn p = true ∧
      t.hubField o 19 0 = field d.toNat 19 0 ∧ t.hubField o 21 21 = err ∧ (∀ q, q ≠ p.val → t.resident q = s.resident q) ∧
      (t.resident p = true ↔ (∀ q < 16, q ≠ p.val → Member s p q → s.resident q = false) ∧
        ∀ v ∈ s.swaps, s.partClusters v.fromPart ≠ s.partClusters p ∧ s.partClusters v.toPart ≠ s.partClusters p)) ∧
    (s.partEn p = false → ¬ CanEnable s p (field d.toNat 19 0) → ∃ t, exec (.partitionEnable true p d) s = .next t ∧
      PartFields s t p d.toNat ∧ t.partEn p = false ∧ t.hubField o 21 21 = 1 ∧ ∀ q, t.resident q = s.resident q) ∧
    (s.partEn p = true → (∀ e ∈ s.launches, e.2.record.part = p → e.2.task = none → e.2.ended = true) → ∃ t,
      exec (.partitionDisable true p d) s = .next t ∧ PartFields s t p d.toNat ∧ t.partEn p = false ∧
      t.hubField o 19 0 = s.hubField o 19 0 ∧ t.hubField o 21 21 = err ∧ t.resident p = false ∧
      ∀ q, q ≠ p.val → t.resident q = s.resident q) ∧
    ∀ e ∈ s.launches, e.2.record.part = p → e.2.task = none → e.2.ended = false → s.partEn p = true → ∃ t,
      exec (.partitionDisable true p d) s = .next t ∧ PartFields s t p d.toNat ∧ t.partEn p = true ∧ t.hubField o 21 21 = 1 ∧
      ∀ q, t.resident q = s.resident q) ∧
  (∀ (p a : Fin 16), Member s p a → s.resident a = true → (∀ m : Fin 16, Member s p m → s.resident m = true → m = a) →
    ((∀ m : Fin 16, Member s p m → m ≠ a → ¬ GivesWay s a m) → exec (.swapDecision p) s = .next s) ∧
    (¬ Settled s p ∨ s.slotsForSwap p = false → exec (.swapDecision p) s = .next s) ∧
    ∀ b : Fin 16, Member s p b → b ≠ a → GivesWay s a b →
      (∀ m : Fin 16, Member s p m → m ≠ a → m ≠ b → ∀ e ∈ s.launches, ¬ LaunchIn .ready m e) → Settled s p →
      s.slotsForSwap p = true → exec (.swapDecision p) s = .next { s with inputs := .partitionSwap a b :: s.inputs }) ∧
  (∀ (a b : Fin 16), let w : Swap := ⟨a, b, false⟩
    let saved : Swap := ⟨a, b, true⟩
    (Settled s b → s.partEn b = true → s.resident b = false → s.partClusters a = s.partClusters b →
      exec (.partitionSwap a b) s = .next { s with swaps := s.swaps ++ [w] }) ∧
    (w ∈ s.swaps → s.halted a = false → exec (.partitionSwapDone a b) s = .next s) ∧
    (w ∈ s.swaps → s.halted a = true → ∃ t, exec (.partitionSwapDone a b) s = .next t ∧
      t.swaps = s.swaps.map (fun v => if v = w then saved else v) ∧ t.resident a = false ∧
      (∀ q, q ≠ a.val → t.resident q = s.resident q) ∧ t.mem = s.mem ∧ t.hub = s.hub ∧ t.launches = s.launches ∧
      ∀ c ∈ s.partCrews a true, (t.crew c).resident = false ∧ (t.crew c).slots = (s.crew c).slots ∧
        ∀ k ∈ s.crewKeys c, (t.wave k).live = false) ∧
    (w ∉ s.swaps → saved ∈ s.swaps → (s.partCrews b false = [] ∨ ∃ c, s.partCrews b false = [c] ∧ Unblocked (s.crew c)) →
      ∃ t, exec (.partitionSwapDone a b) s = .next t ∧ t.swaps = s.swaps.filter (· ≠ saved) ∧ t.resident b = s.partEn b ∧
      (∀ q, q ≠ b.val → t.resident q = s.resident q) ∧ t.mem = s.mem ∧ t.hub = s.hub ∧ t.launches = s.launches ∧
      ∀ c ∈ s.partCrews b false,
        (s.coreInService (s.crew c).core = true → (t.crew c).resident = true ∧ (t.crew c).slots = (s.crew c).slots) ∧
        (s.coreInService (s.crew c).core = false → t.waves = s.waves ∧ t.crew c = { s.crew c with slots := [] }))) ∧
  (∀ (c : QCmd) (rest : List QCmd), s.queueAt 0x140 = c :: rest →
    let p := s.setQueue 0x140 rest
    let n := nextKey s.launches
    let fails := fun (i : Instr) (u : State) (sub : Byte) => ∃ t, exec i s = .next t ∧ (t.launchAt n).state = .faulted ∧
      (t.launchAt n).ended = true ∧ t.failures = s.failures ++ [⟨0x40, sub, c.pasid, true, 0, 0, some n⟩] ∧
      t.queueAt 0x140 = rest ∧ t.mem = u.mem ∧ ∀ m, m ≠ n → t.launchAt m = s.launchAt m
    let kept := fun (i : Instr) (u : State) (sub : Byte) => ∃ t, exec i s = .next t ∧
      AcceptedIn s { u with failures := s.failures ++ [⟨0x40, sub, c.pasid, true, 0, 0, none⟩] } t
    let noSpace := fun (u : State) (pasid : BitVec 20) => Logged p u (faultOf 5 0 (some pasid) 0 0) ∧ MemHub p u
    let ok := c.launchOk = true ∧ c.word64 1 < 2 ^ 57 ∧ c.word64 1 % 1024 = 0
    (∀ bs, c.word64 0 % 256 = 1 → p.vaRead c.pasid (c.word64 1) 1024 = (p, some bs) →
      let r := recordOf (leNat bs)
      let part := partAt r.part + 8
      (¬ (ok ∧ recordOk (leNat bs) = true) → fails .launch s 1) ∧
      (ok → recordOk (leNat bs) = true →
        (s.spaceOf r.pasid.toNat = none → ∃ u, noSpace u r.pasid ∧ fails .launch u 2) ∧
        (s.spaceOf r.pasid.toNat ≠ none → r.pasid ≠ c.pasid ∨ s.hubField part 19 0 ≠ r.pasid.toNat → fails .launch s 2) ∧
        (r.pasid = c.pasid → s.hubField part 19 0 = r.pasid.toNat → s.spaceOf r.pasid.toNat ≠ none →
          (s.partEn r.part = false → fails .launch s 3) ∧ (s.partEn r.part = true → r.perCore = 0 → fails .launch s 4) ∧
          (s.partEn r.part = true → r.perCore ≠ 0 → r.cores = false → r.gtab = 0 →
            let waits := r.aev0 ≠ 0 ∨ r.aev1 ≠ 0
            ∃ t ls, exec .launch s = .next t ∧ (¬ waits → ls = [] ∧ t.hub = s.hub) ∧
            t = { p.setLaunch n { Launch.blank with
              tag := BitVec.ofNat 64 (c.word64 2), record := r
              argp := if BitVec.ofNat 64 (c.word64 3) = (0 : DWord) then r.argp else BitVec.ofNat 64 (c.word64 3)
              state := if r.aev0 = 0 ∧ r.aev1 = 0 then .ready else .waitEv
              accepted := n, ready := s.cycle, lines := ls, ended := false } with inputs := t.inputs, hub := t.hub } ∧
            (waits → Decides s t [.afterEventSatisfied n]) ∧ (¬ waits → Decides s t []))))) ∧
    (c.word64 0 % 256 = 1 → p.vaRead c.pasid (c.word64 1) 1024 = (p, none) →
      let sub : Byte := if c.launchOk = true ∧ c.word64 1 < 2 ^ 57 ∧ c.word64 1 % 1024 = 0 then 7 else 1
      (s.spaceOf c.pasid.toNat ≠ none → kept .launch p sub) ∧
      (s.spaceOf c.pasid.toNat = none → ∃ u, noSpace u c.pasid ∧ kept .launch u sub)) ∧
    (c.word64 0 % 256 ≠ 1 → kept .launch p 1) ∧
    (let good := c.launchOk = true ∧ c.word64 0 = 2 ∧ c.word64 1 = 0 ∧ c.word64 3 = 0
     let hit := s.launches.filter fun e => !e.2.ended && e.2.task.isNone && e.2.record.pasid == c.pasid && e.2.tag.toNat == c.word64 2
     (¬ good → kept .cancel p 1) ∧ (good → hit = [] → ∃ t, exec .cancel s = .next t ∧ AcceptedIn s p t) ∧
     ∀ m, good → hit = [(m, s.launchAt m)] → (s.safeInFlight m = false → FaultsLaunch .cancel s p m 0x0B 0 0 true) ∧
       (s.safeInFlight m = true → ∃ t, exec .cancel s = .next t ∧
         AcceptedIn s (p.setLaunch m { s.launchAt m with cancelled := true }) t))) ∧
  (∀ n, let l := s.launchAt n
    let r := l.record
    let isDone := { l with state := .done, ended := true }
    (l.state = .waitEv → l.ended = false → l.task = none → r.aev0 ≠ 0 → r.aev1 = 0 →
      (∀ bs, s.vaRead r.pasid r.aev0.toNat 8 = (s, some bs) → let met := r.aval0.toNat ≤ leNat bs
        ∃ ls, exec (.afterEventSatisfied n) s = .next (s.setLaunch n { l with
          record := { r with aev0 := if met then 0 else r.aev0 }, lines := ls, state := if met then .ready else .waitEv
          ready := s.cycle }) ∧ (met → ls = []) ∧ ∀ x ∈ ls, x ∈ l.lines) ∧
      (s.vaRead r.pasid r.aev0.toNat 8 = (s, none) → FaultsLaunch (.afterEventSatisfied n) s s n 7 0 0 false)) ∧
    (∀ sub addr who, l.ended = false → l.task = none → FaultsLaunch (.launchFault n sub addr who) s s n sub addr who false) ∧
    (l.cancelled = true → exec (.launchDone n) s = .next s) ∧
    (l.state = .active → l.ended = false → l.cancelled = false → l.task = none → l.nextCrew = r.ncrew → l.doneCrews = r.ncrew →
      (∀ i < 64, (s.thymeAt i).instLaunch ≠ some n) →
      (r.donew = 0 → exec (.launchDone n) s = .next (s.setLaunch n isDone)) ∧
      ∀ pa mt, ReachesIn s r.pasid r.donew.toNat .both pa mt 8 → r.donew ≠ 0 → r.donew.toNat % 8 = 0 → ∃ t,
        exec (.launchDone n) s = .next t ∧ t.launchAt n = isDone ∧ t.readNat pa 8 = (s.readNat pa 8 + 1) % 2 ^ 64 ∧
        sameOutside s t pa 8 ∧ (∀ m, m ≠ n → t.launchAt m = s.launchAt m) ∧ t.hub = s.hub) ∧
    (l.task = none → s.resident r.part = false → exec (.crewPlace n) s = .next s) ∧
    ∀ core, l.task = none → s.resident r.part = true → l.ended = false → l.cancelled = false → l.state = .ready ∨ l.state = .active →
      l.nextCrew < r.ncrew → r.cores = false → r.rbk = false → r.spw = 0 → s.preempted n = [] → s.coreFor l none = some core →
      (core ∈ s.partCores r.part ∧ s.fitsCore l core = true ∧ ∀ d ∈ s.partCores r.part, s.fitsCore l d = true →
        s.freeWaves d < s.freeWaves core ∨ (s.freeWaves d = s.freeWaves core ∧ core ≤ d)) ∧
      ∃ t, exec (.crewPlace n) s = .next t ∧ t = { s with waves := t.waves, crews := t.crews, launches := t.launches } ∧
        (let c := nextKey s.crews
         let x := t.crew c
         x = { Crew.blank with
           live := true, launch := n, number := l.nextCrew, resident := true, core := core, slots := x.slots } ∧
         x.slots.length = r.creww ∧ (∀ d, d ≠ c → t.crew d = s.crew d) ∧
         t.launchAt n = { l with nextCrew := l.nextCrew + 1, state := .active } ∧ (∀ m, m ≠ n → t.launchAt m = s.launchAt m) ∧
         (∀ k, k ∉ x.slots.map (waveKey core) → t.wave k = s.wave k) ∧
         ∀ i < r.creww, let k := waveKey core (x.slots.getD i 0)
           let w := t.wave k
           (s.wave k).live = false ∧ x.slots.getD i 0 / 16 = i % 4 ∧ w.live = true ∧ w.launch = n ∧ w.crew = c ∧ w.wid = i ∧
           w.tile = 32 ∧ w.role = .a ∧ w.kregs = [] ∧ w.log = [] ∧ (w.sreg 0).val = lo32 l.argp ∧ (w.sreg 1).val = hi32 l.argp ∧
           (∀ j, 2 ≤ j → w.sreg j = .zero) ∧ ∀ j < 32, Started w l j)) ∧
  (∀ c, let x := s.crew c
    let l := s.launchAt x.launch
    let stops := { s with crews := (s.setCrew c { x with stopping := true }).crews }
    (x.live = false ∨ x.resident = false → exec (.crewPreempt c) s = .next s) ∧
    (x.live = true → x.resident = true → l.record.cores = false → l.task = none → s.shadowRoom (x.core / 4) l.record = true →
      (s.savable c = false → exec (.crewPreempt c) s = .next stops) ∧
      (s.savable c = true → ∃ t, exec (.crewPreempt c) s = .next t ∧ (t.crew c).resident = false ∧ (t.crew c).slots = [] ∧
        (∀ i < x.slots.length, SMap.get (t.crew c).saved i .blank = (s.wave (waveKey x.core (x.slots.getD i 0))).context s.cycle) ∧
        (∀ p, ((t.crew c).page p).state ≠ .pinned) ∧ (∀ d, d ≠ c → t.crew d = s.crew d) ∧
        (∀ k ∈ s.crewKeys c, (t.wave k).live = false) ∧ (∀ k, k ∉ s.crewKeys c → t.wave k = s.wave k) ∧
        t = { s with waves := t.waves, crews := t.crews, latches := t.latches })) ∧
    (x.live = false ∨ x.resident = false → exec (.crewMigration c) s = .next s) ∧
    (s.otherMoves c = true → exec (.crewMigration c) s = .next s) ∧
    (x.live = true → x.resident = true → s.resident l.record.part = true → s.otherMoves c = false → s.coreFor l (some c) = none →
      s.victims l.record.part l.record.prio = [] → let stays := (s.setCrew c { x with stopping := false }).crews
      (s.coreInService x.core = false → exec (.crewMigration c) s = .next { s with crews := stays }) ∧
      (s.coreInService x.core = true → (s.coreAt x.core).iftDue = true → ∃ t, exec (.crewMigration c) s = .next t ∧
        t = { s with crews := stays, cores := t.cores } ∧ t.coreAt x.core = { s.coreAt x.core with testRetry := s.gtime + 10000000 } ∧
        ∀ n, n ≠ x.core → t.coreAt n = s.coreAt n)) ∧
    (x.live = true → x.resident = true → s.coreInService x.core = false → s.resident l.record.part = true → s.otherMoves c = false →
      ∀ core, s.coreFor l (some c) = some core → (s.savable c = false → exec (.crewMigration c) s = .next stops) ∧
        (s.savable c = true → (∀ k ∈ s.crewKeys c, ∀ u ∈ (s.wave k).threads, u.2.block = none) →
          ∃ t, exec (.crewMigration c) s = .next t ∧ (t.crew c).core = core ∧ (t.crew c).resident = true ∧
          (t.crew c).live = true ∧ (∀ d, d ≠ c → t.crew d = s.crew d) ∧ t.mem = s.mem ∧ t.hub = s.hub ∧ t.launches = s.launches))) ∧
  ∀ (core : Fin 256) (slot : Fin 64), let k := waveKey core slot
    let limit := s.hubField (partAt (s.recOf k).part + 8) 51 36 + 1
    (∀ m, (s.wave k).window = some m → limit ≤ m → ∃ t, exec (.preemptWindowLimit core slot) s = .next t ∧
      t.wave k = { s.wave k with window := none, wstat := (s.wave k).wstat ||| 16, setNow := (s.wave k).setNow ||| 16 } ∧
      OnlyWave s t k) ∧
    ((∀ m, (s.wave k).window = some m → m < limit) → exec (.preemptWindowLimit core slot) s = .next s)

namespace Sys2Proof.Says

/-- `i` reads the record `r` and finds a launch that it accepts (R142), for the space `pasid`; no group table. -/
structure Accepts (s : State) (pasid : BitVec 20) (va : Nat) (r : LaunchRec) (bs : List Byte) : Prop where
  aligned : va % 1024 = 0
  readable : s.vaRead pasid va 1024 = (s, some bs)
  formed : recordOk (leNat bs) = true
  record : r = recordOf (leNat bs)
  owner : r.pasid = pasid
  part : s.hubField (partAt r.part + 8) 19 0 = pasid.toNat
  space : s.spaceOf pasid.toNat ≠ none
  enabled : s.partEn r.part = true
  shape : r.perCore ≠ 0
  alone : r.cores = false
  table : r.gtab = 0

/-- Words 0 and 1 of TQ_CFG (R168). -/
def tqOf (q : Nat) : Nat := 0x9000 + 0x40 * q

/-- All but entry `i` of the Thyme table is unchanged, and the count of free values. -/
def ThymeOnly (s t : State) (i : Nat) : Prop :=
  t = { s with thyme := t.thyme, fresh := t.fresh } ∧ ∀ j, j ≠ i → t.thymeAt j = s.thymeAt j

/-- NEXT of entry `i` is `n`, or, where %gtime never reaches `n`, no slot is left and NEXT is a free value (log 66). -/
def NextSlot (s t : State) (i n : Nat) : Prop :=
  if n < 2 ^ 64 then (t.thymeAt i).next = BitVec.ofNat 64 n ∧ (t.thymeAt i).spent = false ∧ t.fresh = s.fresh
  else (t.thymeAt i).spent = true

/-- All but task queue `q` is unchanged. -/
def QueueOnly (s t : State) (q : Nat) : Prop := t = { s with tqs := t.tqs } ∧ ∀ j, j ≠ q → t.tqAt j = s.tqAt j

/-- A released task arrives at its queue as a post of its descriptor does, behind those that arrived before (R174, R176, R177). -/
def Arrives (s t : State) (q : Nat) (pasid : BitVec 20) (d : SlotAddr) : Prop :=
  (∃ c : QCmd, t.queueAt (0x100 + q) = s.queueAt (0x100 + q) ++ [c] ∧ c.names = true ∧ (d.toNat % 64 = 0 → c.postOk = true) ∧
    c.word64 1 = d.toNat ∧ c.pasid = pasid ∧ c.pusher = none) ∧ ∀ j, j ≠ 0x100 + q → t.queueAt j = s.queueAt j

/-- A failed task without a status word: FAILED and a record of kind 0x41 (R183). -/
def TaskFailed (s t : State) (q : Nat) (sub : Byte) (pasid : BitVec 20) (va : Nat) (who : DWord) : Prop :=
  Counts s t (tqOf q + 0x18) 32 32 ∧ t.failures = s.failures ++ [⟨0x41, sub, pasid, true, BitVec.ofNat 64 va, who, none⟩]

/-- The binding record of a queue is well formed (R169, R170). -/
structure Binds (s : State) (pasid : Nat) (v : Nat) : Prop where
  formed : recordOk v = true
  one : (recordOf v).creww = 1 ∧ (recordOf v).ncrew = 1 ∧ (recordOf v).gtab = 0 ∧ (recordOf v).cores = false ∧ (recordOf v).rbk = false
  quiet : (recordOf v).donew = 0 ∧ (recordOf v).aev0 = 0 ∧ (recordOf v).aev1 = 0
  space : (recordOf v).pasid.toNat = pasid ∧ s.hubField (partAt (recordOf v).part + 8) 19 0 = pasid
  part : s.partEn (recordOf v).part = true
  shape : (recordOf v).perCore ≠ 0

/-- Bits [hi:lo] of word `i` of a descriptor (R172). -/
def descField (t : Task) (i hi lo : Nat) : Nat := field (t.word i) hi lo

/-- A task lane as it starts (R182). -/
def TaskStarted (w : Wave) (lane : Nat) (t : Task) (v2 v3 : Word) : Prop :=
  let u := w.thread lane
  u.pc = BitVec.ofNat 57 (t.word 0) ∧ u.exited = false ∧ u.preds = 0 ∧ u.wb = 0 ∧ u.mr = BitVec.allOnes 57 ∧
    SMap.get u.regs 0 .zero = ⟨BitVec.ofNat 32 (t.word 1), false⟩ ∧ SMap.get u.regs 1 .zero = ⟨BitVec.ofNat 32 (t.word 1 / 2 ^ 32), false⟩ ∧
    SMap.get u.regs 2 .zero = ⟨v2, false⟩ ∧ SMap.get u.regs 3 .zero = ⟨v3, false⟩ ∧
    SMap.get u.regs 4 .zero = ⟨BitVec.ofNat 32 (descField t 6 63 32), false⟩ ∧ ∀ i, 5 ≤ i → SMap.get u.regs i .zero = .zero

/-- The task of a lane that has exited, with nothing of it in flight, in an unprotected task wave (R180). -/
structure Retires (s : State) (k lane q : Nat) (tl : TaskLane) : Prop where
  task : (s.launchOf k).task = some q
  prot : (s.recOf k).prot = false
  named : (s.crew (s.wave k).crew).taskOf lane = some tl
  unended : tl.ended = false
  live : (s.wave k).live = true ∧ (s.wave k).threads ≠ []
  exited : (s.thread k lane).exited = true ∧ (s.thread k lane).killed = false ∧ (s.thread k lane).copies = []
  quiet : (s.wave k).logHolds lane = false ∧ ∀ o ∈ s.outstanding, o.waveKey = k → o.lane ≠ lane
  room : s.releasedCount < 4096

/-- The retirement of a task: DONE, and its lane's task has ended. -/
def Retired (s t : State) (k q : Nat) (tl : TaskLane) : Prop :=
  let c := (s.wave k).crew
  Counts s t (tqOf q + 0x18) 0 32 ∧ (∀ e ∈ (t.crew c).tasks, e.lane = tl.lane → e.ended = true) ∧
    (t.crew c).tasks.map (·.task) = (s.crew c).tasks.map (·.task) ∧ (∀ d, d ≠ c → t.crew d = s.crew d) ∧
    ∀ j l, (t.thread j l).regs = (s.thread j l).regs

end Sys2Proof.Says

/-- R162 to R166, R168 to R184, R462. The Thyme table: WRITE, CLEAR, a slot that falls due under each RULE, withdrawal, a held
slot that expires. The task engine: enabling and disabling a queue, posting, the checks and the gather of the head task, the
timeout of a gather, the place and the start of a task wave, retirement with its signals, released tasks. NEXT of a last slot
is a free value and withdrawal is strict (log 43), the binding of a queue is read as log 47 says; that the instance of an entry that was
replaced counts no MISS, that RUNS and MISS of a new entry start from 0, and what a slot past 2^64 - 1 is, are the model's choices (log
66). -/
def Obligations.ThymeAndTaskSteps : Prop := ∀ (s : State),
  (∀ (c : QCmd) (rest : List QCmd), s.queueAt 0x141 = c :: rest →
    let p := s.setQueue 0x141 rest
    let i := field (c.word64 0) 13 8
    let discarded := { p with failures := s.failures ++ [⟨0x40, 1, c.pasid, true, 0, 0, none⟩] }
    let now := s.gtime.toNat
    let start := c.word64 1
    let period := c.word64 2
    (c.thymeOk = false → exec .thymeWrite s = .next discarded ∧ exec .thymeClear s = .next discarded) ∧
    (c.thymeOk = true → c.word64 0 % 256 = 2 → exec .thymeClear s = .next (p.modThyme i fun e => { e with valid := false })) ∧
    (c.thymeOk = true → c.word64 0 % 256 = 1 → ∃ t first, exec .thymeWrite s = .next t ∧ ThymeOnly p t i ∧
      t.thymeAt i = { Thyme.blank with
        start := BitVec.ofNat 64 start, period := BitVec.ofNat 64 period, recva := BitVec.ofNat 57 (c.word64 3)
        maxlate := BitVec.ofNat 32 (c.word64 4), rule := BitVec.ofNat 2 (field (c.word64 4) 33 32), valid := true
        next := (t.thymeAt i).next, spent := (t.thymeAt i).spent, tag := BitVec.ofNat 64 (c.word64 5), pasid := c.pasid } ∧
      NextSlot p t i first ∧
      (now ≤ start ∨ period = 0 → first = start) ∧
      (start < now → period ≠ 0 → now ≤ first ∧ first < now + period ∧ (first - start) % period = 0))) ∧
  (∀ entry : Fin 64, let i := entry.val
    let e := s.thymeAt i
    let now := s.gtime.toNat
    let late := (now - e.next.toNat) / e.period.toNat
    let slot := e.next.toNat + late * e.period.toNat
    let missed := fun (t : State) (n : Nat) => (t.thymeAt i).miss.toNat = min (2 ^ 32 - 1) (e.miss.toNat + n)
    let inTime := ∀ h, e.held = some h → now ≤ h.toNat + e.maxlate.toNat
    let due := e.valid = true ∧ e.spent = false ∧ e.next.toNat ≤ now
    let goesOn := fun (t : State) => NextSlot s t i (if e.period = 0 then 2 ^ 64 else slot + e.period.toNat)
    (e.valid = false ∨ e.spent = true ∨ now < e.next.toNat → e.state ≠ 2 → exec (.thymeSlotDue entry) s = .next s) ∧
    (∀ r bs, due → e.instLaunch = none → e.state ≠ 2 → Accepts s e.pasid e.recva.toNat r bs → ∃ t ls,
      let n := nextKey s.launches
      exec (.thymeSlotDue entry) s = .next t ∧ missed t late ∧ goesOn t ∧ t.thymeAt i = { e with
        next := (t.thymeAt i).next, spent := (t.thymeAt i).spent, miss := (t.thymeAt i).miss, instLaunch := some n, state := 1, slotTime := BitVec.ofNat 64 slot
        runs := satAdd e.runs 1, held := none } ∧ (∀ j, j ≠ i → t.thymeAt j = s.thymeAt j) ∧
      t = { s.setLaunch n { Launch.blank with
        tag := e.tag, record := r, argp := r.argp, state := if r.aev0 = 0 ∧ r.aev1 = 0 then .ready else .waitEv, accepted := n
        ready := s.cycle, thyme := some i, late := some (BitVec.ofNat 64 (min (2 ^ 64 - 1) ((BitVec.ofNat 64 slot).toNat + e.maxlate.toNat)))
        lines := ls, ended := false } with thyme := t.thyme, inputs := t.inputs, hub := t.hub, fresh := t.fresh } ∧
      (r.aev0 = 0 → r.aev1 = 0 → ls = [] ∧ t.hub = s.hub ∧ Decides s t []) ∧
      (r.aev0 ≠ 0 ∨ r.aev1 ≠ 0 → Decides s t [.afterEventSatisfied n])) ∧
    (∀ n, due → e.instLaunch = some n → (e.rule = 0 ∧ e.state ≠ 2) ∨ (e.rule = 1 ∧ e.state = 2 ∧ inTime) → ∃ t,
      exec (.thymeSlotDue entry) s = .next t ∧ missed t (late + 1) ∧ goesOn t ∧ ThymeOnly s t i ∧ t.thymeAt i =
        { e with next := (t.thymeAt i).next, spent := (t.thymeAt i).spent, miss := (t.thymeAt i).miss }) ∧
    (∀ n (h : DWord), due → e.instLaunch = some n → e.rule = 1 → e.state ≠ 2 ∨ (e.held = some h ∧ h.toNat + e.maxlate.toNat < now) →
      ∃ t, exec (.thymeSlotDue entry) s = .next t ∧ missed t (late + if e.state = 2 then 1 else 0) ∧ goesOn t ∧ ThymeOnly s t i ∧
      t.thymeAt i = { e with
        next := (t.thymeAt i).next, spent := (t.thymeAt i).spent, miss := (t.thymeAt i).miss, state := 2
        held := some (BitVec.ofNat 64 slot) }) ∧
    (∀ n, due → e.instLaunch = some n → e.rule = 2 → (s.launchAt n).ended = false → (s.launchAt n).task = none → ∃ t more,
      exec (.thymeSlotDue entry) s = .next t ∧ (t.launchAt n).state = .faulted ∧ (t.launchAt n).ended = true ∧
      t.failures = s.failures ++ (⟨0x40, 0x0C, (s.launchAt n).record.pasid, true, 0, 0, some n⟩ : Record) :: more ∧
      (t.thymeAt i).slotTime = BitVec.ofNat 64 slot ∧
      (e.period ≠ 0 → slot + e.period.toNat < 2 ^ 64 → (t.thymeAt i).next = BitVec.ofNat 64 (slot + e.period.toNat))) ∧
    (∀ n (h : DWord), let l := s.launchAt n
      l.thyme = some i → l.ended = false → l.nextCrew = 0 → l.late = some h → h.toNat < now →
      (∀ x ∈ s.launches, x.2.thyme = some i → x.2.ended = false → x.1 = n) → e.state ≠ 2 → ∃ t,
      exec (.thymeWithdraw entry) s = .next t ∧ t.launchAt n = { l with state := .done, ended := true } ∧
      (e.instLaunch = some n → missed t 1 ∧ t.thymeAt i = { e with miss := (t.thymeAt i).miss, instLaunch := none, state := 0 }) ∧
      (e.instLaunch ≠ some n → t.thymeAt i = e) ∧ (∀ m, m ≠ n → t.launchAt m = s.launchAt m) ∧
      t.failures = s.failures ∧ t.mem = s.mem ∧ t.hub = s.hub) ∧
    ((∀ x ∈ s.launches, x.2.thyme = some i → x.2.ended = true ∨ x.2.nextCrew ≠ 0 ∨ ∀ h, x.2.late = some h → now ≤ h.toNat) →
      exec (.thymeWithdraw entry) s = .next s) ∧
    ∀ h, e.state = 2 → e.held = some h →
      (now ≤ h.toNat + e.maxlate.toNat → exec (.thymeHeldExpire entry) s = .next s) ∧
      (h.toNat + e.maxlate.toNat < now → ∃ t, exec (.thymeHeldExpire entry) s = .next t ∧ missed t 1 ∧ ThymeOnly s t i ∧
        t.thymeAt i = { e with miss := (t.thymeAt i).miss, held := none, state := if e.instLaunch = none then 0 else 1 })) ∧
  (∀ (queue : Fin 64) (d : DWord), let q := queue.val
    let o := tqOf q + 8
    let x := s.tqAt q
    let pasid := field d.toNat 19 0
    let mine : BitVec 20 := BitVec.ofNat 20 (s.hubField o 19 0)
    let va := s.hubGet (tqOf q)
    let err := if field d.toNat 21 21 = 1 then 0 else s.hubField o 21 21
    exec (.tqEnable false queue d) s = .next s ∧ exec (.tqDisable false queue d) s = .next s ∧
    (s.hubField o 20 20 = 0 → ∃ t, exec (.tqDisable true queue d) s = .next t ∧ t = { s with hub := t.hub } ∧ SameRegisters s t [o] ∧
      t.hubField o 20 20 = 0 ∧ t.hubField o 19 0 = pasid ∧ t.hubField o 25 22 = field d.toNat 25 22 ∧ t.hubField o 21 21 = err) ∧
    (∀ bs, s.hubField o 20 20 = 0 → va % 1024 = 0 → s.vaRead (BitVec.ofNat 20 pasid) va 1024 = (s, some bs) → ∃ t,
      exec (.tqEnable true queue d) s = .next t ∧ SameRegisters s t [o] ∧ t.hubField o 19 0 = pasid ∧
      t.hubField o 25 22 = field d.toNat 25 22 ∧ t = { s with hub := t.hub, tqs := t.tqs } ∧ (∀ j, j ≠ q → t.tqAt j = s.tqAt j) ∧
      (Binds s pasid (leNat bs) → t.hubField o 20 20 = 1 ∧ t.hubField o 21 21 = err ∧
        t.tqAt q = { x with binding := some (recordOf (leNat bs)) }) ∧
      (¬ Binds s pasid (leNat bs) → t.hubField o 20 20 = 0 ∧ t.hubField o 21 21 = 1 ∧ t.tqAt q = x)) ∧
    (∀ va bs, s.hubField o 20 20 = 1 → x.queued = [va] → x.head = none → x.gathers = [] → x.released = [] → s.queueAt (0x100 + q) = [] →
      s.vaRead mine va.toNat 64 = (s, some bs) → field (leNat bs) 504 448 = 0 → ∃ t, exec (.tqDisable true queue d) s = .next t ∧
      t.hubField o 20 20 = 0 ∧ t.hubField o 25 22 = field d.toNat 25 22 ∧ (t.tqAt q).queued = [] ∧
      t.hubField (tqOf q + 0x18) 63 32 = min (2 ^ 32 - 1) (s.hubField (tqOf q + 0x18) 63 32 + 1) ∧
      SameRegisters s t [o, tqOf q + 0x18] ∧ t.failures = s.failures ++ [⟨0x41, 0x0A, mine, true, BitVec.ofNat 64 va.toNat, 0, none⟩] ∧
      t.mem = s.mem ∧ t.launches = s.launches) ∧
    (∀ c rest, s.queueAt (0x100 + q) = c :: rest → let p := s.setQueue (0x100 + q) rest
      (c.postOk = true ∨ c.released = true → ∃ t, exec (.taskPost queue) s = .next t ∧ QueueOnly p t q ∧
        t.tqAt q = { x with queued := x.queued ++ [BitVec.ofNat 57 (c.word64 1)] }) ∧
      (c.postOk = false → c.released = false → ∃ t, exec (.taskPost queue) s = .next t ∧
        TaskFailed p t q 1 c.pasid (field (c.word64 1) 56 0) 0 ∧
        t = { p with hub := t.hub, failures := t.failures })) ∧
    (∀ r va rest, x.binding = some r → x.queued = va :: rest → x.head = none →
      (s.vaRead mine va.toNat 64 = (s, none) → ∃ t, exec (.taskDequeue queue) s = .next t ∧ TaskFailed s t q 1 mine va.toNat 0 ∧
        t.tqAt q = { x with queued := rest } ∧ t = { s with hub := t.hub, failures := t.failures, tqs := t.tqs }) ∧
      ∀ bs, s.vaRead mine va.toNat 64 = (s, some bs) →
        let task : Task := ⟨va, BitVec.ofNat 512 (leNat bs)⟩
        let lines := descField task 2 58 50 + descField task 3 58 50
        let entry : SlotAddr := BitVec.ofNat 57 (task.word 0)
        let fresh : Gather := ⟨entry, [task], lines, s.gtime⟩
        let fails := fun (sub : Byte) => ∃ t, exec (.taskDequeue queue) s = .next t ∧ TaskFailed s t q sub mine va.toNat 0 ∧
          t.tqAt q = { x with queued := rest } ∧ t = { s with hub := t.hub, failures := t.failures, tqs := t.tqs }
        (descField task 7 56 0 = 0 → task.ok = false → fails 1) ∧
        (descField task 7 56 0 = 0 → task.ok = true → descField task 6 15 0 ≠ 0 → fails 2) ∧
        (task.ok = true → descField task 6 15 0 = 0 →
          (descField task 7 56 0 = 0 → r.spw * 32 < lines → fails 5) ∧
          (lines ≤ r.spw * 32 → (∀ g ∈ x.gathers, g.tasks.length < r.gatherLimit) →
            ((∀ g ∈ x.gathers, g.entry ≠ entry) → (x.gathers.length < 4 → ∃ t, exec (.taskDequeue queue) s = .next t ∧
                QueueOnly s t q ∧ t.tqAt q = { x with queued := rest, gathers := x.gathers ++ [fresh] }) ∧
              (4 ≤ x.gathers.length → ∃ t, exec (.taskDequeue queue) s = .next t ∧ QueueOnly s t q ∧
                t.tqAt q = { x with head := some task })) ∧
            ∀ before g after, x.gathers = before ++ g :: after → (∀ h ∈ before ++ after, h.entry ≠ entry) → g.entry = entry →
              g.lines + lines ≤ r.spw * 32 →
              let joined := { g with tasks := g.tasks ++ [task], lines := g.lines + lines }
              (g.tasks.length + 1 < r.gatherLimit → ∃ t, exec (.taskDequeue queue) s = .next t ∧ QueueOnly s t q ∧
                t.tqAt q = { x with queued := rest, gathers := before ++ joined :: after }) ∧
              (g.tasks.length + 1 = r.gatherLimit → ∃ t, exec (.taskDequeue queue) s = .next t ∧ t.tqAt q =
                { x with queued := rest, gathers := before ++ after, formed := x.formed ++ [(nextKey s.launches, joined)] })))) ∧
    (∀ r before g after, x.binding = some r → x.gathers = before ++ g :: after → (∀ h ∈ before, h.late s.gtime = false) →
      g.since.toNat + 2000 ≤ s.gtime.toNat → ∃ t, let n := nextKey s.launches
      exec (.gatherTimeout queue) s = .next t ∧ Counts s t (tqOf q + 0x20) 0 32 ∧
      t.launchAt n = { Launch.blank with
        record := { r with entry := g.entry }, argp := r.argp, state := .ready, accepted := n, ready := s.cycle, task := some q
        ended := false } ∧ (∀ m, m ≠ n → t.launchAt m = s.launchAt m) ∧
      t.tqAt q = { x with gathers := x.gathers.filter (· ≠ g), formed := x.formed ++ [(n, g)] } ∧
      t = { s with hub := t.hub, launches := t.launches, tqs := t.tqs }) ∧
    ((∀ g ∈ x.gathers, s.gtime.toNat < g.since.toNat + 2000) → exec (.gatherTimeout queue) s = .next s) ∧
    ((∀ e ∈ x.formed, s.placeChoice (s.launchAt e.1).record.part ≠ .place e.1) → exec (.taskWavePlace queue) s = .next s) ∧
    ∀ before n g after, x.formed = before ++ (n, g) :: after → let l := s.launchAt n
      (∀ e ∈ before, s.placeChoice (s.launchAt e.1).record.part ≠ .place e.1) → s.placeChoice l.record.part = .place n →
      ∀ core, l.task = some q → s.resident l.record.part = true → l.ended = false → l.state = .ready → l.nextCrew < l.record.ncrew →
        l.record.cores = false → l.record.rbk = false → s.preempted n = [] → s.coreFor l none = some core → ∃ (t : State) (slot : Nat),
        let c := nextKey s.crews
        let k := waveKey core slot
        exec (.taskWavePlace queue) s = .next t ∧ t = { s with waves := t.waves, crews := t.crews, launches := t.launches, tqs := t.tqs } ∧
        s.quarterFits core (slot / 16) 1 l.record.rows = true ∧ (∀ j < 4, s.quarterFits core j 1 l.record.rows = true →
          (s.freeSlots core j).length < (s.freeSlots core (slot / 16)).length ∨
          ((s.freeSlots core j).length = (s.freeSlots core (slot / 16)).length ∧ slot / 16 ≤ j)) ∧
        (s.freeSlots core (slot / 16)).head? = some slot ∧ (t.crew c).slots = [slot] ∧ (t.crew c).core = core ∧
        (t.crew c).launch = n ∧ (t.crew c).live = true ∧ (t.crew c).resident = true ∧
        (t.crew c).tasks.length = g.tasks.length ∧
        (∀ (j : Nat) (task : Task), g.tasks[j]? = some task → (t.crew c).tasks[j]? = some (TaskLane.mk task j false)) ∧ (∀ d, d ≠ c → t.crew d = s.crew d) ∧
        (t.wave k).live = true ∧ (t.wave k).threads = [] ∧ (∀ j, j ≠ k → t.wave j = s.wave j) ∧ (t.tqAt q).formed = x.formed.filter (fun e => e.1 ≠ n) ∧
        t.launchAt n = { l with nextCrew := l.nextCrew + 1, state := .active }) ∧
  (∀ c q (tl : TaskLane), let x := s.crew c
    let r := (s.launchAt x.launch).record
    let k := waveKey x.core (x.slots.headD 0)
    let go := fun (t : State) (v2 : Word) => exec (.taskWaveStart c) s = .next t ∧ TaskStarted (t.wave k) tl.lane tl.task v2 (BitVec.allOnes 32) ∧
      (∀ j < 32, j ≠ tl.lane → ((t.wave k).thread j).exited = true) ∧ (∀ j, j ≠ k → t.wave j = s.wave j) ∧
      (∀ d, d ≠ c → t.crew d = s.crew d)
    (s.launchAt x.launch).task = some q → x.live = true → x.resident = true → x.tasks = [tl] → tl.lane < 32 → (s.wave k).threads = [] →
    r.prot = false → descField tl.task 3 58 50 = 0 →
    (descField tl.task 2 58 50 = 0 → ∃ t, go t (BitVec.allOnes 32) ∧ t = { s with waves := t.waves }) ∧
    (∀ pa mt, descField tl.task 2 58 50 = 1 → ReachesIn s r.pasid (descField tl.task 2 49 0 * 128) .read pa mt 128 →
      s.poisonIn pa 128 = false → (x.page 0).state = .zero → (s.framesHeld x.core).length < 256 →
      ∃ t, go t 0 ∧ (∀ j < 128, t.spByte c j = s.byte (pa + j)) ∧
        t = { s with waves := t.waves, crews := t.crews, releases := t.releases }) ∧
    (descField tl.task 2 58 50 = 1 → s.translate r.pasid (descField tl.task 2 49 0 * 128) .read = (s, .absent) →
      descField tl.task 7 56 0 = 0 → ∃ t, exec (.taskWaveStart c) s = .next t ∧
      TaskFailed s t q 4 r.pasid tl.task.va.toNat (whoThread (keyCore k) (keySlot k) tl.lane) ∧
      (∀ j < 32, ((t.wave k).thread j).exited = true) ∧ (t.crew c).tasks = [{ tl with ended := true }])) ∧
  (∀ (core : Fin 256) (slot : Fin 64) (lane : Fin 32) q tl, let k := waveKey core slot
    let r := s.recOf k
    let go := fun (t : State) => exec (.taskRetire core slot lane) s = .next t ∧ Retired s t k q tl
    let w4 := tl.task.word 4
    Retires s k lane q tl → (tl.task.word 5).testBit 63 = false →
    (w4.testBit 63 = false ∨ (descField tl.task 6 22 22 = 0 ∧ (s.thread k lane).tsig = 0) →
      (descField tl.task 7 56 0 = 0 → ∃ t, go t ∧ t.mem = s.mem ∧ t.failures = s.failures ∧ t.tqs = s.tqs) ∧
      ∀ pa mt, descField tl.task 7 56 0 ≠ 0 → descField tl.task 7 56 0 % 8 = 0 →
        ReachesIn s r.pasid (descField tl.task 7 56 0) .write pa mt 8 → ∃ t, go t ∧ t.readNat pa 8 = 1 ∧ sameOutside s t pa 8 ∧
          t.failures = s.failures ∧ t.tqs = s.tqs) ∧
    ∀ pa mt, w4.testBit 63 = true → w4.testBit 57 = false → descField tl.task 6 22 22 = 1 → descField tl.task 7 56 0 = 0 →
      field w4 56 0 % 8 = 0 → ReachesIn s r.pasid (field w4 56 0 + 0x30) .both pa mt 8 →
      let d : SlotAddr := BitVec.ofNat 57 w4
      let w := s.readNat pa 8
      let home := field w 21 16
      (w % 2 ^ 16 = 0 → ∃ t, go t ∧ t.mem = s.mem ∧ t.tqs = s.tqs ∧ t.failures = s.failures ++
        [⟨0x41, 3, r.pasid, true, BitVec.ofNat 64 (field w4 56 0), whoThread core slot lane, none⟩]) ∧
      (1 < w % 2 ^ 16 → ∃ t, go t ∧ t.readNat pa 8 = w - 1 ∧ sameOutside s t pa 8 ∧ t.tqs = s.tqs ∧ t.failures = s.failures) ∧
      (w % 2 ^ 16 = 1 → s.hubField (tqOf home + 8) 20 20 = 1 → s.queueUsed (0x100 + home) < 1024 →
        (s.tqAt home).released = [] → ∃ t, go t ∧ t.readNat pa 8 = w - 1 ∧ sameOutside s t pa 8 ∧ t.failures = s.failures ∧
        t.tqs = s.tqs ∧ Arrives s t home r.pasid d)) ∧
  (∀ q va more, s.enqueueDue = some q → (s.tqAt q).released = va :: more → ∃ t,
    exec .releasedTaskEnqueue s = .next t ∧ t = { s with tqs := t.tqs, queues := t.queues } ∧
    t.tqAt q = { s.tqAt q with released := more } ∧ (∀ j, j ≠ q → t.tqAt j = s.tqAt j) ∧
    Arrives s t q (BitVec.ofNat 20 (s.hubField (tqOf q + 8) 19 0)) va) ∧
  (s.enqueueDue = none → exec .releasedTaskEnqueue s = .next s)

namespace Sys2Proof.Says

/-- [a, a + n) is a part of one page (R81). -/
def OnePage (a n : Nat) : Prop := a % 4096 + n ≤ 4096

/-- Engine `e` has job `j`; no other engine, queue, register, wave or launch changes. -/
def Runs (p t : State) (e : Nat) (j : CopyJob) : Prop :=
  (t.engineAt e).job = some j ∧ (t.engineAt e).previous = (p.engineAt e).previous ∧
    (∀ i, i ≠ e → t.engineAt i = p.engineAt i) ∧ t.queues = p.queues ∧ t.waves = p.waves ∧ t.launches = p.launches ∧ t.hub = p.hub

/-- STATUS of a copy that was made, without VERIFY (R460). -/
def statusOf (c : QCmd) (final : Word) : Nat := if c.cmp = true ∧ final ≠ c.expect then 2 else 1

/-- What a released page does not count as changed lies in its backing slot already (R258, R259), and slot and F bits lie apart. -/
structure Clean (s : State) (c p : Nat) : Prop where
  lines : ∀ l ∈ ((s.crew c).page p).dirty, l < 32
  bytes : ∀ i < 4096, i / 128 ∉ ((s.crew c).page p).dirty → s.byte (s.slotData (s.crew c) + 4096 * p + i) = s.spByte c (4096 * p + i)
  marks : ((s.crew c).page p).marks = false → ∀ j < 32,
    (s.byte (s.slotF (s.crew c) + (32 * p + j) / 8)).getLsbD ((32 * p + j) % 8) = s.spFull c (32 * p + j)
  apart : Apart (s.slotData (s.crew c)) (2 ^ 20) (s.slotF (s.crew c)) 1024

/-- The frame of a page that its slot holds has the same contents (R259). -/
structure Alike (s : State) (c p : Nat) : Prop where
  bytes : ∀ i < 4096, SMap.get (s.crew c).bytes (4096 * p + i) 0 = s.spByte c (4096 * p + i)
  marks : ∀ j < 32, SMap.get (s.crew c).fbits (32 * p + j) false = s.spFull c (32 * p + j)

/-- The engine is free again, with what the next CHAIN needs (R459, R460). -/
def Finished (s t : State) (e : Nat) (j : CopyJob) : Prop :=
  t.engineAt e = ⟨none, some (j.status, j.final)⟩ ∧ ∀ i, i ≠ e → t.engineAt i = s.engineAt i

end Sys2Proof.Says

/-- R257, R259 to R261, R264, R454, R457 to R461, R463. Scratchpad pages: write-back and refill keep every byte and F bit of
the window. The copy engines: a malformed command, a broken chain, a source fault, a copy between memory and memory or the
window with its check value, a FLIP used on the way; the completion with result record, event word, credit and batch; error
injection. Ranges that meet are shut out here, for their order is open (log 48). No stored copy of
memory has an error here (R245). A FLIP or POISON with a bit outside its fields is discarded as log 49 says (DEDUCED); which frame is
taken where none is free is open (log 54), so a frame is free here. -/
def Obligations.PageAndCopySteps : Prop := ∀ (s : State), s.upsets = [] →
  (∀ (c : Nat) (page : Fin 256), let x := s.crew c
    let p := page.val
    let keeps := fun (t : State) => (∀ o < 2 ^ 20, t.spByte c o = s.spByte c o) ∧ (∀ j < 8192, t.spFull c j = s.spFull c j) ∧
      (∀ q, q ≠ p → (t.crew c).page q = x.page q) ∧ ∀ d, d ≠ c → t.crew d = s.crew d
    let g := x.page p
    let framed := fun (t : State) (dirty : List Nat) (marks : Bool) => exec (.pageRefill c page) s = .next t ∧ keeps t ∧
      (t.crew c).page p = { state := .pinned, writeback := false, frame := some x.core, dirty := dirty, marks := marks }
    (g.state = .backed → g.writeback = true → Clean s c p → ∃ t,
      exec (.pageWritebackDone c page) s = .next t ∧ keeps t ∧
      (t.crew c).page p = { state := .backed, writeback := false, frame := g.frame, dirty := [], marks := false } ∧ Alike t c p ∧
      (∀ i < 4096, t.byte (s.slotData x + 4096 * p + i) = s.spByte c (4096 * p + i)) ∧
      (∀ a, (a < s.slotData x + 4096 * p ∨ s.slotData x + 4096 * p + 4096 ≤ a) → (a < s.slotF x + 4 * p ∨ s.slotF x + 4 * p + 4 ≤ a) →
        t.byte a = s.byte a) ∧ MemHub s { t with crews := s.crews }) ∧
    (g.state ≠ .backed ∨ g.writeback = false → exec (.pageWritebackDone c page) s = .next s) ∧
    (x.resident = true → g.state = .backed → g.frame = some x.core → g.writeback = true ∨ Alike s c p → ∃ t,
      framed t g.dirty g.marks ∧ t = { s with crews := t.crews }) ∧
    (x.resident = true → g.state = .backed → g.frame ≠ some x.core → (s.framesHeld x.core).length < 256 →
      (g.writeback = false → ∃ t, framed t [] false ∧ t = { s with crews := t.crews }) ∧
      (g.writeback = true → Clean s c p → ∃ t, framed t [] false)) ∧
    (x.resident = false ∨ g.state ≠ .backed → exec (.pageRefill c page) s = .next s)) ∧
  (∀ v a b, checkValue 1 (checkValue 1 v a) b = checkValue 1 v (a ++ b) ∧
    (a.length % 4 = 0 → checkValue 2 (checkValue 2 v a) b = checkValue 2 v (a ++ b))) ∧
  (∀ (engine : Fin 256) (outside : Option CopyAnswer), let e := engine.val
    ((s.engineAt e).job ≠ none ∨ s.queueAt e = [] → exec (.copy engine outside) s = .next s) ∧
    ∀ c rest, (s.engineAt e).job = none → s.queueAt e = c :: rest → let p := s.setQueue e rest
      let n := c.len
      let run := fun (t : State) (j : CopyJob) => exec (.copy engine outside) s = .next t ∧ Runs p t e j
      (s.copyOk c = false → ∃ t, run t ⟨c, 6, 0, 0, none⟩ ∧ t = { p with engines := t.engines }) ∧
      (s.copyOk c = true → c.chain = true → (∀ v, (s.engineAt e).previous ≠ some (1, v)) → ∃ t, run t ⟨c, 7, 0, 0, none⟩ ∧
        t = { p with engines := t.engines }) ∧
      (s.copyOk c = true → c.verify = false → c.ssp = false → OnePage c.src n → ∀ start,
        (if c.chain = true then (s.engineAt e).previous = some (1, start) else start = c.seed) →
        (s.flips = [] → p.translate c.pasid c.src .read = (p, .absent) → ∃ t, run t ⟨c, 4, 0, 0, none⟩ ∧ t = { p with engines := t.engines }) ∧
        ∀ pa mt, ReachesIn p c.pasid c.src .read pa mt n → let final := checkValue c.ck start (s.bytes pa n)
          let j : CopyJob := ⟨c, statusOf c final, final, n, none⟩
          (∀ pb mt', c.dsp = false → OnePage c.dst n → ReachesIn p c.pasid c.dst .write pb mt' n → Apart c.src n c.dst n → Apart pa n pb n →
            (s.flips = [] → ∃ t, run t j ∧ t.bytes pb n = s.bytes pa n ∧ sameOutside s t pb n ∧
              MemHub p { t with engines := s.engines }) ∧
            ∀ f, s.flips = [f] → f.engine = e → f.offset < n → ∃ t, run t j ∧ t.flips = [] ∧
              t.byte (pb + f.offset) = s.byte (pa + f.offset) ^^^ BitVec.ofNat 8 (2 ^ f.bit) ∧
              (∀ i < n, i ≠ f.offset → t.byte (pb + i) = s.byte (pa + i)) ∧ sameOutside s t pb n) ∧
          ∀ w, c.dsp = true → c.pusher = some w → (s.crew w.crew).live = true → OnePage c.dst n →
            ((s.crew w.crew).page (c.dst / 4096)).state = .pinned → s.flips = [] → ∃ t, run t j ∧ t.mem = s.mem ∧
            (∀ i < n, t.spByte w.crew (c.dst + i) = s.byte (pa + i)) ∧
            (∀ o, (o < c.dst ∨ c.dst + n ≤ o) → t.spByte w.crew o = s.spByte w.crew o) ∧ (∀ d, d ≠ w.crew → t.crew d = s.crew d))) ∧
  (∀ engine : Fin 256, let e := engine.val
    ((s.engineAt e).job = none → exec (.copyCompletion engine) s = .next s) ∧
    ∀ j, (s.engineAt e).job = some j → let c := j.cmd
      (∀ tag o, j.sent = some tag → o ∈ s.outstanding → o.tag = tag → exec (.copyCompletion engine) s = .next s) ∧
      (∀ pa mt, j.sent = none → c.pusher = none → c.resva ≠ 0 → c.resva % 16 = 0 → s.translate c.pasid c.resva .write = (s, .ok pa mt) →
        mt ≠ 4 → s.isPeer pa = true → s.peerReachable pa = true → ∃ t, exec (.copyCompletion engine) s = .next t ∧
        (t.engineAt e).job = some { j with sent := some s.nextTag } ∧ (∀ i, i ≠ e → t.engineAt i = s.engineAt i) ∧
        t = { s with engines := t.engines, outstanding := t.outstanding, nextTag := s.nextTag + 1, out := t.out } ∧
        ∃ o, t.outstanding = s.outstanding ++ [o] ∧ o.tag = s.nextTag) ∧
      (c.pusher = none → (j.sent = none ∧ c.resva = 0) ∨ (∃ tag, j.sent = some tag ∧ ∀ o ∈ s.outstanding, o.tag ≠ tag) →
        (c.evva = 0 → ∃ t, exec (.copyCompletion engine) s = .next t ∧ Finished s t e j ∧ t = { s with engines := t.engines }) ∧
        ∀ pa mt, c.evva ≠ 0 → c.evva % 8 = 0 → ReachesIn s c.pasid c.evva .both pa mt 8 → ∃ t,
          exec (.copyCompletion engine) s = .next t ∧ Finished s t e j ∧ sameOutside s t pa 8 ∧ t.hub = s.hub ∧
          t.readNat pa 8 = (s.readNat pa 8 + if j.status = 1 then 1 else 2 ^ 32) % 2 ^ 64) ∧
      (∀ pa mt, j.sent = none → c.pusher = none → c.evva = 0 → c.resva ≠ 0 → c.resva % 16 = 0 → ReachesIn s c.pasid c.resva .write pa mt 16 →
        j.status ≤ 7 → j.doneb < 2 ^ 64 → ∃ t, exec (.copyCompletion engine) s = .next t ∧ Finished s t e j ∧ sameOutside s t pa 16 ∧
          t.hub = s.hub ∧ t.readNat pa 4 = j.status ∧ t.readNat (pa + 8) 8 = j.doneb ∧
          t.readNat (pa + 4) 4 = if c.ck = 0 ∨ 4 ≤ j.status then 0 else j.final.toNat) ∧
      ∀ w, j.sent = none → c.pusher = some w → c.resva = 0 → c.evva = 0 → let x := s.crew w.crew
        let k := waveKey x.core (x.slots.getD w.wid 0)
        let u := s.thread k w.lane
        x.live = true → x.resident = true → (s.launchAt x.launch).record.rbk = false → u.block = none →
        (c.gv = false ∨ 4 ≤ j.status → ∃ t, exec (.copyCompletion engine) s = .next t ∧ Finished s t e j ∧
          t.thread k w.lane = { u with copies := u.copies.erase c.batch } ∧
          (∀ l, l ≠ w.lane → t.thread k l = s.thread k l) ∧ (∀ i, i ≠ k → t.wave i = s.wave i) ∧
          t = { s with engines := t.engines, waves := t.waves }) ∧
        (c.gv = true → 1 ≤ j.status → j.status ≤ 3 → c.gate % 128 = 0 → (x.page (c.gate / 4096)).state = .pinned → ∃ t,
          let old := s.spNat w.crew (c.gate + 4) 4
          let exp := s.spNat w.crew c.gate 4
          let arr := (old + c.len) % 2 ^ 32
          exec (.copyCompletion engine) s = .next t ∧ Finished s t e j ∧
          t.thread k w.lane = { u with copies := u.copies.erase c.batch } ∧ t.spNat w.crew (c.gate + 4) 4 = arr ∧
          (∀ o, (o < c.gate + 4 ∨ c.gate + 8 ≤ o) → t.spByte w.crew o = s.spByte w.crew o) ∧
          (∀ i, t.spFull w.crew i = if i = c.gate / 128 ∧ old < exp ∧ exp ≤ arr then true else s.spFull w.crew i) ∧
          t.mem = s.mem)) ∧
  ∀ c rest, s.queueAt 0x1F0 = c :: rest → let p := s.setQueue 0x1F0 rest
    let flip := c.word64 0 = 1 ∧ c.word64 1 < 2 ^ 11 ∧ c.word64 2 < 2 ^ 32 ∧ c.restZero 3 = true
    let poison := c.word64 0 = 2 ∧ c.word64 1 < 2 ^ 57 ∧ c.word64 1 % 32 = 0 ∧ c.restZero 2 = true
    (flip → exec .flip s = .next { p with
      flips := s.flips ++ [⟨field (c.word64 1) 7 0, field (c.word64 1) 10 8, c.word64 2⟩] }) ∧
    (¬ flip → exec .flip s = .next p) ∧
    (∀ pa mt, poison → ReachesIn p c.pasid (c.word64 1) .write pa mt 32 → ∃ t, exec .poison s = .next t ∧
      (∀ k, t.isPoisoned k = (s.isPoisoned k || decide (k = pa / 32))) ∧ t = { p with poisoned := t.poisoned }) ∧
    (poison → p.translate c.pasid (c.word64 1) .write = (p, .absent) → exec .poison s = .next p) ∧
    (¬ poison → exec .poison s = .next p)

/-! ## The decoder, the step, reset -/

namespace Sys2Proof.Says

/-- Three 32-bit words of a slot, the first at the lowest address (R338, R350). -/
def slotWords (w0 w1 w2 : Nat) : BitVec 96 := BitVec.ofNat 96 (w0 + w1 * 2 ^ 32 + w2 * 2 ^ 64)

/-- Fields with every operand z and every guard true. -/
def bare : Fields :=
  { d := .z, a := .z, b := .reg .z, c := .z, e := .z, g0 := ⟨7, false⟩, g1 := ⟨7, false⟩, ch := 0, sw := false, hold := 0, mod := 0 }

/-- A thread outside trap mode with a window of 128 registers, before one literal slot with the word 0x4049_0FDB. -/
def plainCtx : DecodeCtx :=
  { trapMode := false, window := 128, prot := false, slots := [], lits := [some 0x40490FDB, some 0, some 0, none, none, none] }

end Sys2Proof.Says

/-- R338 to R349, R357. Decoding and encoding agree: the word of a well-formed instruction of the opcode table, with every operand,
immediate, guard, hint, hold and modifier that its row admits, decodes to that instruction. -/
def Obligations.RoundTrip : Prop := ∀ (x : DecodeCtx) (i : Instr), i.encoded = true → i.wf x = true → decode x (encode i) = .ok i

/-- R338 to R349, R356, R357. What the decoder answers is well formed, and no other word decodes to it; a word whose opcode is
not listed is ILLEGAL_INSTRUCTION; then MFSR, MTSR, WSPILL and WFILL outside trap mode have cause 0x06, whatever their other
fields hold; then come the fields of step 3; only a referenced literal word can make the line malformed; an illegal operand
comes last. The order in which the operand fields are checked does not show here (log 8). -/
def Obligations.DecodingIsExact : Prop := ∀ (x : DecodeCtx) (w : BitVec 96),
  let r := Raw.ofWord w
  (∀ i, decode x w = .ok i → i.wf x = true ∧ i.encoded = true ∧ encode i = w) ∧
  (Op.ofCode r.opc = none → decode x w = .ok (.illegalInstruction w)) ∧
  (∀ o, Op.ofCode r.opc = some o → o.code = r.opc ∧
    (o ∈ [.mfsr, .mtsr, .wspill, .wfill] → x.trapMode = false → decode x w = .error .privileged) ∧
    (o ∉ [.mfsr, .mtsr, .wspill, .wfill] ∨ x.trapMode = true →
      (5 ≤ r.hold.toNat ∨ 6 ≤ r.ch.toNat → decode x w = .error .illegalInstruction) ∧
      (decode x w = .error .malformedLine → r.i = 1 ∧ 2 ≤ r.kind.toNat ∧ ∃ j < 6, x.lits.getD j none = none) ∧
      (∀ q code, decode x w = .error (.illegalOperand q code) →
        (q = 0 ∧ code = r.d) ∨ (q = 1 ∧ code = r.a) ∨ (q = 2 ∧ code = r.b) ∨ (q = 3 ∧ code = r.c) ∨ (q = 4 ∧ code = r.e)))) ∧
  (∀ o : Op, Op.ofCode o.code = some o)

/-- R338, R341, R347, R349. Words that the manual writes out: NOP and EXIT, the two IADD of R400, FMUL with a literal word, FFMA of R418, CALL
of file 13, PUSH of file 16, CVR and MMA of file 17. -/
def Obligations.WrittenWords : Prop :=
  decode plainCtx (slotWords 0xFFFFF000 0xFFFFFFFF 0x000003BF) = .ok (.nop bare) ∧
  decode plainCtx (slotWords 0xFFFFF008 0xFFFFFFFF 0x000003BF) = .ok (.exit bare) ∧
  decode plainCtx (slotWords 0x02804100 0xFFFFE018 0x001043BF) =
    .ok (.iadd { bare with d := .v 4, a := .v 5, b := .reg (.v 6), sw := true, mod := 0x004 }) ∧
  decode plainCtx (slotWords 0x04007100 0xFFFFE024 0x04F003BF) =
    .ok (.iadd { bare with d := .v 7, a := .v 8, b := .reg (.v 9), mod := 0x13C }) ∧
  decode plainCtx (slotWords 0x02804302 0xFF800000 0x800003BF) =
    .ok (.fmul { bare with d := .v 4, a := .v 5, b := .word 0 0x40490FDB }) ∧
  decode plainCtx (slotWords 0x04808303 0x0C016028 0x20C003B8) =
    .ok (.ffma { bare with d := .v 8, a := .v 9, b := .reg (.v 10), c := .v 11, e := .v 12, mod := 0x830 }) ∧
  decode plainCtx (slotWords 0xFFFFF003 0xFF000017 0x800803BF) = .ok (.call { bare with b := .int20 5, mod := 2 }) ∧
  decode plainCtx (slotWords 0x08005708 0xFF000014 0x805C038F) =
    .ok (.push { bare with d := .v 5, a := .v 16, b := .int20 5, g0 := ⟨1, false⟩, mod := 0x17 }) ∧
  decode plainCtx (slotWords 0xFFFFF805 0xFF3FFFFF 0x800803BF) = .ok (.cvr { bare with b := .int20 0xFFFFF, mod := 2 }) ∧
  decode plainCtx (slotWords 0x02020800 0xFFFFE043 0x022003BF) =
    .ok (.mma { bare with d := .v 32, a := .s 4, b := .reg (.v 16), mod := 0x88 })

/-- R200, R204, R350, R353 to R357. A step runs the decoded instruction. Results that are due land and crews that are over
leave first. Then: the head of the pending inputs, else a step that the state makes due, else the issue of the selected
bundle: what its line holds at its slot, where the slot is one that its lanes may issue from, decodes to the instruction that
runs, or raises the trap of what it is; else a cycle passes. In the safe talkative state only management inputs act. The order
of inputs, due steps and issues is the model's choice (log 5). -/
def Obligations.StepRuns : Prop := ∀ (s : State), let p := s.prologue
  (∀ i rest, p.inputs = i :: rest →
    (p.boot.safe = false ∨ managedStep i = true → step s = exec i { p with inputs := rest }) ∧
    (p.boot.safe = true → managedStep i = false → step s = .next { p with inputs := rest })) ∧
  (∀ i, p.inputs = [] → p.dueRow = some i → step s = exec i p) ∧
  (∀ b, p.inputs = [] → p.dueRow = none → p.issueNow = some b → b.lanes ≠ 0 →
    let q := { p with cur := b }
    let pc := b.pc.toNat
    let line := 64 * (pc / 5)
    ∀ l, q.cachedLine b.core q.ctx.lr.pasid line = some l → pc < 5 * 2 ^ 51 → (lineWord l).getLsbD (5 + pc % 5) = false →
      (∀ n ∈ q.ctx.active, (q.ctx.w.thread n).checked = true → (lineWord l).getLsbD (pc % 5) = true) →
      let word : BitVec 96 := l.getD (3 * (pc % 5) + 2) 0 ++ l.getD (3 * (pc % 5) + 1) 0 ++ l.getD (3 * (pc % 5)) 0
      let x := q.ctx.decodeCtx (lineLits l (pc % 5))
      (∀ i, decode x word = .ok i → step s = exec i q) ∧ ∀ e, decode x word = .error e → step s = .next (q.decodeTrap word e)) ∧
  (p.inputs = [] → p.dueRow = none → p.issueNow = none → step s = .next p.idle ∧ p.idle.cycle = p.cycle + 1)

/-- R5, R23, R32, R82, R116, R134, R156, R160, R168. Right after package reset: phase 1, no cluster available, no partition and no task queue
enabled, no space, timers at their largest value, no launch, crew or wave, and the memory form. A byte of memory reads 0, the model's choice (log 1). -/
def Obligations.ResetState : Prop := let s := State.reset
  s.hubField 0x0 3 0 = 1 ∧ s.hubGet 0x10 = 0 ∧ s.hubField 0x4000 5 5 = 0 ∧ s.hubField 0x5300 31 16 = 1500 ∧ s.hubField 0x7400 4 0 = 10 ∧
  (∀ p < 16, s.hubField (partAt p + 8) 20 20 = 0 ∧ s.hubField (partAt p + 8) 35 24 = 256 ∧ s.hubField (partAt p + 8) 51 36 = 0xFFFF) ∧
  (∀ q < 64, s.hubField (tqOf q + 8) 20 20 = 0 ∧ s.hubField (tqOf q + 8) 25 22 = 1) ∧
  (∀ h < 16, s.hubGet (0x5100 + 8 * h) = 2 ^ 64 - 1) ∧
  (∀ k, (s.wave k).live = false) ∧ (∀ c, (s.crew c).live = false) ∧ (∀ n, (s.launchAt n).ended = true) ∧
  (∀ q, s.queueAt q = []) ∧ s.memOk ∧ ∀ a, s.byte a = 0

/-- The memory invariant of the model: a step keeps memory in its canonical form, whatever it is. -/
def Obligations.MemoryForm : Prop := ∀ s t : State, s.memOk → step s = .next t → t.memOk
end

