-- ==== Sys2Proof/Laws/Map.lean ====
section
/-!
SUPPORT. Finite maps and memory: what is read after a write, and the canonical form that every write keeps.
-/

namespace Sys2Proof.Machine

/-! ### Reads after writes -/

theorem SMap.erase_cons {α : Type} (i : Nat) (a : α) (t : SMap α) (k : Nat) :
    SMap.erase ((i, a) :: t) k = if i = k then SMap.erase t k else (i, a) :: SMap.erase t k := by
  by_cases h : i = k <;> simp [SMap.erase, h]

/-- The value that is listed at a key, or the default. -/
theorem SMap.get_find {α : Type} (m : SMap α) (j : Nat) (d : α) : m.get j d = (m.find j).getD d :=
  match m with
  | [] => rfl
  | (i, a) :: rest => by
    by_cases here : i = j
    · simp [SMap.get, SMap.find, here]
    · simpa [SMap.get, SMap.find, here] using SMap.get_find rest j d

theorem SMap.find_erase {α : Type} (m : SMap α) (j k : Nat) : (m.erase k).find j = if j = k then none else m.find j :=
  match m with
  | [] => by simp [SMap.erase, SMap.find]
  | (i, a) :: rest => by
    have later := SMap.find_erase rest j k
    rw [SMap.erase_cons]
    by_cases hi : i = k <;> by_cases hj : j = k <;> by_cases hij : i = j <;> simp_all [SMap.find]

theorem SMap.get_erase {α : Type} (m : SMap α) (j k : Nat) (d : α) :
    (m.erase k).get j d = if j = k then d else m.get j d := by
  rw [SMap.get_find, SMap.find_erase, SMap.get_find]
  split <;> rfl

theorem SMap.mem_erase {α : Type} {m : SMap α} {k : Nat} {p : Nat × α} (h : p ∈ m.erase k) : p ∈ m ∧ p.1 ≠ k := by
  simpa [SMap.erase] using h

theorem SMap.find_insert {α : Type} (m : SMap α) (j k : Nat) (v : α) (new : ∀ p ∈ m, p.1 ≠ k) :
    (m.insert k v).find j = if j = k then some v else m.find j :=
  match m with
  | [] => by by_cases hj : j = k <;> simp [SMap.insert, SMap.find, hj, @eq_comm _ k j]
  | (i, a) :: rest => by
    have later := SMap.find_insert rest j k v fun p hp => new p (List.mem_cons_of_mem _ hp)
    have other : i ≠ k := new (i, a) (List.mem_cons_self ..)
    by_cases before : k < i <;> by_cases hj : j = k <;> simp [SMap.insert, SMap.find, before, hj, later, other] <;> grind

theorem SMap.get_insert {α : Type} (m : SMap α) (j k : Nat) (v d : α) (new : ∀ p ∈ m, p.1 ≠ k) :
    (m.insert k v).get j d = if j = k then v else m.get j d := by
  rw [SMap.get_find, SMap.find_insert m j k v new, SMap.get_find]
  split <;> rfl

/-- What a map reads after a write at `k`. -/
theorem SMap.get_set {α : Type} [DecidableEq α] (m : SMap α) (j k : Nat) (v d : α) :
    (m.set k v d).get j d = if j = k then v else m.get j d := by
  unfold SMap.set
  by_cases hv : v = d
  · simp [hv, SMap.get_erase]
  · rw [if_neg hv, SMap.get_insert _ _ _ _ _ (fun p hp => (SMap.mem_erase hp).2), SMap.get_erase]
    by_cases hj : j = k <;> simp [hj]

/-- What a map reads after it takes a value at `k`. -/
theorem SMap.get_put {α : Type} (m : SMap α) (j k : Nat) (v d : α) :
    (m.put k v).get j d = if j = k then v else m.get j d := by
  unfold SMap.put
  rw [SMap.get_insert _ _ _ _ _ (fun p hp => (SMap.mem_erase hp).2), SMap.get_erase]
  by_cases hj : j = k <;> simp [hj]

theorem SMap.find_put {α : Type} (m : SMap α) (j k : Nat) (v : α) :
    (m.put k v).find j = if j = k then some v else m.find j := by
  unfold SMap.put
  rw [SMap.find_insert _ _ _ _ fun _ hp => (SMap.mem_erase hp).2, SMap.find_erase]
  by_cases hj : j = k <;> simp [hj]

/-! ### Canonical form -/

/-- Every key of the map is past `k`. -/
def SMap.past {α : Type} (m : SMap α) (k : Nat) : Prop := ∀ p ∈ m, k < p.1

theorem SMap.sorted_cons {α : Type} (i : Nat) (a : α) (t : SMap α) :
    SMap.sorted ((i, a) :: t) = true ↔ SMap.past t i ∧ SMap.sorted t = true := by
  simp [SMap.sorted, SMap.past]

theorem SMap.sorted_erase {α : Type} (m : SMap α) (k : Nat) (h : m.sorted = true) : (m.erase k).sorted = true := by
  induction m with
  | nil => rfl
  | cons p t ih =>
    obtain ⟨i, a⟩ := p
    rw [SMap.sorted_cons] at h
    rw [SMap.erase_cons]
    split
    · exact ih h.2
    · exact (SMap.sorted_cons _ _ _).mpr ⟨fun p hp => h.1 p (SMap.mem_erase hp).1, ih h.2⟩

theorem SMap.mem_insert {α : Type} {m : SMap α} {k : Nat} {v : α} {p : Nat × α} (h : p ∈ m.insert k v) :
    p = (k, v) ∨ p ∈ m := by
  induction m with
  | nil => simpa [SMap.insert] using h
  | cons q t ih =>
    obtain ⟨i, a⟩ := q
    simp only [SMap.insert] at h
    split at h
    · simpa using h
    · rcases List.mem_cons.mp h with h | h
      · exact .inr (by simp [h])
      · rcases ih h with h | h
        · exact .inl h
        · exact .inr (by simp [h])

theorem SMap.sorted_insert {α : Type} (m : SMap α) (k : Nat) (v : α) (h : m.sorted = true) (hk : ∀ p ∈ m, p.1 ≠ k) :
    (m.insert k v).sorted = true := by
  induction m with
  | nil => rfl
  | cons p t ih =>
    obtain ⟨i, a⟩ := p
    have h' := (SMap.sorted_cons _ _ _).mp h
    have hi : i ≠ k := hk (i, a) (by simp)
    simp only [SMap.insert]
    split
    · rename_i hlt
      refine (SMap.sorted_cons _ _ _).mpr ⟨fun p hp => ?_, h⟩
      rcases List.mem_cons.mp hp with hp | hp
      · simpa [hp] using hlt
      · exact Nat.lt_trans hlt (h'.1 p hp)
    · refine (SMap.sorted_cons _ _ _).mpr ⟨fun p hp => ?_, ih h'.2 fun p hp => hk p (by simp [hp])⟩
      rcases SMap.mem_insert hp with hp | hp
      · simp only [hp]; omega
      · exact h'.1 p hp

/-- A map keeps its order. -/
theorem SMap.sorted_set {α : Type} [DecidableEq α] (m : SMap α) (k : Nat) (v d : α) (h : m.sorted = true) :
    (m.set k v d).sorted = true := by
  unfold SMap.set
  split
  · exact SMap.sorted_erase m k h
  · exact SMap.sorted_insert _ k v (SMap.sorted_erase m k h) fun _ hp => (SMap.mem_erase hp).2

theorem SMap.sorted_put {α : Type} (m : SMap α) (k : Nat) (v : α) (h : m.sorted = true) : (m.put k v).sorted = true :=
  SMap.sorted_insert _ k v (SMap.sorted_erase m k h) fun _ hp => (SMap.mem_erase hp).2

theorem Memory.wf_nil : Memory.wf [] = true := rfl

theorem Memory.wf_iff (m : List Host.Cell) : Memory.wf m = true ↔ SMap.sorted m = true ∧ ∀ p ∈ m, p.2 ≠ freshByte := by
  simp [Memory.wf]

/-- A write of one byte keeps the canonical form. -/
theorem Memory.wf_set (m : List Host.Cell) (a : Nat) (b : Byte) (h : Memory.wf m = true) :
    Memory.wf (SMap.set m a b freshByte) = true := by
  rw [Memory.wf_iff] at h ⊢
  refine ⟨SMap.sorted_set m a b freshByte h.1, fun p hp => ?_⟩
  unfold SMap.set at hp
  split at hp
  · exact h.2 p (SMap.mem_erase hp).1
  · rename_i hb
    rcases SMap.mem_insert hp with hp | hp
    · rw [hp]; exact hb
    · exact h.2 p (SMap.mem_erase hp).1

theorem Memory.wf_filter (m : List Host.Cell) (g : Host.Cell → Bool) (h : Memory.wf m = true) :
    Memory.wf (m.filter g) = true := by
  rw [Memory.wf_iff] at h ⊢
  refine ⟨?_, fun p hp => h.2 p (List.mem_filter.mp hp).1⟩
  have hs := h.1
  clear h
  induction m with
  | nil => rfl
  | cons p t ih =>
    obtain ⟨i, a⟩ := p
    rw [SMap.sorted_cons] at hs
    simp only [List.filter_cons]
    split
    · exact (SMap.sorted_cons _ _ _).mpr ⟨fun p hp => hs.1 p (List.mem_filter.mp hp).1, ih hs.2⟩
    · exact ih hs.2

/-! ### Folds -/

/-- A left fold keeps a property that each of its steps keeps. -/
theorem foldl_keeps {Step Acc : Type} (Inv : Acc → Prop) (run : Acc → Step → Acc) (keep : ∀ acc x, Inv acc → Inv (run acc x))
    (steps : List Step) (acc : Acc) (start : Inv acc) : Inv (steps.foldl run acc) :=
  match steps with
  | [] => start
  | x :: rest => foldl_keeps Inv run keep rest (run acc x) (keep acc x start)

/-- A left fold leaves a quantity that each of its steps leaves. -/
theorem foldl_same {Step Acc Seen : Type} (see : Acc → Seen) (run : Acc → Step → Acc) (keep : ∀ acc x, see (run acc x) = see acc)
    (steps : List Step) (acc : Acc) : see (steps.foldl run acc) = see acc :=
  foldl_keeps (see · = see acc) run (fun now x same => keep now x ▸ same) steps acc rfl

/-! ### Bytes of memory -/

/-- What a byte reads after a write. -/
theorem State.byte_setByte (s : State) (a c : Nat) (b : Byte) : (s.setByte a b).byte c = if c = a then b else s.byte c :=
  SMap.get_set s.mem c a b freshByte

/-- Equal memories are equal data: two canonical memories that read alike are one. -/
theorem State.setByte_memOk (s : State) (a : Nat) (b : Byte) (h : Memory.wf s.mem = true) :
    Memory.wf (s.setByte a b).mem = true := Memory.wf_set s.mem a b h

theorem State.setBytes_memOk (bs : List Byte) : ∀ (s : State) (a : Nat), Memory.wf s.mem = true →
    Memory.wf (s.setBytes a bs).mem = true :=
  match bs with
  | [] => fun _ _ canonical => canonical
  | b :: later => fun s a canonical => State.setBytes_memOk later _ _ (s.setByte_memOk a b canonical)

/-- What a byte reads after a run of bytes is written. -/
theorem State.byte_setBytes (bs : List Byte) : ∀ (s : State) (a c : Nat),
    (s.setBytes a bs).byte c = if a ≤ c ∧ c < a + bs.length then bs.getD (c - a) 0 else s.byte c := by
  induction bs with
  | nil => intro s a c; simp only [State.setBytes, List.length_nil]; rw [if_neg (by omega)]
  | cons b t ih =>
    intro s a c
    simp only [State.setBytes, ih, State.byte_setByte, List.length_cons]
    by_cases hc : c = a
    · subst hc; simp
    · by_cases h1 : a + 1 ≤ c ∧ c < a + 1 + t.length
      · have : c - a = (c - (a + 1)) + 1 := by omega
        rw [if_pos h1, if_pos (by omega), this]
        simp
      · have h2 : ¬(a ≤ c ∧ c < a + (t.length + 1)) := by omega
        rw [if_neg h1, if_neg h2, if_neg hc]

theorem State.writeNat_memOk (s : State) (a n v : Nat) (h : Memory.wf s.mem = true) :
    Memory.wf (s.writeNat a n v).mem = true := State.setBytes_memOk _ s a h

@[simp] theorem State.setPoison_mem (s : State) (k : Nat) (p : Bool) : (s.setPoison k p).mem = s.mem := rfl

@[simp] theorem State.modHart_mem (s : State) (h : Nat) (f : Hart → Hart) : (s.modHart h f).mem = s.mem := rfl

@[simp] theorem State.endReservations_mem (s : State) (l : Nat) : (s.endReservations l).mem = s.mem :=
  foldl_same (fun s : State => s.mem) _ (fun b c => by split <;> simp) _ s

@[simp] theorem State.modSlice_mem (s : State) (n : Nat) (f : Slice → Slice) : (s.modSlice n f).mem = s.mem := rfl

@[simp] theorem State.leaveWays_mem (s : State) (which : L2Way → Bool) : (s.leaveWays which).mem = s.mem := by
  unfold State.leaveWays
  exact foldl_same (fun s : State => s.mem) (fun s (e : Nat × Upset) => s.setPoison e.1 (s.isPoisoned e.1)) (fun _ _ => rfl) _ s

@[simp] theorem State.setWays_mem (s : State) (a b : Nat) (m : BitVec 16) : (s.setWays a b m).mem = s.mem :=
  State.leaveWays_mem s _

@[simp] theorem State.wayError_mem (s : State) (w : L2Way) (b : Bool) : (s.wayError w b).mem = s.mem := by
  unfold State.wayError; dsimp only; split <;> split <;> simp

@[simp] theorem State.hubPut_mem_map (s : State) (o v : Nat) : (s.hubPut o v).mem = s.mem := rfl

@[simp] theorem State.hubCount_mem (s : State) (o hi lo n : Nat) : (s.hubCount o hi lo n).mem = s.mem := rfl

@[simp] theorem State.errorFound_mem (s : State) (a b : Nat) (w : Option L2Way) (c : Bool) : (s.errorFound a b w c).mem = s.mem := by
  unfold State.errorFound; cases w
  · dsimp only; split
    · rfl
    · split <;> rfl
  · simp

@[simp] theorem State.decodeSector_mem (s : State) (k : Nat) : (s.decodeSector k).mem = s.mem := by
  unfold State.decodeSector; split
  · rfl
  · split <;> simp

@[simp] theorem State.mergeSector_mem (s : State) (k : Nat) : (s.mergeSector k).mem = s.mem := by
  unfold State.mergeSector; split <;> simp

/-- The memory after a write of an agent or a thread: its bytes, whatever becomes of poison and reservations. -/
theorem State.memWrite_mem (s : State) (a : Nat) (bs : List Byte) : (s.memWrite a bs).mem = (s.setBytes a bs).mem := by
  have hp : ∀ (l : List Nat) (t : State), (l.foldl
      (fun s c => if a ≤ 32 * c && 32 * c + 32 ≤ a + bs.length then s.setPoison c false else s.mergeSector c) t).mem = t.mem :=
    foldl_same (fun s : State => s.mem) _ fun b c => by split <;> simp
  have hr : ∀ (l : List Nat) (t : State), (l.foldl (fun s i => s.endReservations (a / 64 + i)) t).mem = t.mem :=
    foldl_same (fun s : State => s.mem) _ fun b c => by simp
  unfold State.memWrite
  dsimp only
  split
  · rw [hp]
  · rw [hr, hp]

theorem State.byte_memWrite (s : State) (a c : Nat) (bs : List Byte) :
    (s.memWrite a bs).byte c = if a ≤ c ∧ c < a + bs.length then bs.getD (c - a) 0 else s.byte c := by
  have : (s.memWrite a bs).byte c = (s.setBytes a bs).byte c := by simp only [State.byte, State.memWrite_mem]
  rw [this, State.byte_setBytes]

theorem State.memWrite_memOk (s : State) (a : Nat) (bs : List Byte) (h : Memory.wf s.mem = true) :
    Memory.wf (s.memWrite a bs).mem = true := by
  rw [State.memWrite_mem]; exact State.setBytes_memOk bs s a h

theorem State.tagBytes_mem (s : State) (a n : Nat) (keep : ReleaseTag → Bool) (new : List ReleaseTag) :
    (s.tagBytes a n keep new).mem = s.mem := rfl

theorem State.agentWrite_memOk (s : State) (a : Nat) (bs : List Byte) (h : Memory.wf s.mem = true) :
    Memory.wf (s.agentWrite a bs).mem = true := s.memWrite_memOk a bs h

theorem State.byte_agentWrite (s : State) (a c : Nat) (bs : List Byte) :
    (s.agentWrite a bs).byte c = if a ≤ c ∧ c < a + bs.length then bs.getD (c - a) 0 else s.byte c :=
  s.byte_memWrite a c bs

/-- Package reset has memory in canonical form. -/
theorem State.reset_memOk : Memory.wf State.reset.mem = true := rfl

end Sys2Proof.Machine
end

