-- ==== Sys2Proof/Laws/State.lean ====
section
/-!
SUPPORT. What each named update of the state leaves in each field: one lemma per field, by definition.
-/

namespace Sys2Proof.Machine

/-! ### setWave -/

@[simp] theorem State.setWave_mem (s : State) (k : Nat) (w : Wave) : (s.setWave k w).mem = s.mem := rfl
@[simp] theorem State.setWave_poisoned (s : State) (k : Nat) (w : Wave) : (s.setWave k w).poisoned = s.poisoned := rfl
@[simp] theorem State.setWave_upsets (s : State) (k : Nat) (w : Wave) : (s.setWave k w).upsets = s.upsets := rfl
@[simp] theorem State.setWave_releases (s : State) (k : Nat) (w : Wave) : (s.setWave k w).releases = s.releases := rfl
@[simp] theorem State.setWave_hub (s : State) (k : Nat) (w : Wave) : (s.setWave k w).hub = s.hub := rfl
@[simp] theorem State.setWave_waves (s : State) (k : Nat) (w : Wave) : (s.setWave k w).waves = SMap.put s.waves k w := rfl
@[simp] theorem State.setWave_crews (s : State) (k : Nat) (w : Wave) : (s.setWave k w).crews = s.crews := rfl
@[simp] theorem State.setWave_launches (s : State) (k : Nat) (w : Wave) : (s.setWave k w).launches = s.launches := rfl
@[simp] theorem State.setWave_cores (s : State) (k : Nat) (w : Wave) : (s.setWave k w).cores = s.cores := rfl
@[simp] theorem State.setWave_gens (s : State) (k : Nat) (w : Wave) : (s.setWave k w).gens = s.gens := rfl
@[simp] theorem State.setWave_residents (s : State) (k : Nat) (w : Wave) : (s.setWave k w).residents = s.residents := rfl
@[simp] theorem State.setWave_swaps (s : State) (k : Nat) (w : Wave) : (s.setWave k w).swaps = s.swaps := rfl
@[simp] theorem State.setWave_residentSince (s : State) (k : Nat) (w : Wave) : (s.setWave k w).residentSince = s.residentSince := rfl
@[simp] theorem State.setWave_queues (s : State) (k : Nat) (w : Wave) : (s.setWave k w).queues = s.queues := rfl
@[simp] theorem State.setWave_engines (s : State) (k : Nat) (w : Wave) : (s.setWave k w).engines = s.engines := rfl
@[simp] theorem State.setWave_flips (s : State) (k : Nat) (w : Wave) : (s.setWave k w).flips = s.flips := rfl
@[simp] theorem State.setWave_thyme (s : State) (k : Nat) (w : Wave) : (s.setWave k w).thyme = s.thyme := rfl
@[simp] theorem State.setWave_tqs (s : State) (k : Nat) (w : Wave) : (s.setWave k w).tqs = s.tqs := rfl
@[simp] theorem State.setWave_requests (s : State) (k : Nat) (w : Wave) : (s.setWave k w).requests = s.requests := rfl
@[simp] theorem State.setWave_nextRtag (s : State) (k : Nat) (w : Wave) : (s.setWave k w).nextRtag = s.nextRtag := rfl
@[simp] theorem State.setWave_failures (s : State) (k : Nat) (w : Wave) : (s.setWave k w).failures = s.failures := rfl
@[simp] theorem State.setWave_tableResize (s : State) (k : Nat) (w : Wave) : (s.setWave k w).tableResize = s.tableResize := rfl
@[simp] theorem State.setWave_flushWait (s : State) (k : Nat) (w : Wave) : (s.setWave k w).flushWait = s.flushWait := rfl
@[simp] theorem State.setWave_scrub (s : State) (k : Nat) (w : Wave) : (s.setWave k w).scrub = s.scrub := rfl
@[simp] theorem State.setWave_tableWaiting (s : State) (k : Nat) (w : Wave) : (s.setWave k w).tableWaiting = s.tableWaiting := rfl
@[simp] theorem State.setWave_resizeDone (s : State) (k : Nat) (w : Wave) : (s.setWave k w).resizeDone = s.resizeDone := rfl
@[simp] theorem State.setWave_ports (s : State) (k : Nat) (w : Wave) : (s.setWave k w).ports = s.ports := rfl
@[simp] theorem State.setWave_portHeld (s : State) (k : Nat) (w : Wave) : (s.setWave k w).portHeld = s.portHeld := rfl
@[simp] theorem State.setWave_outstanding (s : State) (k : Nat) (w : Wave) : (s.setWave k w).outstanding = s.outstanding := rfl
@[simp] theorem State.setWave_nextTag (s : State) (k : Nat) (w : Wave) : (s.setWave k w).nextTag = s.nextTag := rfl
@[simp] theorem State.setWave_ubnorNarrow (s : State) (k : Nat) (w : Wave) : (s.setWave k w).ubnorNarrow = s.ubnorNarrow := rfl
@[simp] theorem State.setWave_ubnorDown (s : State) (k : Nat) (w : Wave) : (s.setWave k w).ubnorDown = s.ubnorDown := rfl
@[simp] theorem State.setWave_atsHolders (s : State) (k : Nat) (w : Wave) : (s.setWave k w).atsHolders = s.atsHolders := rfl
@[simp] theorem State.setWave_distrusted (s : State) (k : Nat) (w : Wave) : (s.setWave k w).distrusted = s.distrusted := rfl
@[simp] theorem State.setWave_cfg (s : State) (k : Nat) (w : Wave) : (s.setWave k w).cfg = s.cfg := rfl
@[simp] theorem State.setWave_heldCaptures (s : State) (k : Nat) (w : Wave) : (s.setWave k w).heldCaptures = s.heldCaptures := rfl
@[simp] theorem State.setWave_captureOld (s : State) (k : Nat) (w : Wave) : (s.setWave k w).captureOld = s.captureOld := rfl
@[simp] theorem State.setWave_fenced (s : State) (k : Nat) (w : Wave) : (s.setWave k w).fenced = s.fenced := rfl
@[simp] theorem State.setWave_harts (s : State) (k : Nat) (w : Wave) : (s.setWave k w).harts = s.harts := rfl
@[simp] theorem State.setWave_aplics (s : State) (k : Nat) (w : Wave) : (s.setWave k w).aplics = s.aplics := rfl
@[simp] theorem State.setWave_slices (s : State) (k : Nat) (w : Wave) : (s.setWave k w).slices = s.slices := rfl
@[simp] theorem State.setWave_power (s : State) (k : Nat) (w : Wave) : (s.setWave k w).power = s.power := rfl
@[simp] theorem State.setWave_boot (s : State) (k : Nat) (w : Wave) : (s.setWave k w).boot = s.boot := rfl
@[simp] theorem State.setWave_service (s : State) (k : Nat) (w : Wave) : (s.setWave k w).service = s.service := rfl
@[simp] theorem State.setWave_cycle (s : State) (k : Nat) (w : Wave) : (s.setWave k w).cycle = s.cycle := rfl
@[simp] theorem State.setWave_busy (s : State) (k : Nat) (w : Wave) : (s.setWave k w).busy = s.busy := rfl
@[simp] theorem State.setWave_latches (s : State) (k : Nat) (w : Wave) : (s.setWave k w).latches = s.latches := rfl
@[simp] theorem State.setWave_gtime (s : State) (k : Nat) (w : Wave) : (s.setWave k w).gtime = s.gtime := rfl
@[simp] theorem State.setWave_subNs (s : State) (k : Nat) (w : Wave) : (s.setWave k w).subNs = s.subNs := rfl
@[simp] theorem State.setWave_slewLeft (s : State) (k : Nat) (w : Wave) : (s.setWave k w).slewLeft = s.slewLeft := rfl
@[simp] theorem State.setWave_slewAcc (s : State) (k : Nat) (w : Wave) : (s.setWave k w).slewAcc = s.slewAcc := rfl
@[simp] theorem State.setWave_sourceSeen (s : State) (k : Nat) (w : Wave) : (s.setWave k w).sourceSeen = s.sourceSeen := rfl
@[simp] theorem State.setWave_cur (s : State) (k : Nat) (w : Wave) : (s.setWave k w).cur = s.cur := rfl
@[simp] theorem State.setWave_serial (s : State) (k : Nat) (w : Wave) : (s.setWave k w).serial = s.serial := rfl
@[simp] theorem State.setWave_reseeds (s : State) (k : Nat) (w : Wave) : (s.setWave k w).reseeds = s.reseeds := rfl
@[simp] theorem State.setWave_fresh (s : State) (k : Nat) (w : Wave) : (s.setWave k w).fresh = s.fresh := rfl
@[simp] theorem State.setWave_inputs (s : State) (k : Nat) (w : Wave) : (s.setWave k w).inputs = s.inputs := rfl
@[simp] theorem State.setWave_out (s : State) (k : Nat) (w : Wave) : (s.setWave k w).out = s.out := rfl

/-! ### setCrew -/

@[simp] theorem State.setCrew_mem (s : State) (c : Nat) (x : Crew) : (s.setCrew c x).mem = s.mem := rfl
@[simp] theorem State.setCrew_poisoned (s : State) (c : Nat) (x : Crew) : (s.setCrew c x).poisoned = s.poisoned := rfl
@[simp] theorem State.setCrew_upsets (s : State) (c : Nat) (x : Crew) : (s.setCrew c x).upsets = s.upsets := rfl
@[simp] theorem State.setCrew_releases (s : State) (c : Nat) (x : Crew) : (s.setCrew c x).releases = s.releases := rfl
@[simp] theorem State.setCrew_hub (s : State) (c : Nat) (x : Crew) : (s.setCrew c x).hub = s.hub := rfl
@[simp] theorem State.setCrew_waves (s : State) (c : Nat) (x : Crew) : (s.setCrew c x).waves = s.waves := rfl
@[simp] theorem State.setCrew_crews (s : State) (c : Nat) (x : Crew) : (s.setCrew c x).crews = SMap.put s.crews c x := rfl
@[simp] theorem State.setCrew_launches (s : State) (c : Nat) (x : Crew) : (s.setCrew c x).launches = s.launches := rfl
@[simp] theorem State.setCrew_cores (s : State) (c : Nat) (x : Crew) : (s.setCrew c x).cores = s.cores := rfl
@[simp] theorem State.setCrew_gens (s : State) (c : Nat) (x : Crew) : (s.setCrew c x).gens = s.gens := rfl
@[simp] theorem State.setCrew_residents (s : State) (c : Nat) (x : Crew) : (s.setCrew c x).residents = s.residents := rfl
@[simp] theorem State.setCrew_swaps (s : State) (c : Nat) (x : Crew) : (s.setCrew c x).swaps = s.swaps := rfl
@[simp] theorem State.setCrew_residentSince (s : State) (c : Nat) (x : Crew) : (s.setCrew c x).residentSince = s.residentSince := rfl
@[simp] theorem State.setCrew_queues (s : State) (c : Nat) (x : Crew) : (s.setCrew c x).queues = s.queues := rfl
@[simp] theorem State.setCrew_engines (s : State) (c : Nat) (x : Crew) : (s.setCrew c x).engines = s.engines := rfl
@[simp] theorem State.setCrew_flips (s : State) (c : Nat) (x : Crew) : (s.setCrew c x).flips = s.flips := rfl
@[simp] theorem State.setCrew_thyme (s : State) (c : Nat) (x : Crew) : (s.setCrew c x).thyme = s.thyme := rfl
@[simp] theorem State.setCrew_tqs (s : State) (c : Nat) (x : Crew) : (s.setCrew c x).tqs = s.tqs := rfl
@[simp] theorem State.setCrew_requests (s : State) (c : Nat) (x : Crew) : (s.setCrew c x).requests = s.requests := rfl
@[simp] theorem State.setCrew_nextRtag (s : State) (c : Nat) (x : Crew) : (s.setCrew c x).nextRtag = s.nextRtag := rfl
@[simp] theorem State.setCrew_failures (s : State) (c : Nat) (x : Crew) : (s.setCrew c x).failures = s.failures := rfl
@[simp] theorem State.setCrew_tableResize (s : State) (c : Nat) (x : Crew) : (s.setCrew c x).tableResize = s.tableResize := rfl
@[simp] theorem State.setCrew_flushWait (s : State) (c : Nat) (x : Crew) : (s.setCrew c x).flushWait = s.flushWait := rfl
@[simp] theorem State.setCrew_scrub (s : State) (c : Nat) (x : Crew) : (s.setCrew c x).scrub = s.scrub := rfl
@[simp] theorem State.setCrew_tableWaiting (s : State) (c : Nat) (x : Crew) : (s.setCrew c x).tableWaiting = s.tableWaiting := rfl
@[simp] theorem State.setCrew_resizeDone (s : State) (c : Nat) (x : Crew) : (s.setCrew c x).resizeDone = s.resizeDone := rfl
@[simp] theorem State.setCrew_ports (s : State) (c : Nat) (x : Crew) : (s.setCrew c x).ports = s.ports := rfl
@[simp] theorem State.setCrew_portHeld (s : State) (c : Nat) (x : Crew) : (s.setCrew c x).portHeld = s.portHeld := rfl
@[simp] theorem State.setCrew_outstanding (s : State) (c : Nat) (x : Crew) : (s.setCrew c x).outstanding = s.outstanding := rfl
@[simp] theorem State.setCrew_nextTag (s : State) (c : Nat) (x : Crew) : (s.setCrew c x).nextTag = s.nextTag := rfl
@[simp] theorem State.setCrew_ubnorNarrow (s : State) (c : Nat) (x : Crew) : (s.setCrew c x).ubnorNarrow = s.ubnorNarrow := rfl
@[simp] theorem State.setCrew_ubnorDown (s : State) (c : Nat) (x : Crew) : (s.setCrew c x).ubnorDown = s.ubnorDown := rfl
@[simp] theorem State.setCrew_atsHolders (s : State) (c : Nat) (x : Crew) : (s.setCrew c x).atsHolders = s.atsHolders := rfl
@[simp] theorem State.setCrew_distrusted (s : State) (c : Nat) (x : Crew) : (s.setCrew c x).distrusted = s.distrusted := rfl
@[simp] theorem State.setCrew_cfg (s : State) (c : Nat) (x : Crew) : (s.setCrew c x).cfg = s.cfg := rfl
@[simp] theorem State.setCrew_heldCaptures (s : State) (c : Nat) (x : Crew) : (s.setCrew c x).heldCaptures = s.heldCaptures := rfl
@[simp] theorem State.setCrew_captureOld (s : State) (c : Nat) (x : Crew) : (s.setCrew c x).captureOld = s.captureOld := rfl
@[simp] theorem State.setCrew_fenced (s : State) (c : Nat) (x : Crew) : (s.setCrew c x).fenced = s.fenced := rfl
@[simp] theorem State.setCrew_harts (s : State) (c : Nat) (x : Crew) : (s.setCrew c x).harts = s.harts := rfl
@[simp] theorem State.setCrew_aplics (s : State) (c : Nat) (x : Crew) : (s.setCrew c x).aplics = s.aplics := rfl
@[simp] theorem State.setCrew_slices (s : State) (c : Nat) (x : Crew) : (s.setCrew c x).slices = s.slices := rfl
@[simp] theorem State.setCrew_power (s : State) (c : Nat) (x : Crew) : (s.setCrew c x).power = s.power := rfl
@[simp] theorem State.setCrew_boot (s : State) (c : Nat) (x : Crew) : (s.setCrew c x).boot = s.boot := rfl
@[simp] theorem State.setCrew_service (s : State) (c : Nat) (x : Crew) : (s.setCrew c x).service = s.service := rfl
@[simp] theorem State.setCrew_cycle (s : State) (c : Nat) (x : Crew) : (s.setCrew c x).cycle = s.cycle := rfl
@[simp] theorem State.setCrew_busy (s : State) (c : Nat) (x : Crew) : (s.setCrew c x).busy = s.busy := rfl
@[simp] theorem State.setCrew_latches (s : State) (c : Nat) (x : Crew) : (s.setCrew c x).latches = s.latches := rfl
@[simp] theorem State.setCrew_gtime (s : State) (c : Nat) (x : Crew) : (s.setCrew c x).gtime = s.gtime := rfl
@[simp] theorem State.setCrew_subNs (s : State) (c : Nat) (x : Crew) : (s.setCrew c x).subNs = s.subNs := rfl
@[simp] theorem State.setCrew_slewLeft (s : State) (c : Nat) (x : Crew) : (s.setCrew c x).slewLeft = s.slewLeft := rfl
@[simp] theorem State.setCrew_slewAcc (s : State) (c : Nat) (x : Crew) : (s.setCrew c x).slewAcc = s.slewAcc := rfl
@[simp] theorem State.setCrew_sourceSeen (s : State) (c : Nat) (x : Crew) : (s.setCrew c x).sourceSeen = s.sourceSeen := rfl
@[simp] theorem State.setCrew_cur (s : State) (c : Nat) (x : Crew) : (s.setCrew c x).cur = s.cur := rfl
@[simp] theorem State.setCrew_serial (s : State) (c : Nat) (x : Crew) : (s.setCrew c x).serial = s.serial := rfl
@[simp] theorem State.setCrew_reseeds (s : State) (c : Nat) (x : Crew) : (s.setCrew c x).reseeds = s.reseeds := rfl
@[simp] theorem State.setCrew_fresh (s : State) (c : Nat) (x : Crew) : (s.setCrew c x).fresh = s.fresh := rfl
@[simp] theorem State.setCrew_inputs (s : State) (c : Nat) (x : Crew) : (s.setCrew c x).inputs = s.inputs := rfl
@[simp] theorem State.setCrew_out (s : State) (c : Nat) (x : Crew) : (s.setCrew c x).out = s.out := rfl

/-! ### setLaunch -/

@[simp] theorem State.setLaunch_mem (s : State) (n : Nat) (x : Launch) : (s.setLaunch n x).mem = s.mem := rfl
@[simp] theorem State.setLaunch_poisoned (s : State) (n : Nat) (x : Launch) : (s.setLaunch n x).poisoned = s.poisoned := rfl
@[simp] theorem State.setLaunch_upsets (s : State) (n : Nat) (x : Launch) : (s.setLaunch n x).upsets = s.upsets := rfl
@[simp] theorem State.setLaunch_releases (s : State) (n : Nat) (x : Launch) : (s.setLaunch n x).releases = s.releases := rfl
@[simp] theorem State.setLaunch_hub (s : State) (n : Nat) (x : Launch) : (s.setLaunch n x).hub = s.hub := rfl
@[simp] theorem State.setLaunch_waves (s : State) (n : Nat) (x : Launch) : (s.setLaunch n x).waves = s.waves := rfl
@[simp] theorem State.setLaunch_crews (s : State) (n : Nat) (x : Launch) : (s.setLaunch n x).crews = s.crews := rfl
@[simp] theorem State.setLaunch_launches (s : State) (n : Nat) (x : Launch) : (s.setLaunch n x).launches = SMap.put s.launches n x := rfl
@[simp] theorem State.setLaunch_cores (s : State) (n : Nat) (x : Launch) : (s.setLaunch n x).cores = s.cores := rfl
@[simp] theorem State.setLaunch_gens (s : State) (n : Nat) (x : Launch) : (s.setLaunch n x).gens = s.gens := rfl
@[simp] theorem State.setLaunch_residents (s : State) (n : Nat) (x : Launch) : (s.setLaunch n x).residents = s.residents := rfl
@[simp] theorem State.setLaunch_swaps (s : State) (n : Nat) (x : Launch) : (s.setLaunch n x).swaps = s.swaps := rfl
@[simp] theorem State.setLaunch_residentSince (s : State) (n : Nat) (x : Launch) : (s.setLaunch n x).residentSince = s.residentSince := rfl
@[simp] theorem State.setLaunch_queues (s : State) (n : Nat) (x : Launch) : (s.setLaunch n x).queues = s.queues := rfl
@[simp] theorem State.setLaunch_engines (s : State) (n : Nat) (x : Launch) : (s.setLaunch n x).engines = s.engines := rfl
@[simp] theorem State.setLaunch_flips (s : State) (n : Nat) (x : Launch) : (s.setLaunch n x).flips = s.flips := rfl
@[simp] theorem State.setLaunch_thyme (s : State) (n : Nat) (x : Launch) : (s.setLaunch n x).thyme = s.thyme := rfl
@[simp] theorem State.setLaunch_tqs (s : State) (n : Nat) (x : Launch) : (s.setLaunch n x).tqs = s.tqs := rfl
@[simp] theorem State.setLaunch_requests (s : State) (n : Nat) (x : Launch) : (s.setLaunch n x).requests = s.requests := rfl
@[simp] theorem State.setLaunch_nextRtag (s : State) (n : Nat) (x : Launch) : (s.setLaunch n x).nextRtag = s.nextRtag := rfl
@[simp] theorem State.setLaunch_failures (s : State) (n : Nat) (x : Launch) : (s.setLaunch n x).failures = s.failures := rfl
@[simp] theorem State.setLaunch_tableResize (s : State) (n : Nat) (x : Launch) : (s.setLaunch n x).tableResize = s.tableResize := rfl
@[simp] theorem State.setLaunch_flushWait (s : State) (n : Nat) (x : Launch) : (s.setLaunch n x).flushWait = s.flushWait := rfl
@[simp] theorem State.setLaunch_scrub (s : State) (n : Nat) (x : Launch) : (s.setLaunch n x).scrub = s.scrub := rfl
@[simp] theorem State.setLaunch_tableWaiting (s : State) (n : Nat) (x : Launch) : (s.setLaunch n x).tableWaiting = s.tableWaiting := rfl
@[simp] theorem State.setLaunch_resizeDone (s : State) (n : Nat) (x : Launch) : (s.setLaunch n x).resizeDone = s.resizeDone := rfl
@[simp] theorem State.setLaunch_ports (s : State) (n : Nat) (x : Launch) : (s.setLaunch n x).ports = s.ports := rfl
@[simp] theorem State.setLaunch_portHeld (s : State) (n : Nat) (x : Launch) : (s.setLaunch n x).portHeld = s.portHeld := rfl
@[simp] theorem State.setLaunch_outstanding (s : State) (n : Nat) (x : Launch) : (s.setLaunch n x).outstanding = s.outstanding := rfl
@[simp] theorem State.setLaunch_nextTag (s : State) (n : Nat) (x : Launch) : (s.setLaunch n x).nextTag = s.nextTag := rfl
@[simp] theorem State.setLaunch_ubnorNarrow (s : State) (n : Nat) (x : Launch) : (s.setLaunch n x).ubnorNarrow = s.ubnorNarrow := rfl
@[simp] theorem State.setLaunch_ubnorDown (s : State) (n : Nat) (x : Launch) : (s.setLaunch n x).ubnorDown = s.ubnorDown := rfl
@[simp] theorem State.setLaunch_atsHolders (s : State) (n : Nat) (x : Launch) : (s.setLaunch n x).atsHolders = s.atsHolders := rfl
@[simp] theorem State.setLaunch_distrusted (s : State) (n : Nat) (x : Launch) : (s.setLaunch n x).distrusted = s.distrusted := rfl
@[simp] theorem State.setLaunch_cfg (s : State) (n : Nat) (x : Launch) : (s.setLaunch n x).cfg = s.cfg := rfl
@[simp] theorem State.setLaunch_heldCaptures (s : State) (n : Nat) (x : Launch) : (s.setLaunch n x).heldCaptures = s.heldCaptures := rfl
@[simp] theorem State.setLaunch_captureOld (s : State) (n : Nat) (x : Launch) : (s.setLaunch n x).captureOld = s.captureOld := rfl
@[simp] theorem State.setLaunch_fenced (s : State) (n : Nat) (x : Launch) : (s.setLaunch n x).fenced = s.fenced := rfl
@[simp] theorem State.setLaunch_harts (s : State) (n : Nat) (x : Launch) : (s.setLaunch n x).harts = s.harts := rfl
@[simp] theorem State.setLaunch_aplics (s : State) (n : Nat) (x : Launch) : (s.setLaunch n x).aplics = s.aplics := rfl
@[simp] theorem State.setLaunch_slices (s : State) (n : Nat) (x : Launch) : (s.setLaunch n x).slices = s.slices := rfl
@[simp] theorem State.setLaunch_power (s : State) (n : Nat) (x : Launch) : (s.setLaunch n x).power = s.power := rfl
@[simp] theorem State.setLaunch_boot (s : State) (n : Nat) (x : Launch) : (s.setLaunch n x).boot = s.boot := rfl
@[simp] theorem State.setLaunch_service (s : State) (n : Nat) (x : Launch) : (s.setLaunch n x).service = s.service := rfl
@[simp] theorem State.setLaunch_cycle (s : State) (n : Nat) (x : Launch) : (s.setLaunch n x).cycle = s.cycle := rfl
@[simp] theorem State.setLaunch_busy (s : State) (n : Nat) (x : Launch) : (s.setLaunch n x).busy = s.busy := rfl
@[simp] theorem State.setLaunch_latches (s : State) (n : Nat) (x : Launch) : (s.setLaunch n x).latches = s.latches := rfl
@[simp] theorem State.setLaunch_gtime (s : State) (n : Nat) (x : Launch) : (s.setLaunch n x).gtime = s.gtime := rfl
@[simp] theorem State.setLaunch_subNs (s : State) (n : Nat) (x : Launch) : (s.setLaunch n x).subNs = s.subNs := rfl
@[simp] theorem State.setLaunch_slewLeft (s : State) (n : Nat) (x : Launch) : (s.setLaunch n x).slewLeft = s.slewLeft := rfl
@[simp] theorem State.setLaunch_slewAcc (s : State) (n : Nat) (x : Launch) : (s.setLaunch n x).slewAcc = s.slewAcc := rfl
@[simp] theorem State.setLaunch_sourceSeen (s : State) (n : Nat) (x : Launch) : (s.setLaunch n x).sourceSeen = s.sourceSeen := rfl
@[simp] theorem State.setLaunch_cur (s : State) (n : Nat) (x : Launch) : (s.setLaunch n x).cur = s.cur := rfl
@[simp] theorem State.setLaunch_serial (s : State) (n : Nat) (x : Launch) : (s.setLaunch n x).serial = s.serial := rfl
@[simp] theorem State.setLaunch_reseeds (s : State) (n : Nat) (x : Launch) : (s.setLaunch n x).reseeds = s.reseeds := rfl
@[simp] theorem State.setLaunch_fresh (s : State) (n : Nat) (x : Launch) : (s.setLaunch n x).fresh = s.fresh := rfl
@[simp] theorem State.setLaunch_inputs (s : State) (n : Nat) (x : Launch) : (s.setLaunch n x).inputs = s.inputs := rfl
@[simp] theorem State.setLaunch_out (s : State) (n : Nat) (x : Launch) : (s.setLaunch n x).out = s.out := rfl

/-! ### setByte -/

@[simp] theorem State.setByte_mem (s : State) (a : Nat) (b : Byte) : (s.setByte a b).mem = SMap.set s.mem a b freshByte := rfl
@[simp] theorem State.setByte_poisoned (s : State) (a : Nat) (b : Byte) : (s.setByte a b).poisoned = s.poisoned := rfl
@[simp] theorem State.setByte_upsets (s : State) (a : Nat) (b : Byte) : (s.setByte a b).upsets = s.upsets := rfl
@[simp] theorem State.setByte_releases (s : State) (a : Nat) (b : Byte) : (s.setByte a b).releases = s.releases := rfl
@[simp] theorem State.setByte_hub (s : State) (a : Nat) (b : Byte) : (s.setByte a b).hub = s.hub := rfl
@[simp] theorem State.setByte_waves (s : State) (a : Nat) (b : Byte) : (s.setByte a b).waves = s.waves := rfl
@[simp] theorem State.setByte_crews (s : State) (a : Nat) (b : Byte) : (s.setByte a b).crews = s.crews := rfl
@[simp] theorem State.setByte_launches (s : State) (a : Nat) (b : Byte) : (s.setByte a b).launches = s.launches := rfl
@[simp] theorem State.setByte_cores (s : State) (a : Nat) (b : Byte) : (s.setByte a b).cores = s.cores := rfl
@[simp] theorem State.setByte_gens (s : State) (a : Nat) (b : Byte) : (s.setByte a b).gens = s.gens := rfl
@[simp] theorem State.setByte_residents (s : State) (a : Nat) (b : Byte) : (s.setByte a b).residents = s.residents := rfl
@[simp] theorem State.setByte_swaps (s : State) (a : Nat) (b : Byte) : (s.setByte a b).swaps = s.swaps := rfl
@[simp] theorem State.setByte_residentSince (s : State) (a : Nat) (b : Byte) : (s.setByte a b).residentSince = s.residentSince := rfl
@[simp] theorem State.setByte_queues (s : State) (a : Nat) (b : Byte) : (s.setByte a b).queues = s.queues := rfl
@[simp] theorem State.setByte_engines (s : State) (a : Nat) (b : Byte) : (s.setByte a b).engines = s.engines := rfl
@[simp] theorem State.setByte_flips (s : State) (a : Nat) (b : Byte) : (s.setByte a b).flips = s.flips := rfl
@[simp] theorem State.setByte_thyme (s : State) (a : Nat) (b : Byte) : (s.setByte a b).thyme = s.thyme := rfl
@[simp] theorem State.setByte_tqs (s : State) (a : Nat) (b : Byte) : (s.setByte a b).tqs = s.tqs := rfl
@[simp] theorem State.setByte_requests (s : State) (a : Nat) (b : Byte) : (s.setByte a b).requests = s.requests := rfl
@[simp] theorem State.setByte_nextRtag (s : State) (a : Nat) (b : Byte) : (s.setByte a b).nextRtag = s.nextRtag := rfl
@[simp] theorem State.setByte_failures (s : State) (a : Nat) (b : Byte) : (s.setByte a b).failures = s.failures := rfl
@[simp] theorem State.setByte_tableResize (s : State) (a : Nat) (b : Byte) : (s.setByte a b).tableResize = s.tableResize := rfl
@[simp] theorem State.setByte_flushWait (s : State) (a : Nat) (b : Byte) : (s.setByte a b).flushWait = s.flushWait := rfl
@[simp] theorem State.setByte_scrub (s : State) (a : Nat) (b : Byte) : (s.setByte a b).scrub = s.scrub := rfl
@[simp] theorem State.setByte_tableWaiting (s : State) (a : Nat) (b : Byte) : (s.setByte a b).tableWaiting = s.tableWaiting := rfl
@[simp] theorem State.setByte_resizeDone (s : State) (a : Nat) (b : Byte) : (s.setByte a b).resizeDone = s.resizeDone := rfl
@[simp] theorem State.setByte_ports (s : State) (a : Nat) (b : Byte) : (s.setByte a b).ports = s.ports := rfl
@[simp] theorem State.setByte_portHeld (s : State) (a : Nat) (b : Byte) : (s.setByte a b).portHeld = s.portHeld := rfl
@[simp] theorem State.setByte_outstanding (s : State) (a : Nat) (b : Byte) : (s.setByte a b).outstanding = s.outstanding := rfl
@[simp] theorem State.setByte_nextTag (s : State) (a : Nat) (b : Byte) : (s.setByte a b).nextTag = s.nextTag := rfl
@[simp] theorem State.setByte_ubnorNarrow (s : State) (a : Nat) (b : Byte) : (s.setByte a b).ubnorNarrow = s.ubnorNarrow := rfl
@[simp] theorem State.setByte_ubnorDown (s : State) (a : Nat) (b : Byte) : (s.setByte a b).ubnorDown = s.ubnorDown := rfl
@[simp] theorem State.setByte_atsHolders (s : State) (a : Nat) (b : Byte) : (s.setByte a b).atsHolders = s.atsHolders := rfl
@[simp] theorem State.setByte_distrusted (s : State) (a : Nat) (b : Byte) : (s.setByte a b).distrusted = s.distrusted := rfl
@[simp] theorem State.setByte_cfg (s : State) (a : Nat) (b : Byte) : (s.setByte a b).cfg = s.cfg := rfl
@[simp] theorem State.setByte_heldCaptures (s : State) (a : Nat) (b : Byte) : (s.setByte a b).heldCaptures = s.heldCaptures := rfl
@[simp] theorem State.setByte_captureOld (s : State) (a : Nat) (b : Byte) : (s.setByte a b).captureOld = s.captureOld := rfl
@[simp] theorem State.setByte_fenced (s : State) (a : Nat) (b : Byte) : (s.setByte a b).fenced = s.fenced := rfl
@[simp] theorem State.setByte_harts (s : State) (a : Nat) (b : Byte) : (s.setByte a b).harts = s.harts := rfl
@[simp] theorem State.setByte_aplics (s : State) (a : Nat) (b : Byte) : (s.setByte a b).aplics = s.aplics := rfl
@[simp] theorem State.setByte_slices (s : State) (a : Nat) (b : Byte) : (s.setByte a b).slices = s.slices := rfl
@[simp] theorem State.setByte_power (s : State) (a : Nat) (b : Byte) : (s.setByte a b).power = s.power := rfl
@[simp] theorem State.setByte_boot (s : State) (a : Nat) (b : Byte) : (s.setByte a b).boot = s.boot := rfl
@[simp] theorem State.setByte_service (s : State) (a : Nat) (b : Byte) : (s.setByte a b).service = s.service := rfl
@[simp] theorem State.setByte_cycle (s : State) (a : Nat) (b : Byte) : (s.setByte a b).cycle = s.cycle := rfl
@[simp] theorem State.setByte_busy (s : State) (a : Nat) (b : Byte) : (s.setByte a b).busy = s.busy := rfl
@[simp] theorem State.setByte_latches (s : State) (a : Nat) (b : Byte) : (s.setByte a b).latches = s.latches := rfl
@[simp] theorem State.setByte_gtime (s : State) (a : Nat) (b : Byte) : (s.setByte a b).gtime = s.gtime := rfl
@[simp] theorem State.setByte_subNs (s : State) (a : Nat) (b : Byte) : (s.setByte a b).subNs = s.subNs := rfl
@[simp] theorem State.setByte_slewLeft (s : State) (a : Nat) (b : Byte) : (s.setByte a b).slewLeft = s.slewLeft := rfl
@[simp] theorem State.setByte_slewAcc (s : State) (a : Nat) (b : Byte) : (s.setByte a b).slewAcc = s.slewAcc := rfl
@[simp] theorem State.setByte_sourceSeen (s : State) (a : Nat) (b : Byte) : (s.setByte a b).sourceSeen = s.sourceSeen := rfl
@[simp] theorem State.setByte_cur (s : State) (a : Nat) (b : Byte) : (s.setByte a b).cur = s.cur := rfl
@[simp] theorem State.setByte_serial (s : State) (a : Nat) (b : Byte) : (s.setByte a b).serial = s.serial := rfl
@[simp] theorem State.setByte_reseeds (s : State) (a : Nat) (b : Byte) : (s.setByte a b).reseeds = s.reseeds := rfl
@[simp] theorem State.setByte_fresh (s : State) (a : Nat) (b : Byte) : (s.setByte a b).fresh = s.fresh := rfl
@[simp] theorem State.setByte_inputs (s : State) (a : Nat) (b : Byte) : (s.setByte a b).inputs = s.inputs := rfl
@[simp] theorem State.setByte_out (s : State) (a : Nat) (b : Byte) : (s.setByte a b).out = s.out := rfl

/-! ### hubPut -/

@[simp] theorem State.hubPut_mem (s : State) (o v : Nat) : (s.hubPut o v).mem = s.mem := rfl
@[simp] theorem State.hubPut_poisoned (s : State) (o v : Nat) : (s.hubPut o v).poisoned = s.poisoned := rfl
@[simp] theorem State.hubPut_upsets (s : State) (o v : Nat) : (s.hubPut o v).upsets = s.upsets := rfl
@[simp] theorem State.hubPut_releases (s : State) (o v : Nat) : (s.hubPut o v).releases = s.releases := rfl
@[simp] theorem State.hubPut_hub (s : State) (o v : Nat) : (s.hubPut o v).hub = SMap.put s.hub o (BitVec.ofNat 64 v) := rfl
@[simp] theorem State.hubPut_waves (s : State) (o v : Nat) : (s.hubPut o v).waves = s.waves := rfl
@[simp] theorem State.hubPut_crews (s : State) (o v : Nat) : (s.hubPut o v).crews = s.crews := rfl
@[simp] theorem State.hubPut_launches (s : State) (o v : Nat) : (s.hubPut o v).launches = s.launches := rfl
@[simp] theorem State.hubPut_cores (s : State) (o v : Nat) : (s.hubPut o v).cores = s.cores := rfl
@[simp] theorem State.hubPut_gens (s : State) (o v : Nat) : (s.hubPut o v).gens = s.gens := rfl
@[simp] theorem State.hubPut_residents (s : State) (o v : Nat) : (s.hubPut o v).residents = s.residents := rfl
@[simp] theorem State.hubPut_swaps (s : State) (o v : Nat) : (s.hubPut o v).swaps = s.swaps := rfl
@[simp] theorem State.hubPut_residentSince (s : State) (o v : Nat) : (s.hubPut o v).residentSince = s.residentSince := rfl
@[simp] theorem State.hubPut_queues (s : State) (o v : Nat) : (s.hubPut o v).queues = s.queues := rfl
@[simp] theorem State.hubPut_engines (s : State) (o v : Nat) : (s.hubPut o v).engines = s.engines := rfl
@[simp] theorem State.hubPut_flips (s : State) (o v : Nat) : (s.hubPut o v).flips = s.flips := rfl
@[simp] theorem State.hubPut_thyme (s : State) (o v : Nat) : (s.hubPut o v).thyme = s.thyme := rfl
@[simp] theorem State.hubPut_tqs (s : State) (o v : Nat) : (s.hubPut o v).tqs = s.tqs := rfl
@[simp] theorem State.hubPut_requests (s : State) (o v : Nat) : (s.hubPut o v).requests = s.requests := rfl
@[simp] theorem State.hubPut_nextRtag (s : State) (o v : Nat) : (s.hubPut o v).nextRtag = s.nextRtag := rfl
@[simp] theorem State.hubPut_failures (s : State) (o v : Nat) : (s.hubPut o v).failures = s.failures := rfl
@[simp] theorem State.hubPut_tableResize (s : State) (o v : Nat) : (s.hubPut o v).tableResize = s.tableResize := rfl
@[simp] theorem State.hubPut_flushWait (s : State) (o v : Nat) : (s.hubPut o v).flushWait = s.flushWait := rfl
@[simp] theorem State.hubPut_scrub (s : State) (o v : Nat) : (s.hubPut o v).scrub = s.scrub := rfl
@[simp] theorem State.hubPut_tableWaiting (s : State) (o v : Nat) : (s.hubPut o v).tableWaiting = s.tableWaiting := rfl
@[simp] theorem State.hubPut_resizeDone (s : State) (o v : Nat) : (s.hubPut o v).resizeDone = s.resizeDone := rfl
@[simp] theorem State.hubPut_ports (s : State) (o v : Nat) : (s.hubPut o v).ports = s.ports := rfl
@[simp] theorem State.hubPut_portHeld (s : State) (o v : Nat) : (s.hubPut o v).portHeld = s.portHeld := rfl
@[simp] theorem State.hubPut_outstanding (s : State) (o v : Nat) : (s.hubPut o v).outstanding = s.outstanding := rfl
@[simp] theorem State.hubPut_nextTag (s : State) (o v : Nat) : (s.hubPut o v).nextTag = s.nextTag := rfl
@[simp] theorem State.hubPut_ubnorNarrow (s : State) (o v : Nat) : (s.hubPut o v).ubnorNarrow = s.ubnorNarrow := rfl
@[simp] theorem State.hubPut_ubnorDown (s : State) (o v : Nat) : (s.hubPut o v).ubnorDown = s.ubnorDown := rfl
@[simp] theorem State.hubPut_atsHolders (s : State) (o v : Nat) : (s.hubPut o v).atsHolders = s.atsHolders := rfl
@[simp] theorem State.hubPut_distrusted (s : State) (o v : Nat) : (s.hubPut o v).distrusted = s.distrusted := rfl
@[simp] theorem State.hubPut_cfg (s : State) (o v : Nat) : (s.hubPut o v).cfg = s.cfg := rfl
@[simp] theorem State.hubPut_heldCaptures (s : State) (o v : Nat) : (s.hubPut o v).heldCaptures = s.heldCaptures := rfl
@[simp] theorem State.hubPut_captureOld (s : State) (o v : Nat) : (s.hubPut o v).captureOld = s.captureOld := rfl
@[simp] theorem State.hubPut_fenced (s : State) (o v : Nat) : (s.hubPut o v).fenced = s.fenced := rfl
@[simp] theorem State.hubPut_harts (s : State) (o v : Nat) : (s.hubPut o v).harts = s.harts := rfl
@[simp] theorem State.hubPut_aplics (s : State) (o v : Nat) : (s.hubPut o v).aplics = s.aplics := rfl
@[simp] theorem State.hubPut_slices (s : State) (o v : Nat) : (s.hubPut o v).slices = s.slices := rfl
@[simp] theorem State.hubPut_power (s : State) (o v : Nat) : (s.hubPut o v).power = s.power := rfl
@[simp] theorem State.hubPut_boot (s : State) (o v : Nat) : (s.hubPut o v).boot = s.boot := rfl
@[simp] theorem State.hubPut_service (s : State) (o v : Nat) : (s.hubPut o v).service = s.service := rfl
@[simp] theorem State.hubPut_cycle (s : State) (o v : Nat) : (s.hubPut o v).cycle = s.cycle := rfl
@[simp] theorem State.hubPut_busy (s : State) (o v : Nat) : (s.hubPut o v).busy = s.busy := rfl
@[simp] theorem State.hubPut_latches (s : State) (o v : Nat) : (s.hubPut o v).latches = s.latches := rfl
@[simp] theorem State.hubPut_gtime (s : State) (o v : Nat) : (s.hubPut o v).gtime = s.gtime := rfl
@[simp] theorem State.hubPut_subNs (s : State) (o v : Nat) : (s.hubPut o v).subNs = s.subNs := rfl
@[simp] theorem State.hubPut_slewLeft (s : State) (o v : Nat) : (s.hubPut o v).slewLeft = s.slewLeft := rfl
@[simp] theorem State.hubPut_slewAcc (s : State) (o v : Nat) : (s.hubPut o v).slewAcc = s.slewAcc := rfl
@[simp] theorem State.hubPut_sourceSeen (s : State) (o v : Nat) : (s.hubPut o v).sourceSeen = s.sourceSeen := rfl
@[simp] theorem State.hubPut_cur (s : State) (o v : Nat) : (s.hubPut o v).cur = s.cur := rfl
@[simp] theorem State.hubPut_serial (s : State) (o v : Nat) : (s.hubPut o v).serial = s.serial := rfl
@[simp] theorem State.hubPut_reseeds (s : State) (o v : Nat) : (s.hubPut o v).reseeds = s.reseeds := rfl
@[simp] theorem State.hubPut_fresh (s : State) (o v : Nat) : (s.hubPut o v).fresh = s.fresh := rfl
@[simp] theorem State.hubPut_inputs (s : State) (o v : Nat) : (s.hubPut o v).inputs = s.inputs := rfl
@[simp] theorem State.hubPut_out (s : State) (o v : Nat) : (s.hubPut o v).out = s.out := rfl

/-! ### emit -/

@[simp] theorem State.emit_mem (s : State) (m : OutMsg) : (s.emit m).mem = s.mem := rfl
@[simp] theorem State.emit_poisoned (s : State) (m : OutMsg) : (s.emit m).poisoned = s.poisoned := rfl
@[simp] theorem State.emit_upsets (s : State) (m : OutMsg) : (s.emit m).upsets = s.upsets := rfl
@[simp] theorem State.emit_releases (s : State) (m : OutMsg) : (s.emit m).releases = s.releases := rfl
@[simp] theorem State.emit_hub (s : State) (m : OutMsg) : (s.emit m).hub = s.hub := rfl
@[simp] theorem State.emit_waves (s : State) (m : OutMsg) : (s.emit m).waves = s.waves := rfl
@[simp] theorem State.emit_crews (s : State) (m : OutMsg) : (s.emit m).crews = s.crews := rfl
@[simp] theorem State.emit_launches (s : State) (m : OutMsg) : (s.emit m).launches = s.launches := rfl
@[simp] theorem State.emit_cores (s : State) (m : OutMsg) : (s.emit m).cores = s.cores := rfl
@[simp] theorem State.emit_gens (s : State) (m : OutMsg) : (s.emit m).gens = s.gens := rfl
@[simp] theorem State.emit_residents (s : State) (m : OutMsg) : (s.emit m).residents = s.residents := rfl
@[simp] theorem State.emit_swaps (s : State) (m : OutMsg) : (s.emit m).swaps = s.swaps := rfl
@[simp] theorem State.emit_residentSince (s : State) (m : OutMsg) : (s.emit m).residentSince = s.residentSince := rfl
@[simp] theorem State.emit_queues (s : State) (m : OutMsg) : (s.emit m).queues = s.queues := rfl
@[simp] theorem State.emit_engines (s : State) (m : OutMsg) : (s.emit m).engines = s.engines := rfl
@[simp] theorem State.emit_flips (s : State) (m : OutMsg) : (s.emit m).flips = s.flips := rfl
@[simp] theorem State.emit_thyme (s : State) (m : OutMsg) : (s.emit m).thyme = s.thyme := rfl
@[simp] theorem State.emit_tqs (s : State) (m : OutMsg) : (s.emit m).tqs = s.tqs := rfl
@[simp] theorem State.emit_requests (s : State) (m : OutMsg) : (s.emit m).requests = s.requests := rfl
@[simp] theorem State.emit_nextRtag (s : State) (m : OutMsg) : (s.emit m).nextRtag = s.nextRtag := rfl
@[simp] theorem State.emit_failures (s : State) (m : OutMsg) : (s.emit m).failures = s.failures := rfl
@[simp] theorem State.emit_tableResize (s : State) (m : OutMsg) : (s.emit m).tableResize = s.tableResize := rfl
@[simp] theorem State.emit_flushWait (s : State) (m : OutMsg) : (s.emit m).flushWait = s.flushWait := rfl
@[simp] theorem State.emit_scrub (s : State) (m : OutMsg) : (s.emit m).scrub = s.scrub := rfl
@[simp] theorem State.emit_tableWaiting (s : State) (m : OutMsg) : (s.emit m).tableWaiting = s.tableWaiting := rfl
@[simp] theorem State.emit_resizeDone (s : State) (m : OutMsg) : (s.emit m).resizeDone = s.resizeDone := rfl
@[simp] theorem State.emit_ports (s : State) (m : OutMsg) : (s.emit m).ports = s.ports := rfl
@[simp] theorem State.emit_portHeld (s : State) (m : OutMsg) : (s.emit m).portHeld = s.portHeld := rfl
@[simp] theorem State.emit_outstanding (s : State) (m : OutMsg) : (s.emit m).outstanding = s.outstanding := rfl
@[simp] theorem State.emit_nextTag (s : State) (m : OutMsg) : (s.emit m).nextTag = s.nextTag := rfl
@[simp] theorem State.emit_ubnorNarrow (s : State) (m : OutMsg) : (s.emit m).ubnorNarrow = s.ubnorNarrow := rfl
@[simp] theorem State.emit_ubnorDown (s : State) (m : OutMsg) : (s.emit m).ubnorDown = s.ubnorDown := rfl
@[simp] theorem State.emit_atsHolders (s : State) (m : OutMsg) : (s.emit m).atsHolders = s.atsHolders := rfl
@[simp] theorem State.emit_distrusted (s : State) (m : OutMsg) : (s.emit m).distrusted = s.distrusted := rfl
@[simp] theorem State.emit_cfg (s : State) (m : OutMsg) : (s.emit m).cfg = s.cfg := rfl
@[simp] theorem State.emit_heldCaptures (s : State) (m : OutMsg) : (s.emit m).heldCaptures = s.heldCaptures := rfl
@[simp] theorem State.emit_captureOld (s : State) (m : OutMsg) : (s.emit m).captureOld = s.captureOld := rfl
@[simp] theorem State.emit_fenced (s : State) (m : OutMsg) : (s.emit m).fenced = s.fenced := rfl
@[simp] theorem State.emit_harts (s : State) (m : OutMsg) : (s.emit m).harts = s.harts := rfl
@[simp] theorem State.emit_aplics (s : State) (m : OutMsg) : (s.emit m).aplics = s.aplics := rfl
@[simp] theorem State.emit_slices (s : State) (m : OutMsg) : (s.emit m).slices = s.slices := rfl
@[simp] theorem State.emit_power (s : State) (m : OutMsg) : (s.emit m).power = s.power := rfl
@[simp] theorem State.emit_boot (s : State) (m : OutMsg) : (s.emit m).boot = s.boot := rfl
@[simp] theorem State.emit_service (s : State) (m : OutMsg) : (s.emit m).service = s.service := rfl
@[simp] theorem State.emit_cycle (s : State) (m : OutMsg) : (s.emit m).cycle = s.cycle := rfl
@[simp] theorem State.emit_busy (s : State) (m : OutMsg) : (s.emit m).busy = s.busy := rfl
@[simp] theorem State.emit_latches (s : State) (m : OutMsg) : (s.emit m).latches = s.latches := rfl
@[simp] theorem State.emit_gtime (s : State) (m : OutMsg) : (s.emit m).gtime = s.gtime := rfl
@[simp] theorem State.emit_subNs (s : State) (m : OutMsg) : (s.emit m).subNs = s.subNs := rfl
@[simp] theorem State.emit_slewLeft (s : State) (m : OutMsg) : (s.emit m).slewLeft = s.slewLeft := rfl
@[simp] theorem State.emit_slewAcc (s : State) (m : OutMsg) : (s.emit m).slewAcc = s.slewAcc := rfl
@[simp] theorem State.emit_sourceSeen (s : State) (m : OutMsg) : (s.emit m).sourceSeen = s.sourceSeen := rfl
@[simp] theorem State.emit_cur (s : State) (m : OutMsg) : (s.emit m).cur = s.cur := rfl
@[simp] theorem State.emit_serial (s : State) (m : OutMsg) : (s.emit m).serial = s.serial := rfl
@[simp] theorem State.emit_reseeds (s : State) (m : OutMsg) : (s.emit m).reseeds = s.reseeds := rfl
@[simp] theorem State.emit_fresh (s : State) (m : OutMsg) : (s.emit m).fresh = s.fresh := rfl
@[simp] theorem State.emit_inputs (s : State) (m : OutMsg) : (s.emit m).inputs = s.inputs := rfl
@[simp] theorem State.emit_out (s : State) (m : OutMsg) : (s.emit m).out = s.out ++ [m] := rfl

/-! ### due -/

@[simp] theorem State.due_mem (s : State) (i : Instr) : (s.due i).mem = s.mem := rfl
@[simp] theorem State.due_poisoned (s : State) (i : Instr) : (s.due i).poisoned = s.poisoned := rfl
@[simp] theorem State.due_upsets (s : State) (i : Instr) : (s.due i).upsets = s.upsets := rfl
@[simp] theorem State.due_releases (s : State) (i : Instr) : (s.due i).releases = s.releases := rfl
@[simp] theorem State.due_hub (s : State) (i : Instr) : (s.due i).hub = s.hub := rfl
@[simp] theorem State.due_waves (s : State) (i : Instr) : (s.due i).waves = s.waves := rfl
@[simp] theorem State.due_crews (s : State) (i : Instr) : (s.due i).crews = s.crews := rfl
@[simp] theorem State.due_launches (s : State) (i : Instr) : (s.due i).launches = s.launches := rfl
@[simp] theorem State.due_cores (s : State) (i : Instr) : (s.due i).cores = s.cores := rfl
@[simp] theorem State.due_gens (s : State) (i : Instr) : (s.due i).gens = s.gens := rfl
@[simp] theorem State.due_residents (s : State) (i : Instr) : (s.due i).residents = s.residents := rfl
@[simp] theorem State.due_swaps (s : State) (i : Instr) : (s.due i).swaps = s.swaps := rfl
@[simp] theorem State.due_residentSince (s : State) (i : Instr) : (s.due i).residentSince = s.residentSince := rfl
@[simp] theorem State.due_queues (s : State) (i : Instr) : (s.due i).queues = s.queues := rfl
@[simp] theorem State.due_engines (s : State) (i : Instr) : (s.due i).engines = s.engines := rfl
@[simp] theorem State.due_flips (s : State) (i : Instr) : (s.due i).flips = s.flips := rfl
@[simp] theorem State.due_thyme (s : State) (i : Instr) : (s.due i).thyme = s.thyme := rfl
@[simp] theorem State.due_tqs (s : State) (i : Instr) : (s.due i).tqs = s.tqs := rfl
@[simp] theorem State.due_requests (s : State) (i : Instr) : (s.due i).requests = s.requests := rfl
@[simp] theorem State.due_nextRtag (s : State) (i : Instr) : (s.due i).nextRtag = s.nextRtag := rfl
@[simp] theorem State.due_failures (s : State) (i : Instr) : (s.due i).failures = s.failures := rfl
@[simp] theorem State.due_tableResize (s : State) (i : Instr) : (s.due i).tableResize = s.tableResize := rfl
@[simp] theorem State.due_flushWait (s : State) (i : Instr) : (s.due i).flushWait = s.flushWait := rfl
@[simp] theorem State.due_scrub (s : State) (i : Instr) : (s.due i).scrub = s.scrub := rfl
@[simp] theorem State.due_tableWaiting (s : State) (i : Instr) : (s.due i).tableWaiting = s.tableWaiting := rfl
@[simp] theorem State.due_resizeDone (s : State) (i : Instr) : (s.due i).resizeDone = s.resizeDone := rfl
@[simp] theorem State.due_ports (s : State) (i : Instr) : (s.due i).ports = s.ports := rfl
@[simp] theorem State.due_portHeld (s : State) (i : Instr) : (s.due i).portHeld = s.portHeld := rfl
@[simp] theorem State.due_outstanding (s : State) (i : Instr) : (s.due i).outstanding = s.outstanding := rfl
@[simp] theorem State.due_nextTag (s : State) (i : Instr) : (s.due i).nextTag = s.nextTag := rfl
@[simp] theorem State.due_ubnorNarrow (s : State) (i : Instr) : (s.due i).ubnorNarrow = s.ubnorNarrow := rfl
@[simp] theorem State.due_ubnorDown (s : State) (i : Instr) : (s.due i).ubnorDown = s.ubnorDown := rfl
@[simp] theorem State.due_atsHolders (s : State) (i : Instr) : (s.due i).atsHolders = s.atsHolders := rfl
@[simp] theorem State.due_distrusted (s : State) (i : Instr) : (s.due i).distrusted = s.distrusted := rfl
@[simp] theorem State.due_cfg (s : State) (i : Instr) : (s.due i).cfg = s.cfg := rfl
@[simp] theorem State.due_heldCaptures (s : State) (i : Instr) : (s.due i).heldCaptures = s.heldCaptures := rfl
@[simp] theorem State.due_captureOld (s : State) (i : Instr) : (s.due i).captureOld = s.captureOld := rfl
@[simp] theorem State.due_fenced (s : State) (i : Instr) : (s.due i).fenced = s.fenced := rfl
@[simp] theorem State.due_harts (s : State) (i : Instr) : (s.due i).harts = s.harts := rfl
@[simp] theorem State.due_aplics (s : State) (i : Instr) : (s.due i).aplics = s.aplics := rfl
@[simp] theorem State.due_slices (s : State) (i : Instr) : (s.due i).slices = s.slices := rfl
@[simp] theorem State.due_power (s : State) (i : Instr) : (s.due i).power = s.power := rfl
@[simp] theorem State.due_boot (s : State) (i : Instr) : (s.due i).boot = s.boot := rfl
@[simp] theorem State.due_service (s : State) (i : Instr) : (s.due i).service = s.service := rfl
@[simp] theorem State.due_cycle (s : State) (i : Instr) : (s.due i).cycle = s.cycle := rfl
@[simp] theorem State.due_busy (s : State) (i : Instr) : (s.due i).busy = s.busy := rfl
@[simp] theorem State.due_latches (s : State) (i : Instr) : (s.due i).latches = s.latches := rfl
@[simp] theorem State.due_gtime (s : State) (i : Instr) : (s.due i).gtime = s.gtime := rfl
@[simp] theorem State.due_subNs (s : State) (i : Instr) : (s.due i).subNs = s.subNs := rfl
@[simp] theorem State.due_slewLeft (s : State) (i : Instr) : (s.due i).slewLeft = s.slewLeft := rfl
@[simp] theorem State.due_slewAcc (s : State) (i : Instr) : (s.due i).slewAcc = s.slewAcc := rfl
@[simp] theorem State.due_sourceSeen (s : State) (i : Instr) : (s.due i).sourceSeen = s.sourceSeen := rfl
@[simp] theorem State.due_cur (s : State) (i : Instr) : (s.due i).cur = s.cur := rfl
@[simp] theorem State.due_serial (s : State) (i : Instr) : (s.due i).serial = s.serial := rfl
@[simp] theorem State.due_reseeds (s : State) (i : Instr) : (s.due i).reseeds = s.reseeds := rfl
@[simp] theorem State.due_fresh (s : State) (i : Instr) : (s.due i).fresh = s.fresh := rfl
@[simp] theorem State.due_inputs (s : State) (i : Instr) : (s.due i).inputs = i :: s.inputs := rfl
@[simp] theorem State.due_out (s : State) (i : Instr) : (s.due i).out = s.out := rfl

/-! ### setThread -/

@[simp] theorem State.setThread_mem (s : State) (k l : Nat) (t : Thread) : (s.setThread k l t).mem = s.mem := rfl
@[simp] theorem State.setThread_poisoned (s : State) (k l : Nat) (t : Thread) : (s.setThread k l t).poisoned = s.poisoned := rfl
@[simp] theorem State.setThread_upsets (s : State) (k l : Nat) (t : Thread) : (s.setThread k l t).upsets = s.upsets := rfl
@[simp] theorem State.setThread_releases (s : State) (k l : Nat) (t : Thread) : (s.setThread k l t).releases = s.releases := rfl
@[simp] theorem State.setThread_hub (s : State) (k l : Nat) (t : Thread) : (s.setThread k l t).hub = s.hub := rfl
@[simp] theorem State.setThread_waves (s : State) (k l : Nat) (t : Thread) : (s.setThread k l t).waves = SMap.put s.waves k ((s.wave k).setThread l t) := rfl
@[simp] theorem State.setThread_crews (s : State) (k l : Nat) (t : Thread) : (s.setThread k l t).crews = s.crews := rfl
@[simp] theorem State.setThread_launches (s : State) (k l : Nat) (t : Thread) : (s.setThread k l t).launches = s.launches := rfl
@[simp] theorem State.setThread_cores (s : State) (k l : Nat) (t : Thread) : (s.setThread k l t).cores = s.cores := rfl
@[simp] theorem State.setThread_gens (s : State) (k l : Nat) (t : Thread) : (s.setThread k l t).gens = s.gens := rfl
@[simp] theorem State.setThread_residents (s : State) (k l : Nat) (t : Thread) : (s.setThread k l t).residents = s.residents := rfl
@[simp] theorem State.setThread_swaps (s : State) (k l : Nat) (t : Thread) : (s.setThread k l t).swaps = s.swaps := rfl
@[simp] theorem State.setThread_residentSince (s : State) (k l : Nat) (t : Thread) : (s.setThread k l t).residentSince = s.residentSince := rfl
@[simp] theorem State.setThread_queues (s : State) (k l : Nat) (t : Thread) : (s.setThread k l t).queues = s.queues := rfl
@[simp] theorem State.setThread_engines (s : State) (k l : Nat) (t : Thread) : (s.setThread k l t).engines = s.engines := rfl
@[simp] theorem State.setThread_flips (s : State) (k l : Nat) (t : Thread) : (s.setThread k l t).flips = s.flips := rfl
@[simp] theorem State.setThread_thyme (s : State) (k l : Nat) (t : Thread) : (s.setThread k l t).thyme = s.thyme := rfl
@[simp] theorem State.setThread_tqs (s : State) (k l : Nat) (t : Thread) : (s.setThread k l t).tqs = s.tqs := rfl
@[simp] theorem State.setThread_requests (s : State) (k l : Nat) (t : Thread) : (s.setThread k l t).requests = s.requests := rfl
@[simp] theorem State.setThread_nextRtag (s : State) (k l : Nat) (t : Thread) : (s.setThread k l t).nextRtag = s.nextRtag := rfl
@[simp] theorem State.setThread_failures (s : State) (k l : Nat) (t : Thread) : (s.setThread k l t).failures = s.failures := rfl
@[simp] theorem State.setThread_tableResize (s : State) (k l : Nat) (t : Thread) : (s.setThread k l t).tableResize = s.tableResize := rfl
@[simp] theorem State.setThread_flushWait (s : State) (k l : Nat) (t : Thread) : (s.setThread k l t).flushWait = s.flushWait := rfl
@[simp] theorem State.setThread_scrub (s : State) (k l : Nat) (t : Thread) : (s.setThread k l t).scrub = s.scrub := rfl
@[simp] theorem State.setThread_tableWaiting (s : State) (k l : Nat) (t : Thread) : (s.setThread k l t).tableWaiting = s.tableWaiting := rfl
@[simp] theorem State.setThread_resizeDone (s : State) (k l : Nat) (t : Thread) : (s.setThread k l t).resizeDone = s.resizeDone := rfl
@[simp] theorem State.setThread_ports (s : State) (k l : Nat) (t : Thread) : (s.setThread k l t).ports = s.ports := rfl
@[simp] theorem State.setThread_portHeld (s : State) (k l : Nat) (t : Thread) : (s.setThread k l t).portHeld = s.portHeld := rfl
@[simp] theorem State.setThread_outstanding (s : State) (k l : Nat) (t : Thread) : (s.setThread k l t).outstanding = s.outstanding := rfl
@[simp] theorem State.setThread_nextTag (s : State) (k l : Nat) (t : Thread) : (s.setThread k l t).nextTag = s.nextTag := rfl
@[simp] theorem State.setThread_ubnorNarrow (s : State) (k l : Nat) (t : Thread) : (s.setThread k l t).ubnorNarrow = s.ubnorNarrow := rfl
@[simp] theorem State.setThread_ubnorDown (s : State) (k l : Nat) (t : Thread) : (s.setThread k l t).ubnorDown = s.ubnorDown := rfl
@[simp] theorem State.setThread_atsHolders (s : State) (k l : Nat) (t : Thread) : (s.setThread k l t).atsHolders = s.atsHolders := rfl
@[simp] theorem State.setThread_distrusted (s : State) (k l : Nat) (t : Thread) : (s.setThread k l t).distrusted = s.distrusted := rfl
@[simp] theorem State.setThread_cfg (s : State) (k l : Nat) (t : Thread) : (s.setThread k l t).cfg = s.cfg := rfl
@[simp] theorem State.setThread_heldCaptures (s : State) (k l : Nat) (t : Thread) : (s.setThread k l t).heldCaptures = s.heldCaptures := rfl
@[simp] theorem State.setThread_captureOld (s : State) (k l : Nat) (t : Thread) : (s.setThread k l t).captureOld = s.captureOld := rfl
@[simp] theorem State.setThread_fenced (s : State) (k l : Nat) (t : Thread) : (s.setThread k l t).fenced = s.fenced := rfl
@[simp] theorem State.setThread_harts (s : State) (k l : Nat) (t : Thread) : (s.setThread k l t).harts = s.harts := rfl
@[simp] theorem State.setThread_aplics (s : State) (k l : Nat) (t : Thread) : (s.setThread k l t).aplics = s.aplics := rfl
@[simp] theorem State.setThread_slices (s : State) (k l : Nat) (t : Thread) : (s.setThread k l t).slices = s.slices := rfl
@[simp] theorem State.setThread_power (s : State) (k l : Nat) (t : Thread) : (s.setThread k l t).power = s.power := rfl
@[simp] theorem State.setThread_boot (s : State) (k l : Nat) (t : Thread) : (s.setThread k l t).boot = s.boot := rfl
@[simp] theorem State.setThread_service (s : State) (k l : Nat) (t : Thread) : (s.setThread k l t).service = s.service := rfl
@[simp] theorem State.setThread_cycle (s : State) (k l : Nat) (t : Thread) : (s.setThread k l t).cycle = s.cycle := rfl
@[simp] theorem State.setThread_busy (s : State) (k l : Nat) (t : Thread) : (s.setThread k l t).busy = s.busy := rfl
@[simp] theorem State.setThread_latches (s : State) (k l : Nat) (t : Thread) : (s.setThread k l t).latches = s.latches := rfl
@[simp] theorem State.setThread_gtime (s : State) (k l : Nat) (t : Thread) : (s.setThread k l t).gtime = s.gtime := rfl
@[simp] theorem State.setThread_subNs (s : State) (k l : Nat) (t : Thread) : (s.setThread k l t).subNs = s.subNs := rfl
@[simp] theorem State.setThread_slewLeft (s : State) (k l : Nat) (t : Thread) : (s.setThread k l t).slewLeft = s.slewLeft := rfl
@[simp] theorem State.setThread_slewAcc (s : State) (k l : Nat) (t : Thread) : (s.setThread k l t).slewAcc = s.slewAcc := rfl
@[simp] theorem State.setThread_sourceSeen (s : State) (k l : Nat) (t : Thread) : (s.setThread k l t).sourceSeen = s.sourceSeen := rfl
@[simp] theorem State.setThread_cur (s : State) (k l : Nat) (t : Thread) : (s.setThread k l t).cur = s.cur := rfl
@[simp] theorem State.setThread_serial (s : State) (k l : Nat) (t : Thread) : (s.setThread k l t).serial = s.serial := rfl
@[simp] theorem State.setThread_reseeds (s : State) (k l : Nat) (t : Thread) : (s.setThread k l t).reseeds = s.reseeds := rfl
@[simp] theorem State.setThread_fresh (s : State) (k l : Nat) (t : Thread) : (s.setThread k l t).fresh = s.fresh := rfl
@[simp] theorem State.setThread_inputs (s : State) (k l : Nat) (t : Thread) : (s.setThread k l t).inputs = s.inputs := rfl
@[simp] theorem State.setThread_out (s : State) (k l : Nat) (t : Thread) : (s.setThread k l t).out = s.out := rfl

/-! ### modWave -/

@[simp] theorem State.modWave_mem (s : State) (k : Nat) (g : Wave → Wave) : (s.modWave k g).mem = s.mem := rfl
@[simp] theorem State.modWave_poisoned (s : State) (k : Nat) (g : Wave → Wave) : (s.modWave k g).poisoned = s.poisoned := rfl
@[simp] theorem State.modWave_upsets (s : State) (k : Nat) (g : Wave → Wave) : (s.modWave k g).upsets = s.upsets := rfl
@[simp] theorem State.modWave_releases (s : State) (k : Nat) (g : Wave → Wave) : (s.modWave k g).releases = s.releases := rfl
@[simp] theorem State.modWave_hub (s : State) (k : Nat) (g : Wave → Wave) : (s.modWave k g).hub = s.hub := rfl
@[simp] theorem State.modWave_waves (s : State) (k : Nat) (g : Wave → Wave) : (s.modWave k g).waves = SMap.put s.waves k (g (s.wave k)) := rfl
@[simp] theorem State.modWave_crews (s : State) (k : Nat) (g : Wave → Wave) : (s.modWave k g).crews = s.crews := rfl
@[simp] theorem State.modWave_launches (s : State) (k : Nat) (g : Wave → Wave) : (s.modWave k g).launches = s.launches := rfl
@[simp] theorem State.modWave_cores (s : State) (k : Nat) (g : Wave → Wave) : (s.modWave k g).cores = s.cores := rfl
@[simp] theorem State.modWave_gens (s : State) (k : Nat) (g : Wave → Wave) : (s.modWave k g).gens = s.gens := rfl
@[simp] theorem State.modWave_residents (s : State) (k : Nat) (g : Wave → Wave) : (s.modWave k g).residents = s.residents := rfl
@[simp] theorem State.modWave_swaps (s : State) (k : Nat) (g : Wave → Wave) : (s.modWave k g).swaps = s.swaps := rfl
@[simp] theorem State.modWave_residentSince (s : State) (k : Nat) (g : Wave → Wave) : (s.modWave k g).residentSince = s.residentSince := rfl
@[simp] theorem State.modWave_queues (s : State) (k : Nat) (g : Wave → Wave) : (s.modWave k g).queues = s.queues := rfl
@[simp] theorem State.modWave_engines (s : State) (k : Nat) (g : Wave → Wave) : (s.modWave k g).engines = s.engines := rfl
@[simp] theorem State.modWave_flips (s : State) (k : Nat) (g : Wave → Wave) : (s.modWave k g).flips = s.flips := rfl
@[simp] theorem State.modWave_thyme (s : State) (k : Nat) (g : Wave → Wave) : (s.modWave k g).thyme = s.thyme := rfl
@[simp] theorem State.modWave_tqs (s : State) (k : Nat) (g : Wave → Wave) : (s.modWave k g).tqs = s.tqs := rfl
@[simp] theorem State.modWave_requests (s : State) (k : Nat) (g : Wave → Wave) : (s.modWave k g).requests = s.requests := rfl
@[simp] theorem State.modWave_nextRtag (s : State) (k : Nat) (g : Wave → Wave) : (s.modWave k g).nextRtag = s.nextRtag := rfl
@[simp] theorem State.modWave_failures (s : State) (k : Nat) (g : Wave → Wave) : (s.modWave k g).failures = s.failures := rfl
@[simp] theorem State.modWave_tableResize (s : State) (k : Nat) (g : Wave → Wave) : (s.modWave k g).tableResize = s.tableResize := rfl
@[simp] theorem State.modWave_flushWait (s : State) (k : Nat) (g : Wave → Wave) : (s.modWave k g).flushWait = s.flushWait := rfl
@[simp] theorem State.modWave_scrub (s : State) (k : Nat) (g : Wave → Wave) : (s.modWave k g).scrub = s.scrub := rfl
@[simp] theorem State.modWave_tableWaiting (s : State) (k : Nat) (g : Wave → Wave) : (s.modWave k g).tableWaiting = s.tableWaiting := rfl
@[simp] theorem State.modWave_resizeDone (s : State) (k : Nat) (g : Wave → Wave) : (s.modWave k g).resizeDone = s.resizeDone := rfl
@[simp] theorem State.modWave_ports (s : State) (k : Nat) (g : Wave → Wave) : (s.modWave k g).ports = s.ports := rfl
@[simp] theorem State.modWave_portHeld (s : State) (k : Nat) (g : Wave → Wave) : (s.modWave k g).portHeld = s.portHeld := rfl
@[simp] theorem State.modWave_outstanding (s : State) (k : Nat) (g : Wave → Wave) : (s.modWave k g).outstanding = s.outstanding := rfl
@[simp] theorem State.modWave_nextTag (s : State) (k : Nat) (g : Wave → Wave) : (s.modWave k g).nextTag = s.nextTag := rfl
@[simp] theorem State.modWave_ubnorNarrow (s : State) (k : Nat) (g : Wave → Wave) : (s.modWave k g).ubnorNarrow = s.ubnorNarrow := rfl
@[simp] theorem State.modWave_ubnorDown (s : State) (k : Nat) (g : Wave → Wave) : (s.modWave k g).ubnorDown = s.ubnorDown := rfl
@[simp] theorem State.modWave_atsHolders (s : State) (k : Nat) (g : Wave → Wave) : (s.modWave k g).atsHolders = s.atsHolders := rfl
@[simp] theorem State.modWave_distrusted (s : State) (k : Nat) (g : Wave → Wave) : (s.modWave k g).distrusted = s.distrusted := rfl
@[simp] theorem State.modWave_cfg (s : State) (k : Nat) (g : Wave → Wave) : (s.modWave k g).cfg = s.cfg := rfl
@[simp] theorem State.modWave_heldCaptures (s : State) (k : Nat) (g : Wave → Wave) : (s.modWave k g).heldCaptures = s.heldCaptures := rfl
@[simp] theorem State.modWave_captureOld (s : State) (k : Nat) (g : Wave → Wave) : (s.modWave k g).captureOld = s.captureOld := rfl
@[simp] theorem State.modWave_fenced (s : State) (k : Nat) (g : Wave → Wave) : (s.modWave k g).fenced = s.fenced := rfl
@[simp] theorem State.modWave_harts (s : State) (k : Nat) (g : Wave → Wave) : (s.modWave k g).harts = s.harts := rfl
@[simp] theorem State.modWave_aplics (s : State) (k : Nat) (g : Wave → Wave) : (s.modWave k g).aplics = s.aplics := rfl
@[simp] theorem State.modWave_slices (s : State) (k : Nat) (g : Wave → Wave) : (s.modWave k g).slices = s.slices := rfl
@[simp] theorem State.modWave_power (s : State) (k : Nat) (g : Wave → Wave) : (s.modWave k g).power = s.power := rfl
@[simp] theorem State.modWave_boot (s : State) (k : Nat) (g : Wave → Wave) : (s.modWave k g).boot = s.boot := rfl
@[simp] theorem State.modWave_service (s : State) (k : Nat) (g : Wave → Wave) : (s.modWave k g).service = s.service := rfl
@[simp] theorem State.modWave_cycle (s : State) (k : Nat) (g : Wave → Wave) : (s.modWave k g).cycle = s.cycle := rfl
@[simp] theorem State.modWave_busy (s : State) (k : Nat) (g : Wave → Wave) : (s.modWave k g).busy = s.busy := rfl
@[simp] theorem State.modWave_latches (s : State) (k : Nat) (g : Wave → Wave) : (s.modWave k g).latches = s.latches := rfl
@[simp] theorem State.modWave_gtime (s : State) (k : Nat) (g : Wave → Wave) : (s.modWave k g).gtime = s.gtime := rfl
@[simp] theorem State.modWave_subNs (s : State) (k : Nat) (g : Wave → Wave) : (s.modWave k g).subNs = s.subNs := rfl
@[simp] theorem State.modWave_slewLeft (s : State) (k : Nat) (g : Wave → Wave) : (s.modWave k g).slewLeft = s.slewLeft := rfl
@[simp] theorem State.modWave_slewAcc (s : State) (k : Nat) (g : Wave → Wave) : (s.modWave k g).slewAcc = s.slewAcc := rfl
@[simp] theorem State.modWave_sourceSeen (s : State) (k : Nat) (g : Wave → Wave) : (s.modWave k g).sourceSeen = s.sourceSeen := rfl
@[simp] theorem State.modWave_cur (s : State) (k : Nat) (g : Wave → Wave) : (s.modWave k g).cur = s.cur := rfl
@[simp] theorem State.modWave_serial (s : State) (k : Nat) (g : Wave → Wave) : (s.modWave k g).serial = s.serial := rfl
@[simp] theorem State.modWave_reseeds (s : State) (k : Nat) (g : Wave → Wave) : (s.modWave k g).reseeds = s.reseeds := rfl
@[simp] theorem State.modWave_fresh (s : State) (k : Nat) (g : Wave → Wave) : (s.modWave k g).fresh = s.fresh := rfl
@[simp] theorem State.modWave_inputs (s : State) (k : Nat) (g : Wave → Wave) : (s.modWave k g).inputs = s.inputs := rfl
@[simp] theorem State.modWave_out (s : State) (k : Nat) (g : Wave → Wave) : (s.modWave k g).out = s.out := rfl

/-! ### modThread -/

@[simp] theorem State.modThread_mem (s : State) (k l : Nat) (g : Thread → Thread) : (s.modThread k l g).mem = s.mem := rfl
@[simp] theorem State.modThread_poisoned (s : State) (k l : Nat) (g : Thread → Thread) : (s.modThread k l g).poisoned = s.poisoned := rfl
@[simp] theorem State.modThread_upsets (s : State) (k l : Nat) (g : Thread → Thread) : (s.modThread k l g).upsets = s.upsets := rfl
@[simp] theorem State.modThread_releases (s : State) (k l : Nat) (g : Thread → Thread) : (s.modThread k l g).releases = s.releases := rfl
@[simp] theorem State.modThread_hub (s : State) (k l : Nat) (g : Thread → Thread) : (s.modThread k l g).hub = s.hub := rfl
@[simp] theorem State.modThread_waves (s : State) (k l : Nat) (g : Thread → Thread) : (s.modThread k l g).waves = SMap.put s.waves k ((s.wave k).setThread l (g (s.thread k l))) := rfl
@[simp] theorem State.modThread_crews (s : State) (k l : Nat) (g : Thread → Thread) : (s.modThread k l g).crews = s.crews := rfl
@[simp] theorem State.modThread_launches (s : State) (k l : Nat) (g : Thread → Thread) : (s.modThread k l g).launches = s.launches := rfl
@[simp] theorem State.modThread_cores (s : State) (k l : Nat) (g : Thread → Thread) : (s.modThread k l g).cores = s.cores := rfl
@[simp] theorem State.modThread_gens (s : State) (k l : Nat) (g : Thread → Thread) : (s.modThread k l g).gens = s.gens := rfl
@[simp] theorem State.modThread_residents (s : State) (k l : Nat) (g : Thread → Thread) : (s.modThread k l g).residents = s.residents := rfl
@[simp] theorem State.modThread_swaps (s : State) (k l : Nat) (g : Thread → Thread) : (s.modThread k l g).swaps = s.swaps := rfl
@[simp] theorem State.modThread_residentSince (s : State) (k l : Nat) (g : Thread → Thread) : (s.modThread k l g).residentSince = s.residentSince := rfl
@[simp] theorem State.modThread_queues (s : State) (k l : Nat) (g : Thread → Thread) : (s.modThread k l g).queues = s.queues := rfl
@[simp] theorem State.modThread_engines (s : State) (k l : Nat) (g : Thread → Thread) : (s.modThread k l g).engines = s.engines := rfl
@[simp] theorem State.modThread_flips (s : State) (k l : Nat) (g : Thread → Thread) : (s.modThread k l g).flips = s.flips := rfl
@[simp] theorem State.modThread_thyme (s : State) (k l : Nat) (g : Thread → Thread) : (s.modThread k l g).thyme = s.thyme := rfl
@[simp] theorem State.modThread_tqs (s : State) (k l : Nat) (g : Thread → Thread) : (s.modThread k l g).tqs = s.tqs := rfl
@[simp] theorem State.modThread_requests (s : State) (k l : Nat) (g : Thread → Thread) : (s.modThread k l g).requests = s.requests := rfl
@[simp] theorem State.modThread_nextRtag (s : State) (k l : Nat) (g : Thread → Thread) : (s.modThread k l g).nextRtag = s.nextRtag := rfl
@[simp] theorem State.modThread_failures (s : State) (k l : Nat) (g : Thread → Thread) : (s.modThread k l g).failures = s.failures := rfl
@[simp] theorem State.modThread_tableResize (s : State) (k l : Nat) (g : Thread → Thread) : (s.modThread k l g).tableResize = s.tableResize := rfl
@[simp] theorem State.modThread_flushWait (s : State) (k l : Nat) (g : Thread → Thread) : (s.modThread k l g).flushWait = s.flushWait := rfl
@[simp] theorem State.modThread_scrub (s : State) (k l : Nat) (g : Thread → Thread) : (s.modThread k l g).scrub = s.scrub := rfl
@[simp] theorem State.modThread_tableWaiting (s : State) (k l : Nat) (g : Thread → Thread) : (s.modThread k l g).tableWaiting = s.tableWaiting := rfl
@[simp] theorem State.modThread_resizeDone (s : State) (k l : Nat) (g : Thread → Thread) : (s.modThread k l g).resizeDone = s.resizeDone := rfl
@[simp] theorem State.modThread_ports (s : State) (k l : Nat) (g : Thread → Thread) : (s.modThread k l g).ports = s.ports := rfl
@[simp] theorem State.modThread_portHeld (s : State) (k l : Nat) (g : Thread → Thread) : (s.modThread k l g).portHeld = s.portHeld := rfl
@[simp] theorem State.modThread_outstanding (s : State) (k l : Nat) (g : Thread → Thread) : (s.modThread k l g).outstanding = s.outstanding := rfl
@[simp] theorem State.modThread_nextTag (s : State) (k l : Nat) (g : Thread → Thread) : (s.modThread k l g).nextTag = s.nextTag := rfl
@[simp] theorem State.modThread_ubnorNarrow (s : State) (k l : Nat) (g : Thread → Thread) : (s.modThread k l g).ubnorNarrow = s.ubnorNarrow := rfl
@[simp] theorem State.modThread_ubnorDown (s : State) (k l : Nat) (g : Thread → Thread) : (s.modThread k l g).ubnorDown = s.ubnorDown := rfl
@[simp] theorem State.modThread_atsHolders (s : State) (k l : Nat) (g : Thread → Thread) : (s.modThread k l g).atsHolders = s.atsHolders := rfl
@[simp] theorem State.modThread_distrusted (s : State) (k l : Nat) (g : Thread → Thread) : (s.modThread k l g).distrusted = s.distrusted := rfl
@[simp] theorem State.modThread_cfg (s : State) (k l : Nat) (g : Thread → Thread) : (s.modThread k l g).cfg = s.cfg := rfl
@[simp] theorem State.modThread_heldCaptures (s : State) (k l : Nat) (g : Thread → Thread) : (s.modThread k l g).heldCaptures = s.heldCaptures := rfl
@[simp] theorem State.modThread_captureOld (s : State) (k l : Nat) (g : Thread → Thread) : (s.modThread k l g).captureOld = s.captureOld := rfl
@[simp] theorem State.modThread_fenced (s : State) (k l : Nat) (g : Thread → Thread) : (s.modThread k l g).fenced = s.fenced := rfl
@[simp] theorem State.modThread_harts (s : State) (k l : Nat) (g : Thread → Thread) : (s.modThread k l g).harts = s.harts := rfl
@[simp] theorem State.modThread_aplics (s : State) (k l : Nat) (g : Thread → Thread) : (s.modThread k l g).aplics = s.aplics := rfl
@[simp] theorem State.modThread_slices (s : State) (k l : Nat) (g : Thread → Thread) : (s.modThread k l g).slices = s.slices := rfl
@[simp] theorem State.modThread_power (s : State) (k l : Nat) (g : Thread → Thread) : (s.modThread k l g).power = s.power := rfl
@[simp] theorem State.modThread_boot (s : State) (k l : Nat) (g : Thread → Thread) : (s.modThread k l g).boot = s.boot := rfl
@[simp] theorem State.modThread_service (s : State) (k l : Nat) (g : Thread → Thread) : (s.modThread k l g).service = s.service := rfl
@[simp] theorem State.modThread_cycle (s : State) (k l : Nat) (g : Thread → Thread) : (s.modThread k l g).cycle = s.cycle := rfl
@[simp] theorem State.modThread_busy (s : State) (k l : Nat) (g : Thread → Thread) : (s.modThread k l g).busy = s.busy := rfl
@[simp] theorem State.modThread_latches (s : State) (k l : Nat) (g : Thread → Thread) : (s.modThread k l g).latches = s.latches := rfl
@[simp] theorem State.modThread_gtime (s : State) (k l : Nat) (g : Thread → Thread) : (s.modThread k l g).gtime = s.gtime := rfl
@[simp] theorem State.modThread_subNs (s : State) (k l : Nat) (g : Thread → Thread) : (s.modThread k l g).subNs = s.subNs := rfl
@[simp] theorem State.modThread_slewLeft (s : State) (k l : Nat) (g : Thread → Thread) : (s.modThread k l g).slewLeft = s.slewLeft := rfl
@[simp] theorem State.modThread_slewAcc (s : State) (k l : Nat) (g : Thread → Thread) : (s.modThread k l g).slewAcc = s.slewAcc := rfl
@[simp] theorem State.modThread_sourceSeen (s : State) (k l : Nat) (g : Thread → Thread) : (s.modThread k l g).sourceSeen = s.sourceSeen := rfl
@[simp] theorem State.modThread_cur (s : State) (k l : Nat) (g : Thread → Thread) : (s.modThread k l g).cur = s.cur := rfl
@[simp] theorem State.modThread_serial (s : State) (k l : Nat) (g : Thread → Thread) : (s.modThread k l g).serial = s.serial := rfl
@[simp] theorem State.modThread_reseeds (s : State) (k l : Nat) (g : Thread → Thread) : (s.modThread k l g).reseeds = s.reseeds := rfl
@[simp] theorem State.modThread_fresh (s : State) (k l : Nat) (g : Thread → Thread) : (s.modThread k l g).fresh = s.fresh := rfl
@[simp] theorem State.modThread_inputs (s : State) (k l : Nat) (g : Thread → Thread) : (s.modThread k l g).inputs = s.inputs := rfl
@[simp] theorem State.modThread_out (s : State) (k l : Nat) (g : Thread → Thread) : (s.modThread k l g).out = s.out := rfl

/-! ### setThread of a wave -/

@[simp] theorem Wave.setThread_live (w : Wave) (l : Nat) (t : Thread) : (w.setThread l t).live = w.live := rfl
@[simp] theorem Wave.setThread_launch (w : Wave) (l : Nat) (t : Thread) : (w.setThread l t).launch = w.launch := rfl
@[simp] theorem Wave.setThread_crew (w : Wave) (l : Nat) (t : Thread) : (w.setThread l t).crew = w.crew := rfl
@[simp] theorem Wave.setThread_wid (w : Wave) (l : Nat) (t : Thread) : (w.setThread l t).wid = w.wid := rfl
@[simp] theorem Wave.setThread_threads (w : Wave) (l : Nat) (t : Thread) : (w.setThread l t).threads = SMap.put w.threads l t := rfl
@[simp] theorem Wave.setThread_sregs (w : Wave) (l : Nat) (t : Thread) : (w.setThread l t).sregs = w.sregs := rfl
@[simp] theorem Wave.setThread_kregs (w : Wave) (l : Nat) (t : Thread) : (w.setThread l t).kregs = w.kregs := rfl
@[simp] theorem Wave.setThread_tile (w : Wave) (l : Nat) (t : Thread) : (w.setThread l t).tile = w.tile := rfl
@[simp] theorem Wave.setThread_role (w : Wave) (l : Nat) (t : Thread) : (w.setThread l t).role = w.role := rfl
@[simp] theorem Wave.setThread_wstat (w : Wave) (l : Nat) (t : Thread) : (w.setThread l t).wstat = w.wstat := rfl
@[simp] theorem Wave.setThread_mstat (w : Wave) (l : Nat) (t : Thread) : (w.setThread l t).mstat = w.mstat := rfl
@[simp] theorem Wave.setThread_log (w : Wave) (l : Nat) (t : Thread) : (w.setThread l t).log = w.log := rfl
@[simp] theorem Wave.setThread_window (w : Wave) (l : Nat) (t : Thread) : (w.setThread l t).window = w.window := rfl
@[simp] theorem Wave.setThread_bundles (w : Wave) (l : Nat) (t : Thread) : (w.setThread l t).bundles = w.bundles := rfl
@[simp] theorem Wave.setThread_regroupDue (w : Wave) (l : Nat) (t : Thread) : (w.setThread l t).regroupDue = w.regroupDue := rfl
@[simp] theorem Wave.setThread_regrouped (w : Wave) (l : Nat) (t : Thread) : (w.setThread l t).regrouped = w.regrouped := rfl
@[simp] theorem Wave.setThread_fly (w : Wave) (l : Nat) (t : Thread) : (w.setThread l t).fly = w.fly := rfl
@[simp] theorem Wave.setThread_pend (w : Wave) (l : Nat) (t : Thread) : (w.setThread l t).pend = w.pend := rfl
@[simp] theorem Wave.setThread_mat (w : Wave) (l : Nat) (t : Thread) : (w.setThread l t).mat = w.mat := rfl

/-! ### goTo of a thread -/

@[simp] theorem Thread.goTo_pc (t : Thread) (pc : SlotAddr) : (t.goTo pc).pc = pc := rfl
@[simp] theorem Thread.goTo_mr (t : Thread) (pc : SlotAddr) : (t.goTo pc).mr = t.mr := rfl
@[simp] theorem Thread.goTo_checked (t : Thread) (pc : SlotAddr) : (t.goTo pc).checked = false := rfl
@[simp] theorem Thread.goTo_parked (t : Thread) (pc : SlotAddr) : (t.goTo pc).parked = (!t.trapMode && pc == t.mr) := rfl
@[simp] theorem Thread.goTo_exited (t : Thread) (pc : SlotAddr) : (t.goTo pc).exited = t.exited := rfl
@[simp] theorem Thread.goTo_killed (t : Thread) (pc : SlotAddr) : (t.goTo pc).killed = t.killed := rfl
@[simp] theorem Thread.goTo_block (t : Thread) (pc : SlotAddr) : (t.goTo pc).block = t.block := rfl
@[simp] theorem Thread.goTo_wb (t : Thread) (pc : SlotAddr) : (t.goTo pc).wb = t.wb := rfl
@[simp] theorem Thread.goTo_rf (t : Thread) (pc : SlotAddr) : (t.goTo pc).rf = t.rf := rfl
@[simp] theorem Thread.goTo_regs (t : Thread) (pc : SlotAddr) : (t.goTo pc).regs = t.regs := rfl
@[simp] theorem Thread.goTo_preds (t : Thread) (pc : SlotAddr) : (t.goTo pc).preds = t.preds := rfl
@[simp] theorem Thread.goTo_draw (t : Thread) (pc : SlotAddr) : (t.goTo pc).draw = t.draw := rfl
@[simp] theorem Thread.goTo_trapMode (t : Thread) (pc : SlotAddr) : (t.goTo pc).trapMode = t.trapMode := rfl
@[simp] theorem Thread.goTo_ptrap (t : Thread) (pc : SlotAddr) : (t.goTo pc).ptrap = t.ptrap := rfl
@[simp] theorem Thread.goTo_tpc (t : Thread) (pc : SlotAddr) : (t.goTo pc).tpc = t.tpc := rfl
@[simp] theorem Thread.goTo_tcause (t : Thread) (pc : SlotAddr) : (t.goTo pc).tcause = t.tcause := rfl
@[simp] theorem Thread.goTo_tval (t : Thread) (pc : SlotAddr) : (t.goTo pc).tval = t.tval := rfl
@[simp] theorem Thread.goTo_wt (t : Thread) (pc : SlotAddr) : (t.goTo pc).wt = t.wt := rfl
@[simp] theorem Thread.goTo_res (t : Thread) (pc : SlotAddr) : (t.goTo pc).res = t.res := rfl
@[simp] theorem Thread.goTo_tpred (t : Thread) (pc : SlotAddr) : (t.goTo pc).tpred = t.tpred := rfl
@[simp] theorem Thread.goTo_spoff (t : Thread) (pc : SlotAddr) : (t.goTo pc).spoff = t.spoff := rfl
@[simp] theorem Thread.goTo_ts (t : Thread) (pc : SlotAddr) : (t.goTo pc).ts = t.ts := rfl
@[simp] theorem Thread.goTo_clkSample (t : Thread) (pc : SlotAddr) : (t.goTo pc).clkSample = t.clkSample := rfl
@[simp] theorem Thread.goTo_gtimeSample (t : Thread) (pc : SlotAddr) : (t.goTo pc).gtimeSample = t.gtimeSample := rfl
@[simp] theorem Thread.goTo_batch (t : Thread) (pc : SlotAddr) : (t.goTo pc).batch = t.batch := rfl
@[simp] theorem Thread.goTo_copies (t : Thread) (pc : SlotAddr) : (t.goTo pc).copies = t.copies := rfl
@[simp] theorem Thread.goTo_ap (t : Thread) (pc : SlotAddr) : (t.goTo pc).ap = t.ap := rfl
@[simp] theorem Thread.goTo_tsig (t : Thread) (pc : SlotAddr) : (t.goTo pc).tsig = t.tsig := rfl
@[simp] theorem Thread.goTo_fences (t : Thread) (pc : SlotAddr) : (t.goTo pc).fences = t.fences := rfl
@[simp] theorem Thread.goTo_starve (t : Thread) (pc : SlotAddr) : (t.goTo pc).starve = t.starve := rfl
@[simp] theorem Thread.goTo_issued (t : Thread) (pc : SlotAddr) : (t.goTo pc).issued = t.issued := rfl
@[simp] theorem Thread.goTo_wasReady (t : Thread) (pc : SlotAddr) : (t.goTo pc).wasReady = t.wasReady := rfl
@[simp] theorem Thread.goTo_since (t : Thread) (pc : SlotAddr) : (t.goTo pc).since = t.since := rfl
@[simp] theorem Thread.goTo_hold (t : Thread) (pc : SlotAddr) : (t.goTo pc).hold = t.hold := rfl

end Sys2Proof.Machine
end

