-- ==== Sys2Proof/Laws/Ops.lean ====
section
/-!
SUPPORT. The shared operations of the core: what each can do, said once.
-/

namespace Sys2Proof.Machine

/-! ### Waves and threads -/

theorem State.wave_setWave (s : State) (k j : Nat) (w : Wave) : (s.setWave k w).wave j = if j = k then w else s.wave j :=
  SMap.get_put s.waves j k w .blank

theorem State.wave_modWave (s : State) (k j : Nat) (g : Wave → Wave) :
    (s.modWave k g).wave j = if j = k then g (s.wave k) else s.wave j := s.wave_setWave k j _

theorem Wave.thread_setThread (w : Wave) (l m : Nat) (t : Thread) :
    (w.setThread l t).thread m = if m = l then t else w.thread m := SMap.get_put w.threads m l t .blank

theorem State.thread_setThread (s : State) (k l j m : Nat) (t : Thread) :
    (s.setThread k l t).thread j m = if j = k ∧ m = l then t else s.thread j m := by
  unfold State.thread State.setThread
  rw [State.wave_setWave]
  by_cases hj : j = k
  · subst hj; by_cases hm : m = l <;> simp [Wave.thread_setThread, hm]
  · simp [hj]

theorem State.wave_setThread (s : State) (k l j : Nat) (t : Thread) :
    (s.setThread k l t).wave j = if j = k then (s.wave k).setThread l t else s.wave j := s.wave_setWave k j _

@[simp] theorem State.setWave_kept (s : State) (k : Nat) (w : Wave) : (s.setWave k w).kept = s.kept := rfl
@[simp] theorem State.setThread_kept (s : State) (k l : Nat) (t : Thread) : (s.setThread k l t).kept = s.kept := rfl
@[simp] theorem State.modWave_kept (s : State) (k : Nat) (g : Wave → Wave) : (s.modWave k g).kept = s.kept := rfl
@[simp] theorem Wave.setThread_kept (w : Wave) (l : Nat) (t : Thread) : (w.setThread l t).kept = w.kept := rfl
@[simp] theorem Thread.goTo_kept (t : Thread) (pc : SlotAddr) : (t.goTo pc).kept = t.kept := rfl

/-! ### The lanes of a bundle go on -/

/-- Lanes of a wave go to a place, one after the other. -/
def State.goAll (s : State) (k : Nat) (pc : SlotAddr) (ls : List Nat) : State :=
  ls.foldl (fun s l => s.setThread k l ((s.thread k l).goTo pc)) s

theorem Thread.goTo_goTo (t : Thread) (pc : SlotAddr) : (t.goTo pc).goTo pc = t.goTo pc := rfl

theorem State.goAll_thread (k : Nat) (pc : SlotAddr) (ls : List Nat) : ∀ (s : State) (l : Nat),
    (s.goAll k pc ls).thread k l = if l ∈ ls then (s.thread k l).goTo pc else s.thread k l := by
  induction ls with
  | nil => intro s l; simp [State.goAll]
  | cons a t ih =>
    intro s l
    have := ih (s.setThread k a ((s.thread k a).goTo pc)) l
    simp only [State.goAll, List.foldl_cons] at this ⊢
    rw [this, State.thread_setThread]
    by_cases ha : l = a
    · subst ha; by_cases ht : l ∈ t <;> simp [ht, Thread.goTo_goTo]
    · by_cases ht : l ∈ t <;> simp [ha, ht]

theorem State.goAll_wave_ne (k : Nat) (pc : SlotAddr) (ls : List Nat) (j : Nat) (h : j ≠ k) (s : State) :
    (s.goAll k pc ls).wave j = s.wave j :=
  foldl_same (fun s : State => s.wave j) _ (fun s l => by simp [State.wave_setThread, h]) ls s

theorem State.goAll_kept (k : Nat) (pc : SlotAddr) (ls : List Nat) (s : State) : (s.goAll k pc ls).kept = s.kept :=
  foldl_same State.kept (fun s l => s.setThread k l ((s.thread k l).goTo pc)) (fun _ _ => rfl) ls s

theorem State.goAll_noThreads (k : Nat) (pc : SlotAddr) (ls : List Nat) (s : State) :
    ((s.goAll k pc ls).wave k).noThreads = (s.wave k).noThreads :=
  foldl_same (fun s : State => (s.wave k).noThreads) _ (fun s l => by simp only [State.wave_setThread, if_true]; rfl) ls s

/-! ### The end of an issue -/

/-- A thread without the bookkeeping of an issue. -/
def Thread.booked (t : Thread) : Thread := { t with clkSample := 0, gtimeSample := 0, issued := false, since := 0, hold := 0 }

theorem Thread.kept_of_booked {t u : Thread} (h : t.booked = u.booked) : t.kept = u.kept := by
  have : t.booked.kept = u.booked.kept := congrArg Thread.kept h
  exact this

theorem foldl_setThread_booked (g : Wave → Nat → Thread) (hg : ∀ w l, (g w l).booked = (w.thread l).booked) (ls : List Nat)
    (w : Wave) (m : Nat) :
    ((ls.foldl (fun w l => w.setThread l (g w l)) w).thread m).booked = (w.thread m).booked := by
  refine foldl_same (fun w : Wave => (w.thread m).booked) _ (fun w l => ?_) ls w
  simp only [Wave.thread_setThread]
  split
  · rename_i h; rw [hg, h]
  · rfl

theorem foldl_setThread_noThreads (g : Wave → Nat → Thread) (ls : List Nat) (w : Wave) :
    (ls.foldl (fun w l => w.setThread l (g w l)) w).noThreads = w.noThreads :=
  foldl_same Wave.noThreads (fun w l => w.setThread l (g w l)) (fun _ _ => rfl) ls w

@[simp] theorem Wave.rebundle_threads (w : Wave) (lanes : BitVec 32) (next : Option SlotAddr) :
    (w.rebundle lanes next).threads = w.threads := rfl

theorem Wave.rebundle_noThreads (w : Wave) (lanes : BitVec 32) (next : Option SlotAddr) :
    (w.rebundle lanes next).noThreads = w.noThreads := rfl

/-- The wave that issued, at the end of its issue. -/
def Wave.booking (w : Wave) (f : Fields) (ex : List Nat) (lanes : BitVec 32) (next : Option SlotAddr) (cycle : Nat)
    (gtime : DWord) : Wave :=
  let w := ex.foldl (fun w l => w.setThread l ((w.thread l).sample f cycle gtime)) w
  let w := (lanesOf lanes).foldl (fun w l => w.setThread l ((w.thread l).issuedAt cycle)) w
  let w := if f.sw then (lanesOf lanes).foldl (fun w l => w.holdLane l) w else w
  w.rebundle lanes next

theorem State.finishIssue_wave (s : State) (f : Fields) (ex : List Nat) (tr : Bool) (next : Option SlotAddr) (n j : Nat) :
    (s.finishIssue f ex tr next n).wave j =
      if j = waveKey s.cur.core s.cur.slot then (s.wave j).booking f ex s.cur.lanes next s.cycle s.gtime else s.wave j := by
  have h : (s.finishIssue f ex tr next n).wave j =
      (s.modWave (waveKey s.cur.core s.cur.slot) fun w => w.booking f ex s.cur.lanes next s.cycle s.gtime).wave j := rfl
  rw [h, State.wave_modWave]
  split
  · rename_i hj; rw [hj]
  · rfl

theorem Wave.booking_noThreads (w : Wave) (f : Fields) (ex : List Nat) (lanes : BitVec 32) (next : Option SlotAddr)
    (cycle : Nat) (gtime : DWord) : (w.booking f ex lanes next cycle gtime).noThreads = w.noThreads := by
  unfold Wave.booking
  simp only [Wave.rebundle_noThreads, Wave.holdLane]
  split <;> simp only [foldl_setThread_noThreads]

theorem Wave.booking_thread (w : Wave) (f : Fields) (ex : List Nat) (lanes : BitVec 32) (next : Option SlotAddr)
    (cycle : Nat) (gtime : DWord) (l : Nat) :
    ((w.booking f ex lanes next cycle gtime).thread l).booked = (w.thread l).booked := by
  have hr : ∀ w : Wave, (w.rebundle lanes next).thread l = w.thread l := fun _ => rfl
  have h1 := foldl_setThread_booked (fun w l => (w.thread l).sample f cycle gtime) (fun _ _ => rfl)
  have h2 := foldl_setThread_booked (fun w l => (w.thread l).issuedAt cycle) (fun _ _ => rfl)
  have h3 := foldl_setThread_booked (fun w l => { w.thread l with
    hold := (w.inFlight l).foldl (fun n x => max n x.land) (w.thread l).hold }) (fun _ _ => rfl)
  unfold Wave.booking
  simp only [hr]
  split
  · exact (h3 _ _ _).trans ((h2 _ _ _).trans (h1 _ _ _))
  · exact (h2 _ _ _).trans (h1 _ _ _)

/-- THE END OF AN ISSUE: only bookkeeping, bundles, the port and the latch of the quarter change. -/
theorem State.finishIssue_spec (s : State) (f : Fields) (ex : List Nat) (tr : Bool) (next : Option SlotAddr) (n : Nat) :
    (s.finishIssue f ex tr next n).kept = s.kept ∧
    (∀ j, j ≠ waveKey s.cur.core s.cur.slot → (s.finishIssue f ex tr next n).wave j = s.wave j) ∧
    (∀ j, ((s.finishIssue f ex tr next n).wave j).noThreads = (s.wave j).noThreads) ∧
    ∀ j l, ((s.finishIssue f ex tr next n).thread j l).booked = (s.thread j l).booked := by
  refine ⟨rfl, fun j hj => by rw [State.finishIssue_wave, if_neg hj], fun j => ?_, fun j l => ?_⟩
  · rw [State.finishIssue_wave]; split
    · exact Wave.booking_noThreads ..
    · rfl
  · unfold State.thread; rw [State.finishIssue_wave]; split
    · exact Wave.booking_thread ..
    · rfl

/-! ### The issue of an instruction -/

/-- The lanes that an instruction acts for. -/
def State.acting (s : State) (o : Op) (f : Fields) : List Nat := if o.wholeWave then s.ctx.active else s.ctx.executing f

theorem filterMap_none {Lane Out : Type} (g : Lane → Option Out) (ls : List Lane) (none' : ∀ l ∈ ls, g l = none) :
    ls.filterMap g = [] := List.filterMap_eq_nil_iff.mpr none'

/-- Lanes that change nothing leave the state. -/
theorem foldl_skip {Lane Acc : Type} (g : Acc → Lane → Acc) (ls : List Lane) (acc : Acc) (idle : ∀ l ∈ ls, g acc l = acc) :
    ls.foldl g acc = acc :=
  match ls with
  | [] => rfl
  | l :: rest => by
    have here : g acc l = acc := idle l (List.mem_cons_self ..)
    simpa [here] using foldl_skip g rest acc fun m hm => idle m (List.mem_cons_of_mem _ hm)

/-- The lanes of a bundle whose threads are not stopped by the instruction fall through. -/
theorem foldl_goTo (k : Nat) (pc : SlotAddr) (w : Wave) (stay : Nat → Bool) :
    ∀ (ls : List Nat) (s : State), (∀ l ∈ ls, stay l = false ∧ (s.thread k l).exited = false ∧ (s.thread k l).block = none ∧
      (s.thread k l).ptrap = none ∧ (s.thread k l).trapMode = (w.thread l).trapMode) →
    ls.foldl (fun s l =>
      let t := s.thread k l
      if stay l || t.exited || t.block.isSome || t.ptrap.isSome || (t.trapMode != (w.thread l).trapMode) then s
      else s.setThread k l (t.goTo pc)) s = s.goAll k pc ls := by
  intro ls
  induction ls with
  | nil => intro s _; rfl
  | cons a t ih =>
    intro s h
    obtain ⟨h0, h1, h2, h3, h4⟩ := h a (by simp)
    simp only [List.foldl_cons, h0, h1, h2, h3, h4, State.goAll]
    simp only [Option.isSome_none, Bool.or_self, bne_self_eq_false, Bool.false_eq_true, if_false]
    refine ih _ fun l hl => ?_
    have := h l (by simp [hl])
    rw [State.thread_setThread]
    split
    · rename_i e; obtain ⟨-, rfl⟩ := e; exact ⟨this.1, h1, h2, h3, h4⟩
    · exact this

/-- THE ISSUE OF AN INSTRUCTION that no executing lane traps on and that stops no lane: its body, then every lane of the
bundle goes to the fall-through. -/
theorem State.issue_quiet (s : State) (o : Op) (f : Fields) (check : Ctx → Nat → Option PTrap)
    (body : Ctx → List Nat → State → State) (cycles : Nat) (hI : Issuable s)
    (hres : ∀ l ∈ s.acting o f, s.ctx.operandsResident o f l = true) (hchk : ∀ l ∈ s.acting o f, check s.ctx l = none)
    (hB : ∀ l ∈ s.ctx.active, ((body s.ctx (s.acting o f) s).thread s.ctx.k l).exited = false ∧
      ((body s.ctx (s.acting o f) s).thread s.ctx.k l).block = none ∧
      ((body s.ctx (s.acting o f) s).thread s.ctx.k l).ptrap = none ∧
      ((body s.ctx (s.acting o f) s).thread s.ctx.k l).trapMode = (s.ctx.w.thread l).trapMode) :
    ∃ ex tr, s.issue o f check body false cycles =
      ((body s.ctx (s.acting o f) s).goAll s.ctx.k s.ctx.next s.ctx.active).finishIssue f ex tr
        (if o == .brx then none else some s.ctx.next) cycles := by
  have hbd : ∀ ls : List Nat, (ls.filter fun l => !(s.ctx.w.thread l).bad.isEmpty) = [] := fun ls =>
    List.filter_eq_nil_iff.mpr fun l _ => by simp [hI.whole l]
  have hv : ∀ l ∈ s.acting o f, (if (!s.ctx.operandsResident o f l) = true then some (trapHere 8 0 s.cur.pc)
      else check s.ctx l) = none := by
    intro l hl; simp [hres l hl, hchk l hl]
  have hgood : (s.acting o f).filter (fun l => (if (!s.ctx.operandsResident o f l) = true then some (trapHere 8 0 s.cur.pc)
      else check s.ctx l).isNone) = s.acting o f := List.filter_eq_self.mpr fun l hl => by rw [hv l hl]; rfl
  have hbad : (s.acting o f).filterMap (fun l => (if (!s.ctx.operandsResident o f l) = true then some (trapHere 8 0 s.cur.pc)
      else check s.ctx l).map (fun p => (l, p))) = [] := filterMap_none _ _ fun l hl => by rw [hv l hl]; rfl
  unfold State.acting at hgood hbad
  simp only [State.issue, hgood, hbad, hbd]
  rw [foldl_goTo s.ctx.k s.ctx.next s.ctx.w]
  · simp only [List.foldl_nil]
    refine ⟨_, _, congrArg (fun u : State => u.finishIssue f _ _ _ cycles) (?_ : _ = State.goAll _ _ _ _)⟩
    split
    · rename_i hp
      refine foldl_skip _ _ _ fun l hl => ?_
      obtain ⟨ha, he⟩ := List.mem_filter.mp hl
      have he : l % 2 = 0 := by simpa using he
      obtain ⟨hb, hm⟩ := hI.pair hp l ha he
      have h1 := hB l ha
      have h2 := hB (l + 1) hb
      unfold State.acting at h1 h2
      simp only [State.comparePair, State.goAll_thread, ha, hb, if_true, Thread.goTo_pc, Thread.goTo_exited,
        Thread.goTo_trapMode, Thread.goTo_ptrap, h1, h2, hm, beq_self_eq_true, Bool.and_self]
    · rfl
  · intro l hl
    exact ⟨by simp, hB l hl⟩

theorem State.goAll_cur (k : Nat) (pc : SlotAddr) (ls : List Nat) (s : State) : (s.goAll k pc ls).cur = s.cur :=
  show (s.goAll k pc ls).kept.cur = s.kept.cur by rw [State.goAll_kept]

/-- What is left after the body `b` of an instruction once its lanes have gone on and the issue has ended. -/
theorem State.ended_spec (s b : State) (f : Fields) (ex : List Nat) (tr : Bool) (next : Option SlotAddr) (n : Nat)
    (hc : b.cur = s.cur) :
    let t := (b.goAll s.ctx.k s.ctx.next s.ctx.active).finishIssue f ex tr next n
    t.kept = b.kept ∧ (∀ j, j ≠ s.ctx.k → t.wave j = b.wave j) ∧ (∀ j, (t.wave j).noThreads = (b.wave j).noThreads) ∧
    ∀ l, (t.thread s.ctx.k l).booked =
      (if l ∈ s.ctx.active then (b.thread s.ctx.k l).goTo s.ctx.next else b.thread s.ctx.k l).booked := by
  obtain ⟨h1, h2, h3, h4⟩ := (b.goAll s.ctx.k s.ctx.next s.ctx.active).finishIssue_spec f ex tr next n
  have hk : waveKey (b.goAll s.ctx.k s.ctx.next s.ctx.active).cur.core (b.goAll s.ctx.k s.ctx.next s.ctx.active).cur.slot =
      s.ctx.k := by rw [State.goAll_cur, hc]; rfl
  rw [hk] at h2
  refine ⟨h1.trans (State.goAll_kept ..), fun j hj => (h2 j hj).trans (State.goAll_wave_ne _ _ _ _ hj _), fun j => ?_,
    fun l => ?_⟩
  · refine (h3 j).trans ?_
    by_cases hj : j = s.ctx.k
    · subst hj; exact State.goAll_noThreads ..
    · rw [State.goAll_wave_ne _ _ _ _ hj]
  · rw [h4, State.goAll_thread]

theorem Thread.wentTo_of_booked {t u v : Thread} {pc : SlotAddr} (h : u.booked = (v.goTo pc).booked)
    (hv : v.trapMode = t.trapMode) (hm : v.mr = t.mr) : t.wentTo u pc := by
  have h1 : u.booked.pc = (v.goTo pc).booked.pc := congrArg Thread.pc h
  have h2 : u.booked.parked = (v.goTo pc).booked.parked := congrArg Thread.parked h
  have h3 : u.booked.checked = (v.goTo pc).booked.checked := congrArg Thread.checked h
  refine ⟨h1, ?_, h3⟩
  rw [← hv, ← hm]; exact h2

/-- After the body has made `b` of `s`, the end of the issue changes places only. -/
theorem State.fallsThrough_of (s b : State) (f : Fields) (ex : List Nat) (tr : Bool) (next : Option SlotAddr) (n : Nat)
    (hc : b.cur = s.cur) :
    FallsThrough s b ((b.goAll s.ctx.k s.ctx.next s.ctx.active).finishIssue f ex tr next n) := by
  obtain ⟨h1, h2, -, h4⟩ := State.ended_spec s b f ex tr next n hc
  refine ⟨h1, h2, fun l => ?_, fun l hl => ?_, fun l hl => ?_⟩
  · refine (Thread.kept_of_booked (h4 l)).trans ?_
    split <;> simp
  · have := h4 l
    rw [if_pos hl] at this
    exact Thread.wentTo_of_booked this rfl rfl
  · have := h4 l
    rw [if_neg hl] at this
    have h5 : ∀ {t u : Thread}, t.booked = u.booked → t.pc = u.pc ∧ t.parked = u.parked := fun {t u} h =>
      ⟨show t.booked.pc = u.booked.pc by rw [h], show t.booked.parked = u.booked.parked by rw [h]⟩
    exact h5 this

/-- A body that does not stop the lanes of the bundle. -/
def Unstopped (s b : State) : Prop :=
  b.cur = s.cur ∧ ∀ l ∈ s.ctx.active, (b.thread s.ctx.k l).exited = (s.thread s.ctx.k l).exited ∧
    (b.thread s.ctx.k l).block = (s.thread s.ctx.k l).block ∧ (b.thread s.ctx.k l).ptrap = (s.thread s.ctx.k l).ptrap ∧
    (b.thread s.ctx.k l).trapMode = (s.thread s.ctx.k l).trapMode

/-- AN INSTRUCTION THAT NO LANE TRAPS ON AND THAT STOPS NO LANE: all that its issue leaves. -/
theorem State.issue_spec (s : State) (o : Op) (f : Fields) (check : Ctx → Nat → Option PTrap)
    (body : Ctx → List Nat → State → State) (cycles : Nat) (hI : Issuable s)
    (hres : ∀ l ∈ s.acting o f, s.ctx.operandsResident o f l = true) (hchk : ∀ l ∈ s.acting o f, check s.ctx l = none)
    (hB : Unstopped s (body s.ctx (s.acting o f) s)) :
    FallsThrough s (body s.ctx (s.acting o f) s) (s.issue o f check body false cycles) ∧
    ((s.issue o f check body false cycles).wave s.ctx.k).noThreads =
      ((body s.ctx (s.acting o f) s).wave s.ctx.k).noThreads := by
  obtain ⟨ex, tr, hq⟩ := State.issue_quiet s o f check body cycles hI hres hchk (fun l hl => by
    obtain ⟨h1, h2, h3, h4⟩ := hB.2 l hl
    obtain ⟨g1, g2, g3⟩ := hI.lane l hl
    exact ⟨h1.trans g1, h2.trans g2, h3.trans g3, h4⟩)
  rw [hq]
  exact ⟨State.fallsThrough_of s _ f _ _ _ _ hB.1, (State.ended_spec s _ f _ _ _ _ hB.1).2.2.1 _⟩

/-- The effect of `p` may be written otherwise: only what FallsThrough reads of it counts. -/
theorem FallsThrough.congr {s p q t : State} (h : FallsThrough s p t) (hk : p.kept = q.kept)
    (hw : ∀ k, k ≠ s.ctx.k → p.wave k = q.wave k) (ht : ∀ l, p.thread s.ctx.k l = q.thread s.ctx.k l) :
    FallsThrough s q t :=
  ⟨h.package.trans hk, fun k hk => (h.waves k hk).trans (hw k hk), fun l => (h.thread l).trans (by rw [ht]),
    fun l hl => by rw [← ht]; exact h.moved l hl, fun l hl => by rw [← ht]; exact h.stayed l hl⟩

/-! ### Results of fixed latency -/

theorem Wave.launchResults_threads (w : Wave) (m : BitVec 32) (n : Nat) (ws : List (Dst × Reg)) :
    (w.launchResults m n ws).threads = w.threads := by
  exact foldl_same Wave.threads (fun w (p : Dst × Reg) => { w with fly := w.fly ++ [{ land := w.landing p.1 n, dst := p.1, val := p.2, lanes := m }] })
    (fun _ _ => rfl) ws w

theorem Wave.launchResults_kept (w : Wave) (m : BitVec 32) (n : Nat) (ws : List (Dst × Reg)) : (w.launchResults m n ws).kept = w.kept :=
  foldl_same Wave.kept (fun w (p : Dst × Reg) => { w with fly := w.fly ++ [{ land := w.landing p.1 n, dst := p.1, val := p.2, lanes := m }] })
    (fun _ _ => rfl) ws w

theorem landing_foldl (d : Dst) (fs : List Fly) : ∀ n : Nat,
    let r := fs.foldl (fun n x => if x.dst = d then max n x.land else n) n
    n ≤ r ∧ (∀ y ∈ fs, y.dst = d → y.land ≤ r) ∧ (r = n ∨ ∃ y ∈ fs, y.dst = d ∧ y.land = r) := by
  induction fs with
  | nil => intro n; simp
  | cons a t ih =>
    intro n
    simp only [List.foldl_cons]
    by_cases h : a.dst = d
    · simp only [h, if_true]
      obtain ⟨h1, h2, h3⟩ := ih (max n a.land)
      refine ⟨by omega, ?_, ?_⟩
      · intro y hy hd
        rcases List.mem_cons.mp hy with rfl | hy
        · omega
        · exact h2 y hy hd
      · rcases h3 with h3 | ⟨y, hy, hd, hl⟩
        · rcases Nat.le_total n a.land with hle | hle
          · right; exact ⟨a, by simp, h, by rw [h3]; omega⟩
          · left; rw [h3]; omega
        · right; exact ⟨y, by simp [hy], hd, hl⟩
    · simp only [h, if_false]
      obtain ⟨h1, h2, h3⟩ := ih n
      refine ⟨h1, ?_, ?_⟩
      · intro y hy hd
        rcases List.mem_cons.mp hy with rfl | hy
        · exact absurd hd h
        · exact h2 y hy hd
      · rcases h3 with h3 | ⟨y, hy, hd, hl⟩
        · exact .inl h3
        · right; exact ⟨y, by simp [hy], hd, hl⟩

/-- WRITING RESULTS OF FIXED LATENCY: they join those in flight in order, none landing before an earlier one of its
destination. -/
theorem Wave.launchResults_gains (m : BitVec 32) (n : Nat) (ws : List (Dst × Reg)) : ∀ w : Wave, w.gains (w.launchResults m n ws) n ws := by
  induction ws with
  | nil => intro w; exact ⟨[], by simp [Wave.launchResults], rfl, by simp⟩
  | cons a t ih =>
    intro w
    obtain ⟨d, r⟩ := a
    let x : Fly := { land := w.landing d n, dst := d, val := r, lanes := m }
    obtain ⟨new, h1, h2, h3⟩ := ih { w with fly := w.fly ++ [x] }
    have hl := landing_foldl d w.fly n
    refine ⟨x :: new, ?_, by simp [h2, x], ?_⟩
    · have : w.launchResults m n ((d, r) :: t) = ({ w with fly := w.fly ++ [x] } : Wave).launchResults m n t := rfl
      rw [this, h1]; simp
    · intro y hy
      rcases List.mem_cons.mp hy with rfl | hy
      · exact hl
      · obtain ⟨a1, a2, a3⟩ := h3 y hy
        refine ⟨a1, fun z hz => a2 z (by simp [hz]), ?_⟩
        rcases a3 with a3 | ⟨z, hz, hd, hland⟩
        · exact .inl a3
        · rcases List.mem_append.mp hz with hz | hz
          · exact .inr ⟨z, hz, hd, hland⟩
          · have : z = x := by simpa using hz
            subst this
            have hd : d = y.dst := hd
            rcases hl.2.2 with hn | ⟨q, hq, hqd, hql⟩
            · left; rw [← hland]; exact hn
            · right; exact ⟨q, hq, hqd.trans hd, hql.trans hland⟩

theorem State.writeFixed_spec (s : State) (k lat : Nat) (ws : List (Dst × Reg)) :
    (s.writeFixed k lat ws).kept = s.kept ∧ (∀ j, j ≠ k → (s.writeFixed k lat ws).wave j = s.wave j) ∧
    (∀ j l, (s.writeFixed k lat ws).thread j l = s.thread j l) ∧
    ((s.writeFixed k lat ws).wave k).kept = (s.wave k).kept ∧
    (s.wave k).gains ((s.writeFixed k lat ws).wave k) (s.cycle + lat) ws := by
  have h : ∀ j, (s.writeFixed k lat ws).wave j = if j = k then (s.wave k).launchResults s.cur.lanes (s.cycle + lat) ws else s.wave j :=
    fun j => s.wave_modWave k j _
  refine ⟨rfl, fun j hj => by rw [h, if_neg hj], fun j l => ?_, ?_, ?_⟩
  · unfold State.thread Wave.thread; rw [h]; split
    · rename_i e; rw [Wave.launchResults_threads, e]
    · rfl
  · rw [h, if_pos rfl]; exact Wave.launchResults_kept ..
  · rw [h, if_pos rfl]; exact Wave.launchResults_gains ..

theorem Wave.gains_congr {w w' v v' : Wave} {n : Nat} {ws : List (Dst × Reg)} (h : w.gains w' n ws) (h1 : w.fly = v.fly)
    (h2 : w'.fly = v'.fly) : v.gains v' n ws := by
  unfold Wave.gains at *; rw [← h1, ← h2]; exact h

/-- AN INSTRUCTION WHOSE BODY makes `p` of `s` and then writes results of fixed latency. -/
theorem ComputesIn.of_issue {i : Instr} {s p : State} {o : Op} {f : Fields} {check : Ctx → Nat → Option PTrap}
    {body : Ctx → List Nat → State → State} {cycles lat : Nat} {g : Nat → List (Dst × Reg)}
    (he : exec i s = .next (s.issue o f check body false cycles)) (hw : o.wholeWave = false) (hI : Issuable s)
    (hres : Residents s o f) (hchk : ∀ l ∈ s.ctx.executing f, check s.ctx l = none)
    (hp : Unstopped s p) (hcy : p.cycle = s.cycle)
    (hb : body s.ctx (s.ctx.executing f) s = p.writeFixed s.ctx.k lat ((s.ctx.executing f).flatMap g)) :
    ComputesIn i f s p lat g := by
  have ha : s.acting o f = s.ctx.executing f := by simp [State.acting, hw]
  obtain ⟨w1, w2, w3, w4, w5⟩ := p.writeFixed_spec s.ctx.k lat ((s.ctx.executing f).flatMap g)
  have hs := State.issue_spec s o f check body cycles hI (by rw [ha]; exact hres) (by rw [ha]; exact hchk) (by
    rw [ha, hb]
    exact ⟨hp.1, fun l hl => by rw [w3]; exact hp.2 l hl⟩)
  rw [ha, hb] at hs
  refine ⟨_, he, hs.1.congr w1 w2 (w3 _), ?_, ?_⟩
  · exact (congrArg Wave.kept hs.2).trans w4
  · rw [← hcy]
    exact Wave.gains_congr w5 rfl (congrArg Wave.fly hs.2).symm

theorem Unstopped.refl (s : State) : Unstopped s s := ⟨rfl, fun _ _ => ⟨rfl, rfl, rfl, rfl⟩⟩

/-- An instruction that is an `alu` of results `g`, given lane by lane, computes them. -/
theorem Computes.of_alu {i : Instr} {s : State} {o : Op} {f : Fields} {lat : Nat} {g : Ctx → Nat → List (Dst × Reg)}
    {g' : Nat → List (Dst × Reg)} (he : exec i s = .next (s.alu o f lat g)) (hw : o.wholeWave = false) (hI : Issuable s)
    (hres : Residents s o f) (hg : ∀ l, g s.ctx l = g' l) : Computes i f s lat g' := by
  have hg : g s.ctx = g' := funext hg
  exact .of_issue he hw hI hres (fun _ _ => rfl) (.refl s) rfl (by rw [hg])

/-! ### Scoreboarded results -/

theorem State.writeVar_spec (s : State) (k : Nat) (ws : List (Dst × Reg)) :
    (s.writeVar k ws).kept = s.kept ∧ (∀ j, j ≠ k → (s.writeVar k ws).wave j = s.wave j) ∧
    (∀ j l, (s.writeVar k ws).thread j l = s.thread j l) ∧
    ((s.writeVar k ws).wave k) = (s.wave k).pends s.serial ws := by
  unfold State.writeVar Wave.pends
  split
  · exact ⟨rfl, fun _ _ => rfl, fun _ _ => rfl, rfl⟩
  · have h : ∀ (g : Wave → Wave) j, ({ s.modWave k g with serial := s.serial + 1 } : State).wave j =
        if j = k then g (s.wave k) else s.wave j := fun g j => s.wave_modWave k j g
    refine ⟨rfl, fun j hj => by rw [h, if_neg hj], fun j l => ?_, by rw [h, if_pos rfl]⟩
    unfold State.thread Wave.thread; rw [h]; split
    · rename_i e; rw [e]
    · rfl

/-- AN INSTRUCTION WHOSE BODY makes `p` of `s` and then writes scoreboarded results. -/
theorem Scoreboards.of_issue {i : Instr} {s p : State} {o : Op} {f : Fields} {check : Ctx → Nat → Option PTrap}
    {body : Ctx → List Nat → State → State} {cycles : Nat} {ws : List (Dst × Reg)}
    (he : exec i s = .next (s.issue o f check body false cycles)) (hI : Issuable s)
    (hres : ∀ l ∈ s.acting o f, s.ctx.operandsResident o f l = true) (hchk : ∀ l ∈ s.acting o f, check s.ctx l = none)
    (hp : Unstopped s p) (hser : p.serial = s.serial)
    (hb : body s.ctx (s.acting o f) s = p.writeVar s.ctx.k ws) : Scoreboards i s p ws := by
  obtain ⟨w1, w2, w3, w4⟩ := p.writeVar_spec s.ctx.k ws
  have hs := State.issue_spec s o f check body cycles hI hres hchk (by
    rw [hb]
    exact ⟨(show (p.writeVar s.ctx.k ws).kept.cur = p.kept.cur by rw [w1]).trans hp.1, fun l hl => by
      rw [w3]; exact hp.2 l hl⟩)
  rw [hb] at hs
  refine ⟨_, he, hs.1.congr w1 w2 (w3 _), ?_⟩
  rw [hs.2, w4, hser]

/-- An instruction that is an `aluVar` of results `g`, given lane by lane. -/
theorem Scoreboards.of_aluVar {i : Instr} {s : State} {o : Op} {f : Fields} {g : Ctx → Nat → List (Dst × Reg)}
    {g' : Nat → List (Dst × Reg)} (he : exec i s = .next (s.aluVar o f g)) (hw : o.wholeWave = false) (hI : Issuable s)
    (hres : Residents s o f) (hg : ∀ l, g s.ctx l = g' l) : Scoreboards i s s ((s.ctx.executing f).flatMap g') := by
  have ha : s.acting o f = s.ctx.executing f := by simp [State.acting, hw]
  have hg : g s.ctx = g' := funext hg
  exact .of_issue he hI (by rw [ha]; exact hres) (fun _ _ => rfl) (.refl s) rfl (by rw [ha, hg])

/-- An instruction whose body makes `p` of `s` and writes no result. -/
theorem Does.of_issue {i : Instr} {s p : State} {o : Op} {f : Fields} {check : Ctx → Nat → Option PTrap}
    {body : Ctx → List Nat → State → State} {cycles : Nat}
    (he : exec i s = .next (s.issue o f check body false cycles)) (hI : Issuable s)
    (hres : ∀ l ∈ s.acting o f, s.ctx.operandsResident o f l = true) (hchk : ∀ l ∈ s.acting o f, check s.ctx l = none)
    (hp : Unstopped s p) (hb : body s.ctx (s.acting o f) s = p) : Does i s p := by
  have hs := State.issue_spec s o f check body cycles hI hres hchk (by rw [hb]; exact hp)
  rw [hb] at hs
  exact ⟨_, he, hs⟩

/-! ### Rounding instructions -/

/-- What the draw of a stochastic rounding leaves: the generator of the quarter alone. -/
theorem State.draw_spec (s : State) (k rnd : Nat) :
    Unstopped s (s.draw k rnd).1 ∧ (s.draw k rnd).1.cycle = s.cycle ∧ (s.draw k rnd).1.serial = s.serial ∧
    (s.draw k rnd).1.waves = s.waves := by
  unfold State.draw
  split <;> exact ⟨⟨rfl, fun _ _ => ⟨rfl, rfl, rfl, rfl⟩⟩, rfl, rfl, rfl⟩

/-- The mode that a rounding instruction uses for sub-element `j` of a lane. -/
def State.modeFor (s : State) (rnd : Nat) (rs : Ctx → Nat → List Reg) (l j : Nat) : Mode :=
  ⟨rnd, if rnd = 5 || rnd = 6 then
    s.ctx.randomByte rnd (s.draw s.ctx.k rnd).2 (if rnd = 6 then rs s.ctx l else []) l j else 0⟩

/-- A ROUNDING INSTRUCTION of fixed latency. -/
theorem ComputesIn.of_rounding {i : Instr} {s : State} {o : Op} {f : Fields} {lat rnd : Nat} {rs : Ctx → Nat → List Reg}
    {check : Ctx → Nat → Option PTrap} {g : Ctx → Nat → (Nat → Mode) → Bool → List (Dst × Reg)}
    {g' : Nat → List (Dst × Reg)} (he : exec i s = .next (s.rounding o f (some lat) rnd rs check g))
    (hw : o.wholeWave = false) (hI : Issuable s) (hres : Residents s o f)
    (hchk : ∀ l ∈ s.ctx.executing f, check s.ctx l = none)
    (hg : ∀ l, g s.ctx l (s.modeFor rnd rs l) ((if rnd = 6 then rs s.ctx l else []).any (·.x)) = g' l) :
    ComputesIn i f s (s.draw s.ctx.k rnd).1 lat g' := by
  obtain ⟨h1, h2, -, -⟩ := s.draw_spec s.ctx.k rnd
  refine .of_issue he hw hI hres hchk h1 h2 ?_
  have hg : (fun l => g s.ctx l (s.modeFor rnd rs l) ((if rnd = 6 then rs s.ctx l else []).any (·.x))) = g' := funext hg
  rw [← hg]
  rfl

/-- A ROUNDING INSTRUCTION whose result is scoreboarded. -/
theorem Scoreboards.of_rounding {i : Instr} {s : State} {o : Op} {f : Fields} {rnd : Nat} {rs : Ctx → Nat → List Reg}
    {check : Ctx → Nat → Option PTrap} {g : Ctx → Nat → (Nat → Mode) → Bool → List (Dst × Reg)}
    {g' : Nat → List (Dst × Reg)} (he : exec i s = .next (s.rounding o f none rnd rs check g))
    (hw : o.wholeWave = false) (hI : Issuable s) (hres : Residents s o f)
    (hchk : ∀ l ∈ s.ctx.executing f, check s.ctx l = none)
    (hg : ∀ l, g s.ctx l (s.modeFor rnd rs l) ((if rnd = 6 then rs s.ctx l else []).any (·.x)) = g' l) :
    Scoreboards i s (s.draw s.ctx.k rnd).1 ((s.ctx.executing f).flatMap g') := by
  have ha : s.acting o f = s.ctx.executing f := by simp [State.acting, hw]
  obtain ⟨h1, -, h2, -⟩ := s.draw_spec s.ctx.k rnd
  refine .of_issue he hI (by rw [ha]; exact hres) (by rw [ha]; exact hchk) h1 h2 ?_
  have hg : (fun l => g s.ctx l (s.modeFor rnd rs l) ((if rnd = 6 then rs s.ctx l else []).any (·.x))) = g' := funext hg
  rw [← hg, ha]
  rfl

/-! ### Transfers of control -/

theorem foldl_goTo_some (k : Nat) (pc : SlotAddr) (w : Wave) (stay : Nat → Bool) :
    ∀ (ls : List Nat) (s : State), (∀ l ∈ ls, stay l = false → (s.thread k l).exited = false ∧ (s.thread k l).block = none ∧
      (s.thread k l).ptrap = none ∧ (s.thread k l).trapMode = (w.thread l).trapMode) →
    ls.foldl (fun s l =>
      let t := s.thread k l
      if stay l || t.exited || t.block.isSome || t.ptrap.isSome || (t.trapMode != (w.thread l).trapMode) then s
      else s.setThread k l (t.goTo pc)) s = s.goAll k pc (ls.filter fun l => !stay l) := by
  intro ls
  induction ls with
  | nil => intro s _; rfl
  | cons a t ih =>
    intro s h
    simp only [List.foldl_cons]
    by_cases hs : stay a = true
    · simp only [hs, Bool.true_or, if_true]
      rw [ih s fun l hl => h l (by simp [hl])]
      simp [hs]
    · obtain ⟨h1, h2, h3, h4⟩ := h a (by simp) (by simpa using hs)
      simp only [hs, h1, h2, h3, h4, Option.isSome_none, Bool.or_self, bne_self_eq_false, Bool.false_eq_true, if_false]
      rw [ih _ fun l hl hn => ?_]
      · simp [hs, State.goAll]
      · have := h l (by simp [hl]) hn
        rw [State.thread_setThread]
        split
        · rename_i e; obtain ⟨-, rfl⟩ := e; exact ⟨h1, h2, h3, h4⟩
        · exact this

/-- A body that gives the executing lanes their places, and leaves the other lanes of the bundle as they can issue; the lanes of
a pair of a protected launch stay together. -/
structure Jumped (s b : State) (ex : List Nat) : Prop where
  cur : b.cur = s.cur
  acted : ∀ l ∈ ex, (b.thread s.ctx.k l).exited = false ∧ (b.thread s.ctx.k l).ptrap = none
  other : ∀ l ∈ s.ctx.active, l ∉ ex → b.thread s.ctx.k l = s.thread s.ctx.k l
  pair : s.ctx.lr.prot = true → ∀ l ∈ s.ctx.active, l % 2 = 0 → (l ∈ ex ↔ l + 1 ∈ ex) ∧
    (l ∈ ex → (b.thread s.ctx.k l).pc = (b.thread s.ctx.k (l + 1)).pc ∧
      (b.thread s.ctx.k l).trapMode = (b.thread s.ctx.k (l + 1)).trapMode)

/-- THE ISSUE OF A TRANSFER that no lane traps on: its body, then the lanes that do not execute go to the fall-through. -/
theorem State.issue_jumps (s : State) (o : Op) (f : Fields) (check : Ctx → Nat → Option PTrap)
    (body : Ctx → List Nat → State → State) (cycles : Nat) (hI : Issuable s) (hw : o.wholeWave = false)
    (hres : Residents s o f) (hchk : ∀ l ∈ s.ctx.executing f, check s.ctx l = none)
    (hB : Jumped s (body s.ctx (s.ctx.executing f) s) (s.ctx.executing f)) :
    ∃ ex tr, s.issue o f check body true cycles =
      ((body s.ctx (s.ctx.executing f) s).goAll s.ctx.k s.ctx.next
        (s.ctx.active.filter fun l => !(s.ctx.executing f).contains l)).finishIssue f ex tr
        (if o == .brx then none else some s.ctx.next) cycles := by
  have hbd : ∀ ls : List Nat, (ls.filter fun l => !(s.ctx.w.thread l).bad.isEmpty) = [] := fun ls =>
    List.filter_eq_nil_iff.mpr fun l _ => by simp [hI.whole l]
  have hv : ∀ l ∈ s.ctx.executing f, (if (!s.ctx.operandsResident o f l) = true then some (trapHere 8 0 s.cur.pc)
      else check s.ctx l) = none := by
    intro l hl; simp [hres l hl, hchk l hl]
  have hgood : (s.ctx.executing f).filter (fun l => (if (!s.ctx.operandsResident o f l) = true then
      some (trapHere 8 0 s.cur.pc) else check s.ctx l).isNone) = s.ctx.executing f :=
    List.filter_eq_self.mpr fun l hl => by rw [hv l hl]; rfl
  have hbad : (s.ctx.executing f).filterMap (fun l => (if (!s.ctx.operandsResident o f l) = true then
      some (trapHere 8 0 s.cur.pc) else check s.ctx l).map (fun p => (l, p))) = [] :=
    filterMap_none _ _ fun l hl => by rw [hv l hl]; rfl
  simp only [State.issue, hw, Bool.false_eq_true, if_false, hgood, hbad, hbd, List.any_nil, Bool.false_or, Bool.true_and]
  rw [foldl_goTo_some s.ctx.k s.ctx.next s.ctx.w]
  · simp only [List.foldl_nil]
    refine ⟨_, _, congrArg (fun u : State => u.finishIssue f _ _ _ cycles) (?_ : _ = State.goAll _ _ _ _)⟩
    by_cases hp : s.ctx.lr.prot = true
    · rw [if_pos hp, foldl_skip]
      intro l hl
      obtain ⟨ha, he⟩ := List.mem_filter.mp hl
      have he : l % 2 = 0 := by simpa using he
      obtain ⟨hb, hm⟩ := hI.pair hp l ha he
      obtain ⟨hx, hy⟩ := hB.pair hp l ha he
      have h1 := hI.lane l ha
      have h2 := hI.lane (l + 1) hb
      by_cases hin : l ∈ s.ctx.executing f
      · have hin' := hx.mp hin
        obtain ⟨y1, y2⟩ := hy hin
        obtain ⟨a1, a2⟩ := hB.acted l hin
        obtain ⟨b1, b2⟩ := hB.acted (l + 1) hin'
        simp [State.comparePair, State.goAll_thread, hin, hin', y1, y2, a1, a2, b1, b2]
      · have hin' : l + 1 ∉ s.ctx.executing f := fun h => hin (hx.mpr h)
        have o1 := hB.other l ha hin
        have o2 := hB.other (l + 1) hb hin'
        have t1 : s.thread s.ctx.k l = s.ctx.w.thread l := rfl
        have t2 : s.thread s.ctx.k (l + 1) = s.ctx.w.thread (l + 1) := rfl
        simp [State.comparePair, State.goAll_thread, hin, hin', ha, hb, o1, o2, t1, t2, h1, h2, hm]
    · rw [if_neg hp]
  · intro l hl hn
    have hin : l ∉ s.ctx.executing f := by simpa using hn
    obtain ⟨h1, h2, h3⟩ := hI.lane l hl
    rw [hB.other l hl hin]
    exact ⟨h1, h2, h3, rfl⟩

/-- AN INSTRUCTION THAT TRANSFERS: all that its issue leaves, where its body has made `p` of `s` and then sent each executing
lane to its place. -/
theorem Transfers.of_issue {i : Instr} {s p : State} {o : Op} {f : Fields} {check : Ctx → Nat → Option PTrap}
    {body : Ctx → List Nat → State → State} {cycles : Nat} {dest : Nat → SlotAddr}
    (he : exec i s = .next (s.issue o f check body true cycles)) (hI : Issuable s) (hw : o.wholeWave = false)
    (hres : Residents s o f) (hchk : ∀ l ∈ s.ctx.executing f, check s.ctx l = none)
    (hB : Jumped s (body s.ctx (s.ctx.executing f) s) (s.ctx.executing f))
    (hk : (body s.ctx (s.ctx.executing f) s).kept = p.kept)
    (hv : ∀ j, j ≠ s.ctx.k → (body s.ctx (s.ctx.executing f) s).wave j = p.wave j)
    (hn : ((body s.ctx (s.ctx.executing f) s).wave s.ctx.k).noThreads = (p.wave s.ctx.k).noThreads)
    (ht : ∀ l, (body s.ctx (s.ctx.executing f) s).thread s.ctx.k l =
      if l ∈ s.ctx.executing f then (p.thread s.ctx.k l).goTo (dest l) else p.thread s.ctx.k l) :
    Transfers i f s p dest := by
  obtain ⟨ex, tr, hq⟩ := State.issue_jumps s o f check body cycles hI hw hres hchk hB
  rw [hq] at he
  refine ⟨_, he, ?_, ?_⟩
  all_goals generalize hb : body s.ctx (s.ctx.executing f) s = b at *
  · obtain ⟨h1, h2, -, h4⟩ := (b.goAll s.ctx.k s.ctx.next
      (s.ctx.active.filter fun l => !(s.ctx.executing f).contains l)).finishIssue_spec f ex tr
      (if o == .brx then none else some s.ctx.next) cycles
    have hc : waveKey (b.goAll s.ctx.k s.ctx.next (s.ctx.active.filter fun l => !(s.ctx.executing f).contains l)).cur.core
        (b.goAll s.ctx.k s.ctx.next (s.ctx.active.filter fun l => !(s.ctx.executing f).contains l)).cur.slot = s.ctx.k := by
      rw [State.goAll_cur, hB.cur]; rfl
    rw [hc] at h2
    have h4 := h4 s.ctx.k
    simp only [State.goAll_thread] at h4
    refine ⟨h1.trans ((State.goAll_kept ..).trans hk), fun j hj => (h2 j hj).trans ((State.goAll_wave_ne _ _ _ _ hj _).trans
      (hv j hj)), fun l => ?_, fun l hl => ?_, fun l hl => ?_⟩
    · refine (Thread.kept_of_booked (h4 l)).trans ?_
      rw [ht]
      split <;> split <;> simp
    · have h4 := h4 l
      by_cases hin : l ∈ s.ctx.executing f
      · have hf : ¬ l ∈ s.ctx.active.filter (fun l => !(s.ctx.executing f).contains l) := by simp [hin]
        rw [if_neg hf, ht, if_pos hin] at h4
        rw [if_pos hin]
        exact Thread.wentTo_of_booked h4 rfl rfl
      · have hf : l ∈ s.ctx.active.filter (fun l => !(s.ctx.executing f).contains l) := by simp [hin, hl]
        rw [if_pos hf, ht, if_neg hin] at h4
        rw [if_neg hin]
        exact Thread.wentTo_of_booked h4 rfl rfl
    · have h4 := h4 l
      have hin : l ∉ s.ctx.executing f := fun h => hl (List.mem_filter.mp h).1
      have hf : ¬ l ∈ s.ctx.active.filter (fun l => !(s.ctx.executing f).contains l) := by simp [hl]
      rw [if_neg hf, ht, if_neg hin] at h4
      exact ⟨show Thread.pc (Thread.booked _) = Thread.pc (Thread.booked _) by rw [h4],
        show Thread.parked (Thread.booked _) = Thread.parked (Thread.booked _) by rw [h4]⟩
  · obtain ⟨-, -, h3, -⟩ := (b.goAll s.ctx.k s.ctx.next
      (s.ctx.active.filter fun l => !(s.ctx.executing f).contains l)).finishIssue_spec f ex tr
      (if o == .brx then none else some s.ctx.next) cycles
    exact (h3 _).trans ((State.goAll_noThreads ..).trans hn)

/-! ### Traps -/

theorem Wave.unbundle_thread (w : Wave) (a l : Nat) : (w.unbundle a).thread l = w.thread l := rfl

theorem State.wave_dropLatch (s : State) (k j : Nat) : (s.dropLatch k).wave j = s.wave j := rfl

/-- TAKING A TRAP outside trap mode, where the launch has a handler: the thread is as R216 says, and nothing else changes but
bundles and the operand latch. -/
theorem State.enterTrap_spec (s : State) (k lane : Nat) (p : PTrap) (hx : (s.thread k lane).exited = false)
    (hm : (s.thread k lane).trapMode = false) (hv : (s.recOf k).trapv ≠ 0) (hl : p.later = false)
    (hg : p.again = false) :
    (s.enterTrap k lane p).kept = s.kept ∧ (∀ j, j ≠ k → (s.enterTrap k lane p).wave j = s.wave j) ∧
    ((s.enterTrap k lane p).wave k).noThreads = (s.wave k).noThreads ∧
    (∀ l, ((s.enterTrap k lane p).thread k l) = if l = lane then
      { (s.thread k lane).trapped (s.recOf k) p.cause.toNat p.tval p.tpc p.res with since := s.cycle } else s.thread k l) := by
  unfold State.enterTrap
  simp only [hx, hm, hv, hl, hg, Bool.false_eq_true, if_false]
  refine ⟨rfl, fun j hj => ?_, ?_, fun l => ?_⟩
  · rw [State.wave_modWave, if_neg hj]; rfl
  · rw [State.wave_modWave, if_pos rfl]; rfl
  · show Wave.thread (State.wave _ k) l = _
    rw [State.wave_modWave, if_pos rfl, Wave.unbundle_thread, Wave.thread_setThread]
    split
    · simp [Thread.trapped, hx]
    · rfl

/-- An instruction's trap in every lane of a list: each lane enters, the others are untouched. -/
theorem State.raiseAll_spec (c : Ctx) (P : Nat → PTrap) (hP : ∀ l, (P l).later = false ∧ (P l).again = false)
    (hr : ∀ l, (P l).cause ≠ 0x10#8 ∨ c.lr.rbk = false) : ∀ (ls : List Nat) (s : State), ls.Nodup →
    (∀ l ∈ ls, (s.thread c.k l).exited = false ∧ (s.thread c.k l).trapMode = false ∧ (s.thread c.k l).block = none ∧
      (s.wave c.k).inFlight l = []) →
    (s.recOf c.k).trapv ≠ 0 →
    let t := (ls.map fun l => (l, P l)).foldl (fun s (e : Nat × PTrap) => s.raiseFor c e.1 e.2) s
    t.kept = s.kept ∧ (∀ j, j ≠ c.k → t.wave j = s.wave j) ∧ (t.wave c.k).noThreads = (s.wave c.k).noThreads ∧
    (∀ l, t.thread c.k l = if l ∈ ls then
      { (s.thread c.k l).trapped (s.recOf c.k) (P l).cause.toNat (P l).tval (P l).tpc (P l).res with since := s.cycle }
      else s.thread c.k l) := by
  intro ls
  induction ls with
  | nil => intro s _ _ _; exact ⟨rfl, fun _ _ => rfl, rfl, fun l => by simp⟩
  | cons a ls ih =>
    intro s hnd h hv
    obtain ⟨hna, hnd⟩ := List.nodup_cons.mp hnd
    obtain ⟨h1, h2, h0, h3⟩ := h a (by simp)
    have he : s.raiseFor c a (P a) = s.enterTrap c.k a (P a) := by
      have : ((P a).cause == 0x10 && c.lr.rbk) = false := by
        rcases hr a with h | h
        · simp [h]
        · simp [h]
      unfold State.raiseFor
      rw [this]
      simp [State.raiseTrap, h1, h2, h0, h3]
    obtain ⟨e1, e2, e3, e4⟩ := s.enterTrap_spec c.k a (P a) h1 h2 hv (hP a).1 (hP a).2
    have hrec : (s.enterTrap c.k a (P a)).recOf c.k = s.recOf c.k := by
      have hl : ((s.enterTrap c.k a (P a)).wave c.k).launch = (s.wave c.k).launch := by
        show Wave.launch (Wave.noThreads _) = Wave.launch (Wave.noThreads _); rw [e3]
      have hm : (s.enterTrap c.k a (P a)).launches = s.launches := by
        show State.launches (State.kept _) = State.launches (State.kept _); rw [e1]
      unfold State.recOf State.launchOf State.launchAt
      rw [hl, hm]
    have hfly : ((s.enterTrap c.k a (P a)).wave c.k).inFlight = (s.wave c.k).inFlight := by
      funext l
      have : ((s.enterTrap c.k a (P a)).wave c.k).fly = (s.wave c.k).fly := by
        show Wave.fly (Wave.noThreads _) = Wave.fly (Wave.noThreads _); rw [e3]
      unfold Wave.inFlight; rw [this]
    have hcy : (s.enterTrap c.k a (P a)).cycle = s.cycle := by
      show State.cycle (State.kept _) = State.cycle (State.kept _); rw [e1]
    obtain ⟨i1, i2, i3, i4⟩ := ih (s.enterTrap c.k a (P a)) hnd (fun l hl => by
      have hne : l ≠ a := fun e => hna (e ▸ hl)
      rw [e4, if_neg hne, hfly]
      exact h l (by simp [hl])) (by rw [hrec]; exact hv)
    simp only [List.map_cons, List.foldl_cons, he]
    refine ⟨i1.trans e1, fun j hj => (i2 j hj).trans (e2 j hj), i3.trans e3, fun l => ?_⟩
    rw [i4, hrec, hcy]
    by_cases hla : l = a
    · subst hla; simp [hna, e4]
    · by_cases hls : l ∈ ls <;> simp [hla, hls, e4]

theorem lanesOf_nodup (m : BitVec 32) : (lanesOf m).Nodup := List.Nodup.filter _ List.nodup_range

/-- AN INSTRUCTION ON WHICH EVERY EXECUTING LANE TRAPS. -/
theorem Traps.of_issue {i : Instr} {s : State} {o : Op} {f : Fields} {check : Ctx → Nat → Option PTrap}
    {body : Ctx → List Nat → State → State} {jumps : Bool} {cycles : Nat} {cause : Nat → Nat} {tval : Nat → DWord}
    {res : SlotAddr} (he : exec i s = .next (s.issue o f check body jumps cycles)) (hw : o.wholeWave = false)
    (hI : Issuable s) (ht : Together s f) (hE : Enterable s f) (hh : handles s)
    (hc : ∀ l, cause l < 256 ∧ (cause l ≠ 0x10 ∨ s.ctx.lr.rbk = false))
    (hp : ∀ l ∈ s.ctx.executing f, (if (!s.ctx.operandsResident o f l) = true then some (trapHere 8 0 s.cur.pc)
      else check s.ctx l) = some { later := false, cause := BitVec.ofNat 8 (cause l), tval := tval l, tpc := s.cur.pc, res := res })
    (hb : body s.ctx [] s = s) : Traps i f s cause tval res := by
  let P : Nat → PTrap := fun l =>
    { later := false, cause := BitVec.ofNat 8 (cause l), tval := tval l, tpc := s.cur.pc, res := res }
  have hgood : (s.ctx.executing f).filter (fun l => (if (!s.ctx.operandsResident o f l) = true then
      some (trapHere 8 0 s.cur.pc) else check s.ctx l).isNone) = [] :=
    List.filter_eq_nil_iff.mpr fun l hl => by rw [hp l hl]; simp
  have hbad : (s.ctx.executing f).filterMap (fun l => (if (!s.ctx.operandsResident o f l) = true then
      some (trapHere 8 0 s.cur.pc) else check s.ctx l).map (fun p => (l, p))) = (s.ctx.executing f).map fun l => (l, P l) := by
    have : ∀ ls : List Nat, (∀ l ∈ ls, l ∈ s.ctx.executing f) → ls.filterMap (fun l =>
        (if (!s.ctx.operandsResident o f l) = true then some (trapHere 8 0 s.cur.pc) else check s.ctx l).map
          (fun p => (l, p))) = ls.map fun l => (l, P l) := by
      intro ls
      induction ls with
      | nil => intro _; rfl
      | cons a ls ih =>
        intro h
        rw [List.filterMap_cons, hp a (h a (by simp)), ih fun l hl => h l (by simp [hl])]
        rfl
    exact this _ fun _ h => h
  have hany : ∀ l, ((s.ctx.executing f).map fun l => (l, P l)).any (fun b => b.1 == l) = (s.ctx.executing f).contains l := by
    intro l
    rw [List.any_map, Bool.eq_iff_iff, List.any_eq_true, List.contains_iff_mem]
    constructor
    · rintro ⟨a, ha, hb⟩; have : a = l := by simpa using hb
      exact this ▸ ha
    · intro h; exact ⟨l, h, by simp⟩
  let g := s.goAll s.ctx.k s.ctx.next (s.ctx.active.filter fun l => !(s.ctx.executing f).contains l)
  have hgt : ∀ l, g.thread s.ctx.k l = if l ∈ s.ctx.active ∧ l ∉ s.ctx.executing f then
      (s.thread s.ctx.k l).goTo s.ctx.next else s.thread s.ctx.k l := by
    intro l; simp [g, State.goAll_thread]
  have hgk : g.kept = s.kept := State.goAll_kept ..
  have hgn : (g.wave s.ctx.k).noThreads = (s.wave s.ctx.k).noThreads := State.goAll_noThreads ..
  have hgl : g.recOf s.ctx.k = s.ctx.lr := by
    have hl : (g.wave s.ctx.k).launch = (s.wave s.ctx.k).launch := by
      show Wave.launch (Wave.noThreads _) = Wave.launch (Wave.noThreads _); rw [hgn]
    have hm : g.launches = s.launches := by
      show State.launches (State.kept _) = State.launches (State.kept _); rw [hgk]
    unfold State.recOf State.launchOf State.launchAt
    rw [hl, hm]; rfl
  have hgf : (g.wave s.ctx.k).inFlight = s.ctx.w.inFlight := by
    funext l
    have : (g.wave s.ctx.k).fly = (s.wave s.ctx.k).fly := by
      show Wave.fly (Wave.noThreads _) = Wave.fly (Wave.noThreads _); rw [hgn]
    unfold Wave.inFlight; rw [this]; rfl
  have hex : ∀ l ∈ s.ctx.executing f, l ∈ s.ctx.active := fun l hl => (List.mem_filter.mp hl).1
  obtain ⟨r1, r2, r3, r4⟩ := State.raiseAll_spec s.ctx P (fun _ => ⟨rfl, rfl⟩) (fun l => by
      rcases (hc l).2 with h | h
      · left; intro he
        have := congrArg BitVec.toNat he
        rw [show (P l).cause = BitVec.ofNat 8 (cause l) from rfl, BitVec.toNat_ofNat,
          Nat.mod_eq_of_lt (hc l).1] at this
        exact h this
      · right; exact h) (s.ctx.executing f) g
    ((lanesOf_nodup _).filter _) (fun l hl => by
      rw [hgt, if_neg (fun h => h.2 hl), hgf]
      exact ⟨(hI.lane l (hex l hl)).1, (hE l hl).1, (hI.lane l (hex l hl)).2.1, (hE l hl).2⟩) (by rw [hgl]; exact hh)
  rw [hgl] at r4
  let t := ((s.ctx.executing f).map fun l => (l, P l)).foldl (fun s (e : Nat × PTrap) => s.raiseFor s.ctx e.1 e.2) g
  have hq : ∃ ex tr, s.issue o f check body jumps cycles = (((s.ctx.executing f).map fun l => (l, P l)).foldl
      (fun t (e : Nat × PTrap) => t.raiseFor s.ctx e.1 e.2) g).finishIssue f ex tr
      (if o == .brx then none else some s.ctx.next) cycles := by
    simp only [State.issue, hw, Bool.false_eq_true, if_false, hgood, hbad, hany, List.contains_nil, Bool.and_false,
      Bool.or_false, hb]
    rw [foldl_goTo_some s.ctx.k s.ctx.next s.ctx.w]
    · simp only [List.filter_nil, List.foldl_nil]
      refine ⟨_, _, congrArg (fun u : State => u.finishIssue f _ _ _ cycles) (?_ : _ = List.foldl _ g _)⟩
      by_cases hp : s.ctx.lr.prot = true
      · rw [if_pos hp, foldl_skip]
        intro l hl
        obtain ⟨ha, he⟩ := List.mem_filter.mp hl
        have he : l % 2 = 0 := by simpa using he
        obtain ⟨hb', hm⟩ := hI.pair hp l ha he
        have hx := ht hp l ha he
        have h1 := hI.lane l ha
        have h2 := hI.lane (l + 1) hb'
        have t1 : s.thread s.ctx.k l = s.ctx.w.thread l := rfl
        have t2 : s.thread s.ctx.k (l + 1) = s.ctx.w.thread (l + 1) := rfl
        by_cases hin : l ∈ s.ctx.executing f
        · have hin' := hx.mp hin
          have q1 := r4 l
          have q2 := r4 (l + 1)
          rw [if_pos hin, hgt, if_neg (fun h => h.2 hin)] at q1
          rw [if_pos hin', hgt, if_neg (fun h => h.2 hin')] at q2
          generalize List.foldl _ g _ = b at q1 q2 ⊢
          simp [State.comparePair, q1, q2, Thread.trapped, t1, t2, h1, h2]
        · have hin' : l + 1 ∉ s.ctx.executing f := fun h => hin (hx.mpr h)
          have q1 := r4 l
          have q2 := r4 (l + 1)
          rw [if_neg hin, hgt, if_pos ⟨ha, hin⟩] at q1
          rw [if_neg hin', hgt, if_pos ⟨hb', hin'⟩] at q2
          generalize List.foldl _ g _ = b at q1 q2 ⊢
          simp [State.comparePair, q1, q2, t1, t2, h1, h2, hm]
      · rw [if_neg hp]
    · intro l hl hn
      obtain ⟨h1, h2, h3⟩ := hI.lane l hl
      exact ⟨h1, h2, h3, rfl⟩
  obtain ⟨ex, tr, hq⟩ := hq
  rw [hq] at he
  generalize hb' : ((s.ctx.executing f).map fun l => (l, P l)).foldl
      (fun t (e : Nat × PTrap) => t.raiseFor s.ctx e.1 e.2) g = b at *
  obtain ⟨f1, f2, f3, f4⟩ := b.finishIssue_spec f ex tr (if o == .brx then none else some s.ctx.next) cycles
  have hcur : b.cur = s.cur := by show State.cur (State.kept _) = State.cur (State.kept _); rw [r1, hgk]
  have hk : waveKey b.cur.core b.cur.slot = s.ctx.k := by rw [hcur]; rfl
  rw [hk] at f2
  have f4 := f4 s.ctx.k
  have hcause : ∀ l, (BitVec.ofNat 8 (BitVec.ofNat 8 (cause l)).toNat : Byte) = BitVec.ofNat 8 (cause l) := by
    intro l; exact BitVec.ofNat_toNat ..  |>.trans (BitVec.setWidth_eq _)
  refine ⟨_, he, (f1.trans r1).trans hgk, fun k hk => (f2 k hk).trans ((r2 k hk).trans (State.goAll_wave_ne _ _ _ _ hk _)),
    ((f3 _).trans r3).trans hgn, fun l hl => ?_, fun l hl hn => ?_, fun l hl => ?_⟩
  · have f4 := f4 l
    have hn : ¬ (l ∈ s.ctx.active ∧ l ∉ s.ctx.executing f) := fun h => h.2 hl
    rw [r4, if_pos hl, hgt, if_neg hn] at f4
    have hu : ({ (s.thread s.ctx.k l).trapped s.ctx.lr (P l).cause.toNat (P l).tval (P l).tpc (P l).res with
        since := g.cycle } : Thread).booked = ((s.thread s.ctx.k l).trapped s.ctx.lr (cause l) (tval l) s.cur.pc res).booked := by
      show Thread.booked _ = Thread.booked _
      simp only [Thread.trapped, Thread.booked, P, hcause]
    have f4 := f4.trans hu
    exact ⟨Thread.kept_of_booked f4, show Thread.pc (Thread.booked _) = _ by rw [f4]; rfl,
      show Thread.checked (Thread.booked _) = _ by rw [f4]; rfl, show Thread.parked (Thread.booked _) = _ by rw [f4]; rfl⟩
  · have f4 := f4 l
    have hm : l ∈ s.ctx.active ∧ l ∉ s.ctx.executing f := ⟨hl, hn⟩
    rw [r4, if_neg hn, hgt, if_pos hm] at f4
    exact ⟨(Thread.kept_of_booked f4).trans rfl, Thread.wentTo_of_booked f4 rfl rfl⟩
  · have f4 := f4 l
    have hn : l ∉ s.ctx.executing f := fun h => hl (hex l h)
    have hm : ¬ (l ∈ s.ctx.active ∧ l ∉ s.ctx.executing f) := fun h => hl h.1
    rw [r4, if_neg hn, hgt, if_neg hm] at f4
    exact ⟨Thread.kept_of_booked f4, show Thread.pc (Thread.booked _) = Thread.pc (Thread.booked _) by rw [f4]⟩

end Sys2Proof.Machine
end

