-- ==== Sys2Proof/Laws/PerInstr.lean ====
section
/-!
SUPPORT. Statements about every constructor of Instr. `Layout`: the name and the fields that `fields?` answers make the
instruction again, so an Ecmer word carries the whole instruction.
-/

namespace Sys2Proof.Laws

/-- The instruction is the one that its name and its fields make. -/
def Layout.Statement (i : Instr) : Prop := ∀ o g, i.fields? = some (o, g) → o.instr g = i

theorem Layout.nop (f : Fields) : Layout.Statement (.nop f) := by
  rintro o g h; cases h; rfl
theorem Layout.bra (f : Fields) : Layout.Statement (.bra f) := by
  rintro o g h; cases h; rfl
theorem Layout.brx (f : Fields) : Layout.Statement (.brx f) := by
  rintro o g h; cases h; rfl
theorem Layout.call (f : Fields) : Layout.Statement (.call f) := by
  rintro o g h; cases h; rfl
theorem Layout.callx (f : Fields) : Layout.Statement (.callx f) := by
  rintro o g h; cases h; rfl
theorem Layout.ret (f : Fields) : Layout.Statement (.ret f) := by
  rintro o g h; cases h; rfl
theorem Layout.meet (f : Fields) : Layout.Statement (.meet f) := by
  rintro o g h; cases h; rfl
theorem Layout.meetr (f : Fields) : Layout.Statement (.meetr f) := by
  rintro o g h; cases h; rfl
theorem Layout.exit (f : Fields) : Layout.Statement (.exit f) := by
  rintro o g h; cases h; rfl
theorem Layout.yield (f : Fields) : Layout.Statement (.yield f) := by
  rintro o g h; cases h; rfl
theorem Layout.brk (f : Fields) : Layout.Statement (.brk f) := by
  rintro o g h; cases h; rfl
theorem Layout.trap (f : Fields) : Layout.Statement (.trap f) := by
  rintro o g h; cases h; rfl
theorem Layout.sysc (f : Fields) : Layout.Statement (.sysc f) := by
  rintro o g h; cases h; rfl
theorem Layout.tret (f : Fields) : Layout.Statement (.tret f) := by
  rintro o g h; cases h; rfl
theorem Layout.role (f : Fields) : Layout.Statement (.role f) := by
  rintro o g h; cases h; rfl
theorem Layout.preoff (f : Fields) : Layout.Statement (.preoff f) := by
  rintro o g h; cases h; rfl
theorem Layout.preon (f : Fields) : Layout.Statement (.preon f) := by
  rintro o g h; cases h; rfl
theorem Layout.iadd (f : Fields) : Layout.Statement (.iadd f) := by
  rintro o g h; cases h; rfl
theorem Layout.isub (f : Fields) : Layout.Statement (.isub f) := by
  rintro o g h; cases h; rfl
theorem Layout.iadd64 (f : Fields) : Layout.Statement (.iadd64 f) := by
  rintro o g h; cases h; rfl
theorem Layout.isub64 (f : Fields) : Layout.Statement (.isub64 f) := by
  rintro o g h; cases h; rfl
theorem Layout.imul (f : Fields) : Layout.Statement (.imul f) := by
  rintro o g h; cases h; rfl
theorem Layout.imulh (f : Fields) : Layout.Statement (.imulh f) := by
  rintro o g h; cases h; rfl
theorem Layout.imad (f : Fields) : Layout.Statement (.imad f) := by
  rintro o g h; cases h; rfl
theorem Layout.imadw (f : Fields) : Layout.Statement (.imadw f) := by
  rintro o g h; cases h; rfl
theorem Layout.idiv (f : Fields) : Layout.Statement (.idiv f) := by
  rintro o g h; cases h; rfl
theorem Layout.irem (f : Fields) : Layout.Statement (.irem f) := by
  rintro o g h; cases h; rfl
theorem Layout.imin (f : Fields) : Layout.Statement (.imin f) := by
  rintro o g h; cases h; rfl
theorem Layout.imax (f : Fields) : Layout.Statement (.imax f) := by
  rintro o g h; cases h; rfl
theorem Layout.iabs (f : Fields) : Layout.Statement (.iabs f) := by
  rintro o g h; cases h; rfl
theorem Layout.ineg (f : Fields) : Layout.Statement (.ineg f) := by
  rintro o g h; cases h; rfl
theorem Layout.shl (f : Fields) : Layout.Statement (.shl f) := by
  rintro o g h; cases h; rfl
theorem Layout.shr (f : Fields) : Layout.Statement (.shr f) := by
  rintro o g h; cases h; rfl
theorem Layout.shf (f : Fields) : Layout.Statement (.shf f) := by
  rintro o g h; cases h; rfl
theorem Layout.rot (f : Fields) : Layout.Statement (.rot f) := by
  rintro o g h; cases h; rfl
theorem Layout.logic (f : Fields) : Layout.Statement (.logic f) := by
  rintro o g h; cases h; rfl
theorem Layout.popc (f : Fields) : Layout.Statement (.popc f) := by
  rintro o g h; cases h; rfl
theorem Layout.clz (f : Fields) : Layout.Statement (.clz f) := by
  rintro o g h; cases h; rfl
theorem Layout.brev (f : Fields) : Layout.Statement (.brev f) := by
  rintro o g h; cases h; rfl
theorem Layout.bfe (f : Fields) : Layout.Statement (.bfe f) := by
  rintro o g h; cases h; rfl
theorem Layout.bfi (f : Fields) : Layout.Statement (.bfi f) := by
  rintro o g h; cases h; rfl
theorem Layout.bshuf (f : Fields) : Layout.Statement (.bshuf f) := by
  rintro o g h; cases h; rfl
theorem Layout.icmp (f : Fields) : Layout.Statement (.icmp f) := by
  rintro o g h; cases h; rfl
theorem Layout.sel (f : Fields) : Layout.Statement (.sel f) := by
  rintro o g h; cases h; rfl
theorem Layout.lea (f : Fields) : Layout.Statement (.lea f) := by
  rintro o g h; cases h; rfl
theorem Layout.idp4 (f : Fields) : Layout.Statement (.idp4 f) := by
  rintro o g h; cases h; rfl
theorem Layout.mov (f : Fields) : Layout.Statement (.mov f) := by
  rintro o g h; cases h; rfl
theorem Layout.mov64 (f : Fields) : Layout.Statement (.mov64 f) := by
  rintro o g h; cases h; rfl
theorem Layout.sreg (f : Fields) : Layout.Statement (.sreg f) := by
  rintro o g h; cases h; rfl
theorem Layout.rdlane (f : Fields) : Layout.Statement (.rdlane f) := by
  rintro o g h; cases h; rfl
theorem Layout.pset (f : Fields) : Layout.Statement (.pset f) := by
  rintro o g h; cases h; rfl
theorem Layout.preg (f : Fields) : Layout.Statement (.preg f) := by
  rintro o g h; cases h; rfl
theorem Layout.regp (f : Fields) : Layout.Statement (.regp f) := by
  rintro o g h; cases h; rfl
theorem Layout.xget (f : Fields) : Layout.Statement (.xget f) := by
  rintro o g h; cases h; rfl
theorem Layout.xclr (f : Fields) : Layout.Statement (.xclr f) := by
  rintro o g h; cases h; rfl
theorem Layout.fadd (f : Fields) : Layout.Statement (.fadd f) := by
  rintro o g h; cases h; rfl
theorem Layout.fsub (f : Fields) : Layout.Statement (.fsub f) := by
  rintro o g h; cases h; rfl
theorem Layout.fmul (f : Fields) : Layout.Statement (.fmul f) := by
  rintro o g h; cases h; rfl
theorem Layout.ffma (f : Fields) : Layout.Statement (.ffma f) := by
  rintro o g h; cases h; rfl
theorem Layout.fmin (f : Fields) : Layout.Statement (.fmin f) := by
  rintro o g h; cases h; rfl
theorem Layout.fmax (f : Fields) : Layout.Statement (.fmax f) := by
  rintro o g h; cases h; rfl
theorem Layout.fcmp (f : Fields) : Layout.Statement (.fcmp f) := by
  rintro o g h; cases h; rfl
theorem Layout.frnd (f : Fields) : Layout.Statement (.frnd f) := by
  rintro o g h; cases h; rfl
theorem Layout.fclass (f : Fields) : Layout.Statement (.fclass f) := by
  rintro o g h; cases h; rfl
theorem Layout.fldx (f : Fields) : Layout.Statement (.fldx f) := by
  rintro o g h; cases h; rfl
theorem Layout.frcp (f : Fields) : Layout.Statement (.frcp f) := by
  rintro o g h; cases h; rfl
theorem Layout.frsq (f : Fields) : Layout.Statement (.frsq f) := by
  rintro o g h; cases h; rfl
theorem Layout.fsqrt (f : Fields) : Layout.Statement (.fsqrt f) := by
  rintro o g h; cases h; rfl
theorem Layout.fdiv (f : Fields) : Layout.Statement (.fdiv f) := by
  rintro o g h; cases h; rfl
theorem Layout.fexp2 (f : Fields) : Layout.Statement (.fexp2 f) := by
  rintro o g h; cases h; rfl
theorem Layout.flog2 (f : Fields) : Layout.Statement (.flog2 f) := by
  rintro o g h; cases h; rfl
theorem Layout.fsin (f : Fields) : Layout.Statement (.fsin f) := by
  rintro o g h; cases h; rfl
theorem Layout.fcos (f : Fields) : Layout.Statement (.fcos f) := by
  rintro o g h; cases h; rfl
theorem Layout.ftanh (f : Fields) : Layout.Statement (.ftanh f) := by
  rintro o g h; cases h; rfl
theorem Layout.cvt (f : Fields) : Layout.Statement (.cvt f) := by
  rintro o g h; cases h; rfl
theorem Layout.f2i (f : Fields) : Layout.Statement (.f2i f) := by
  rintro o g h; cases h; rfl
theorem Layout.i2f (f : Fields) : Layout.Statement (.i2f f) := by
  rintro o g h; cases h; rfl
theorem Layout.pack (f : Fields) : Layout.Statement (.pack f) := by
  rintro o g h; cases h; rfl
theorem Layout.unpk (f : Fields) : Layout.Statement (.unpk f) := by
  rintro o g h; cases h; rfl
theorem Layout.rand (f : Fields) : Layout.Statement (.rand f) := by
  rintro o g h; cases h; rfl
theorem Layout.rseed (f : Fields) : Layout.Statement (.rseed f) := by
  rintro o g h; cases h; rfl
theorem Layout.vote (f : Fields) : Layout.Statement (.vote f) := by
  rintro o g h; cases h; rfl
theorem Layout.shfl (f : Fields) : Layout.Statement (.shfl f) := by
  rintro o g h; cases h; rfl
theorem Layout.red (f : Fields) : Layout.Statement (.red f) := by
  rintro o g h; cases h; rfl
theorem Layout.scan (f : Fields) : Layout.Statement (.scan f) := by
  rintro o g h; cases h; rfl
theorem Layout.matchLanes (f : Fields) : Layout.Statement (.matchLanes f) := by
  rintro o g h; cases h; rfl
theorem Layout.tile (f : Fields) : Layout.Statement (.tile f) := by
  rintro o g h; cases h; rfl
theorem Layout.elect (f : Fields) : Layout.Statement (.elect f) := by
  rintro o g h; cases h; rfl
theorem Layout.ld (f : Fields) : Layout.Statement (.ld f) := by
  rintro o g h; cases h; rfl
theorem Layout.st (f : Fields) : Layout.Statement (.st f) := by
  rintro o g h; cases h; rfl
theorem Layout.lds (f : Fields) : Layout.Statement (.lds f) := by
  rintro o g h; cases h; rfl
theorem Layout.sts (f : Fields) : Layout.Statement (.sts f) := by
  rintro o g h; cases h; rfl
theorem Layout.lde (f : Fields) : Layout.Statement (.lde f) := by
  rintro o g h; cases h; rfl
theorem Layout.stf (f : Fields) : Layout.Statement (.stf f) := by
  rintro o g h; cases h; rfl
theorem Layout.atom (f : Fields) : Layout.Statement (.atom f) := by
  rintro o g h; cases h; rfl
theorem Layout.atoms (f : Fields) : Layout.Statement (.atoms f) := by
  rintro o g h; cases h; rfl
theorem Layout.fence (f : Fields) : Layout.Statement (.fence f) := by
  rintro o g h; cases h; rfl
theorem Layout.pref (f : Fields) : Layout.Statement (.pref f) := by
  rintro o g h; cases h; rfl
theorem Layout.cwb (f : Fields) : Layout.Statement (.cwb f) := by
  rintro o g h; cases h; rfl
theorem Layout.cinv (f : Fields) : Layout.Statement (.cinv f) := by
  rintro o g h; cases h; rfl
theorem Layout.ldk (f : Fields) : Layout.Statement (.ldk f) := by
  rintro o g h; cases h; rfl
theorem Layout.brec (f : Fields) : Layout.Statement (.brec f) := by
  rintro o g h; cases h; rfl
theorem Layout.bar (f : Fields) : Layout.Statement (.bar f) := by
  rintro o g h; cases h; rfl
theorem Layout.bara (f : Fields) : Layout.Statement (.bara f) := by
  rintro o g h; cases h; rfl
theorem Layout.barw (f : Fields) : Layout.Statement (.barw f) := by
  rintro o g h; cases h; rfl
theorem Layout.ginit (f : Fields) : Layout.Statement (.ginit f) := by
  rintro o g h; cases h; rfl
theorem Layout.gadd (f : Fields) : Layout.Statement (.gadd f) := by
  rintro o g h; cases h; rfl
theorem Layout.gwait (f : Fields) : Layout.Statement (.gwait f) := by
  rintro o g h; cases h; rfl
theorem Layout.seal (f : Fields) : Layout.Statement (.seal f) := by
  rintro o g h; cases h; rfl
theorem Layout.bwait (f : Fields) : Layout.Statement (.bwait f) := by
  rintro o g h; cases h; rfl
theorem Layout.push (f : Fields) : Layout.Statement (.push f) := by
  rintro o g h; cases h; rfl
theorem Layout.wait (f : Fields) : Layout.Statement (.wait f) := by
  rintro o g h; cases h; rfl
theorem Layout.wake (f : Fields) : Layout.Statement (.wake f) := by
  rintro o g h; cases h; rfl
theorem Layout.tsig (f : Fields) : Layout.Statement (.tsig f) := by
  rintro o g h; cases h; rfl
theorem Layout.dbl (f : Fields) : Layout.Statement (.dbl f) := by
  rintro o g h; cases h; rfl
theorem Layout.mma (f : Fields) : Layout.Statement (.mma f) := by
  rintro o g h; cases h; rfl
theorem Layout.mmq (f : Fields) : Layout.Statement (.mmq f) := by
  rintro o g h; cases h; rfl
theorem Layout.mms (f : Fields) : Layout.Statement (.mms f) := by
  rintro o g h; cases h; rfl
theorem Layout.plane (f : Fields) : Layout.Statement (.plane f) := by
  rintro o g h; cases h; rfl
theorem Layout.planx (f : Fields) : Layout.Statement (.planx f) := by
  rintro o g h; cases h; rfl
theorem Layout.cvr (f : Fields) : Layout.Statement (.cvr f) := by
  rintro o g h; cases h; rfl
theorem Layout.mfsr (f : Fields) : Layout.Statement (.mfsr f) := by
  rintro o g h; cases h; rfl
theorem Layout.mtsr (f : Fields) : Layout.Statement (.mtsr f) := by
  rintro o g h; cases h; rfl
theorem Layout.wspill (f : Fields) : Layout.Statement (.wspill f) := by
  rintro o g h; cases h; rfl
theorem Layout.wfill (f : Fields) : Layout.Statement (.wfill f) := by
  rintro o g h; cases h; rfl
theorem Layout.icinv (f : Fields) : Layout.Statement (.icinv f) := by
  rintro o g h; cases h; rfl
theorem Layout.marg (f : Fields) : Layout.Statement (.marg f) := by
  rintro o g h; cases h; rfl
theorem Layout.ckpt (f : Fields) : Layout.Statement (.ckpt f) := by
  rintro o g h; cases h; rfl
theorem Layout.instructionFetch (core : Fin 256) (slot : Fin 64) (lane : Fin 32) (glitch : Bool) : Layout.Statement (.instructionFetch core slot lane glitch) := by
  rintro o g h; cases h
theorem Layout.trapEntry (core : Fin 256) (slot : Fin 64) (lane : Fin 32) : Layout.Statement (.trapEntry core slot lane) := by
  rintro o g h; cases h
theorem Layout.regroup (core : Fin 256) (slot : Fin 64) : Layout.Statement (.regroup core slot) := by
  rintro o g h; cases h
theorem Layout.matrixComplete (core : Fin 256) (slot : Fin 64) : Layout.Statement (.matrixComplete core slot) := by
  rintro o g h; cases h
theorem Layout.operandLogReplay (core : Fin 256) (slot : Fin 64) (entry : Fin 4) : Layout.Statement (.operandLogReplay core slot entry) := by
  rintro o g h; cases h
theorem Layout.rollback (crew : Nat) : Layout.Statement (.rollback crew) := by
  rintro o g h; cases h
theorem Layout.fWaitSatisfied (core : Fin 256) (slot : Fin 64) (lane : Fin 32) : Layout.Statement (.fWaitSatisfied core slot lane) := by
  rintro o g h; cases h
theorem Layout.waiterReread (core : Fin 256) (slot : Fin 64) (lane : Fin 32) : Layout.Statement (.waiterReread core slot lane) := by
  rintro o g h; cases h
theorem Layout.wakeSpillReread (core : Fin 256) (slot : Fin 64) (lane : Fin 32) : Layout.Statement (.wakeSpillReread core slot lane) := by
  rintro o g h; cases h
theorem Layout.stalledPushAccept (core : Fin 256) (slot : Fin 64) (lane : Fin 32) : Layout.Statement (.stalledPushAccept core slot lane) := by
  rintro o g h; cases h
theorem Layout.timingDetection (core : Fin 256) (serial : Nat) : Layout.Statement (.timingDetection core serial) := by
  rintro o g h; cases h
theorem Layout.marginWindowEnd (core : Fin 256) : Layout.Statement (.marginWindowEnd core) := by
  rintro o g h; cases h
theorem Layout.drainComplete (core : Fin 256) : Layout.Statement (.drainComplete core) := by
  rintro o g h; cases h
theorem Layout.crewMigration (crew : Nat) : Layout.Statement (.crewMigration crew) := by
  rintro o g h; cases h
theorem Layout.iftDue (core : Fin 256) : Layout.Statement (.iftDue core) := by
  rintro o g h; cases h
theorem Layout.iftComplete (core : Fin 256) (pass : Bool) : Layout.Statement (.iftComplete core pass) := by
  rintro o g h; cases h
theorem Layout.patrolScrub (stack : Fin 8) (sector : BitVec 47) (found : SectorDecode) (way : Option L2Way) : Layout.Statement (.patrolScrub stack sector found way) := by
  rintro o g h; cases h
theorem Layout.monitorSample (m : MonitorReadings) : Layout.Statement (.monitorSample m) := by
  rintro o g h; cases h
theorem Layout.powerDutyStep (raise : Bool) : Layout.Statement (.powerDutyStep raise) := by
  rintro o g h; cases h
theorem Layout.thermalDutyStep (cluster : Fin 64) (raise : Bool) : Layout.Statement (.thermalDutyStep cluster raise) := by
  rintro o g h; cases h
theorem Layout.safeTalkativeEntry (code : Byte) : Layout.Statement (.safeTalkativeEntry code) := by
  rintro o g h; cases h
theorem Layout.packageReset (bootPins : BitVec 4) : Layout.Statement (.packageReset bootPins) := by
  rintro o g h; cases h
theorem Layout.hubSelfTest (pass : Bool) : Layout.Statement (.hubSelfTest pass) := by
  rintro o g h; cases h
theorem Layout.bootPortTrain (trained : Bool) (hdm : Option (BitVec 52 × BitVec 52)) : Layout.Statement (.bootPortTrain trained hdm) := by
  rintro o g h; cases h
theorem Layout.computeDieSelfTest (pass : BitVec 64) (links : Bool) : Layout.Statement (.computeDieSelfTest pass links) := by
  rintro o g h; cases h
theorem Layout.hbmTraining (pass : BitVec 8) : Layout.Statement (.hbmTraining pass) := by
  rintro o g h; cases h
theorem Layout.bootBlockVerify (block : BitVec 12) : Layout.Statement (.bootBlockVerify block) := by
  rintro o g h; cases h
theorem Layout.xipOff (machineMode : Bool) (data : BitVec 32) : Layout.Statement (.xipOff machineMode data) := by
  rintro o g h; cases h
theorem Layout.mctpEndpointIdAssign (eid : Byte) : Layout.Statement (.mctpEndpointIdAssign eid) := by
  rintro o g h; cases h
theorem Layout.pldmSensorRead (sensor : Nat) : Layout.Statement (.pldmSensorRead sensor) := by
  rintro o g h; cases h
theorem Layout.challenge (nonce : BitVec 256) : Layout.Statement (.challenge nonce) := by
  rintro o g h; cases h
theorem Layout.getMeasurements (index : Byte) : Layout.Statement (.getMeasurements index) := by
  rintro o g h; cases h
theorem Layout.pwrCtlWrite (machineMode : Bool) (data : BitVec 32) : Layout.Statement (.pwrCtlWrite machineMode data) := by
  rintro o g h; cases h
theorem Layout.serviceCoreTakeOut (core : Fin 256) : Layout.Statement (.serviceCoreTakeOut core) := by
  rintro o g h; cases h
theorem Layout.serviceCoreReturn (core : Fin 256) : Layout.Statement (.serviceCoreReturn core) := by
  rintro o g h; cases h
theorem Layout.serviceClusterTakeOut (cluster : Fin 64) : Layout.Statement (.serviceClusterTakeOut cluster) := by
  rintro o g h; cases h
theorem Layout.serviceClusterReturn (cluster : Fin 64) : Layout.Statement (.serviceClusterReturn cluster) := by
  rintro o g h; cases h
theorem Layout.clusterReturnTestDone (cluster : Fin 64) (pass : Bool) : Layout.Statement (.clusterReturnTestDone cluster pass) := by
  rintro o g h; cases h
theorem Layout.serviceL2SliceTakeOut (slice : Fin 64) : Layout.Statement (.serviceL2SliceTakeOut slice) := by
  rintro o g h; cases h
theorem Layout.serviceL2SliceReturn (slice : Fin 64) : Layout.Statement (.serviceL2SliceReturn slice) := by
  rintro o g h; cases h
theorem Layout.serviceLoamHartTakeOut (hart : Fin 16) : Layout.Statement (.serviceLoamHartTakeOut hart) := by
  rintro o g h; cases h
theorem Layout.serviceLoamHartReturn (hart : Fin 16) : Layout.Statement (.serviceLoamHartReturn hart) := by
  rintro o g h; cases h
theorem Layout.marginCtlWrite (machineMode : Bool) (core : Fin 256) (data : DWord) : Layout.Statement (.marginCtlWrite machineMode core data) := by
  rintro o g h; cases h
theorem Layout.l2ProfileWrite (machineMode : Bool) (slice : Fin 64) (data : DWord) : Layout.Statement (.l2ProfileWrite machineMode slice data) := by
  rintro o g h; cases h
theorem Layout.l2WmaskWrite (machineMode : Bool) (slice : Fin 64) (data : DWord) : Layout.Statement (.l2WmaskWrite machineMode slice data) := by
  rintro o g h; cases h
theorem Layout.portCfgApply (machineMode : Bool) (group : Fin 16) (data : BitVec 32) : Layout.Statement (.portCfgApply machineMode group data) := by
  rintro o g h; cases h
theorem Layout.linkDown (port : Fin 64) : Layout.Statement (.linkDown port) := by
  rintro o g h; cases h
theorem Layout.pcieCompletion (tag : Nat) (result : Completion) : Layout.Statement (.pcieCompletion tag result) := by
  rintro o g h; cases h
theorem Layout.completionTimeout (tag : Nat) : Layout.Statement (.completionTimeout tag) := by
  rintro o g h; cases h
theorem Layout.inboundMemoryRequest (r : InboundRequest) : Layout.Statement (.inboundMemoryRequest r) := by
  rintro o g h; cases h
theorem Layout.capture (r : InboundRequest) : Layout.Statement (.capture r) := by
  rintro o g h; cases h
theorem Layout.atomicOpRequest (r : InboundAtomic) : Layout.Statement (.atomicOpRequest r) := by
  rintro o g h; cases h
theorem Layout.atsTranslationRequest (r : AtsRequest) : Layout.Statement (.atsTranslationRequest r) := by
  rintro o g h; cases h
theorem Layout.pageRequest (r : PriRequest) : Layout.Statement (.pageRequest r) := by
  rintro o g h; cases h
theorem Layout.invalidationAcknowledge (rid : BitVec 16) : Layout.Statement (.invalidationAcknowledge rid) := by
  rintro o g h; cases h
theorem Layout.assertIntx (port : Fin 64) : Layout.Statement (.assertIntx port) := by
  rintro o g h; cases h
theorem Layout.ioRequest (port : Fin 64) : Layout.Statement (.ioRequest port) := by
  rintro o g h; cases h
theorem Layout.ptmRequest (port : Fin 64) : Layout.Statement (.ptmRequest port) := by
  rintro o g h; cases h
theorem Layout.imsicSeteipnum (file : ImsicFile) (identity : BitVec 32) : Layout.Statement (.imsicSeteipnum file identity) := by
  rintro o g h; cases h
theorem Layout.configRead (offset : BitVec 27) (size : Fin 4) : Layout.Statement (.configRead offset size) := by
  rintro o g h; cases h
theorem Layout.configWrite (offset : BitVec 27) (size : Fin 4) (data : BitVec 32) : Layout.Statement (.configWrite offset size data) := by
  rintro o g h; cases h
theorem Layout.doorbellSend (port : Fin 64) : Layout.Statement (.doorbellSend port) := by
  rintro o g h; cases h
theorem Layout.ntbInboundAccess (r : NtbRequest) : Layout.Statement (.ntbInboundAccess r) := by
  rintro o g h; cases h
theorem Layout.ubnorFlit (port : Fin 24) (crcOk : Bool) : Layout.Statement (.ubnorFlit port crcOk) := by
  rintro o g h; cases h
theorem Layout.ubnorPortDegrade (port : Fin 24) : Layout.Statement (.ubnorPortDegrade port) := by
  rintro o g h; cases h
theorem Layout.inboundDomainAccess (r : DomainRequest) : Layout.Statement (.inboundDomainAccess r) := by
  rintro o g h; cases h
theorem Layout.domainAcknowledge (peer : Byte) : Layout.Statement (.domainAcknowledge peer) := by
  rintro o g h; cases h
theorem Layout.peerTimeout (tag : Nat) : Layout.Statement (.peerTimeout tag) := by
  rintro o g h; cases h
theorem Layout.xltPdirWrite (data : DWord) : Layout.Statement (.xltPdirWrite data) := by
  rintro o g h; cases h
theorem Layout.insert (hart : Fin 16) (cmd : DWord) : Layout.Statement (.insert hart cmd) := by
  rintro o g h; cases h
theorem Layout.remove (hart : Fin 16) (cmd : DWord) : Layout.Statement (.remove hart cmd) := by
  rintro o g h; cases h
theorem Layout.modify (hart : Fin 16) (cmd : DWord) : Layout.Statement (.modify hart cmd) := by
  rintro o g h; cases h
theorem Layout.resize (hart : Fin 16) (cmd : DWord) : Layout.Statement (.resize hart cmd) := by
  rintro o g h; cases h
theorem Layout.flush (hart : Fin 16) (cmd : DWord) : Layout.Statement (.flush hart cmd) := by
  rintro o g h; cases h
theorem Layout.tblAck (data : DWord) : Layout.Statement (.tblAck data) := by
  rintro o g h; cases h
theorem Layout.prqResp (data : DWord) : Layout.Statement (.prqResp data) := by
  rintro o g h; cases h
theorem Layout.wakePort (data : DWord) : Layout.Statement (.wakePort data) := by
  rintro o g h; cases h
theorem Layout.submit (hart : Fin 16) (data : DWord) : Layout.Statement (.submit hart data) := by
  rintro o g h; cases h
theorem Layout.machineTimer (hart : Fin 16) : Layout.Statement (.machineTimer hart) := by
  rintro o g h; cases h
theorem Layout.slew (machineMode : Bool) (data : DWord) : Layout.Statement (.slew machineMode data) := by
  rintro o g h; cases h
theorem Layout.gtimeSet (machineMode : Bool) (data : DWord) : Layout.Statement (.gtimeSet machineMode data) := by
  rintro o g h; cases h
theorem Layout.ppsEdge (seconds : BitVec 48) (valid : Bool) : Layout.Statement (.ppsEdge seconds valid) := by
  rintro o g h; cases h
theorem Layout.partitionEnable (machineMode : Bool) (part : Fin 16) (data : DWord) : Layout.Statement (.partitionEnable machineMode part data) := by
  rintro o g h; cases h
theorem Layout.partitionDisable (machineMode : Bool) (part : Fin 16) (data : DWord) : Layout.Statement (.partitionDisable machineMode part data) := by
  rintro o g h; cases h
theorem Layout.afterEventSatisfied (launch : Nat) : Layout.Statement (.afterEventSatisfied launch) := by
  rintro o g h; cases h
theorem Layout.crewPlace (launch : Nat) : Layout.Statement (.crewPlace launch) := by
  rintro o g h; cases h
theorem Layout.crewPreempt (crew : Nat) : Layout.Statement (.crewPreempt crew) := by
  rintro o g h; cases h
theorem Layout.preemptWindowLimit (core : Fin 256) (slot : Fin 64) : Layout.Statement (.preemptWindowLimit core slot) := by
  rintro o g h; cases h
theorem Layout.launchDone (launch : Nat) : Layout.Statement (.launchDone launch) := by
  rintro o g h; cases h
theorem Layout.launchFault (launch : Nat) (sub : Byte) (addr : DWord) (who : DWord) : Layout.Statement (.launchFault launch sub addr who) := by
  rintro o g h; cases h
theorem Layout.swapDecision (part : Fin 16) : Layout.Statement (.swapDecision part) := by
  rintro o g h; cases h
theorem Layout.partitionSwap (fromPart : Fin 16) (toPart : Fin 16) : Layout.Statement (.partitionSwap fromPart toPart) := by
  rintro o g h; cases h
theorem Layout.partitionSwapDone (fromPart : Fin 16) (toPart : Fin 16) : Layout.Statement (.partitionSwapDone fromPart toPart) := by
  rintro o g h; cases h
theorem Layout.thymeSlotDue (entry : Fin 64) : Layout.Statement (.thymeSlotDue entry) := by
  rintro o g h; cases h
theorem Layout.thymeWithdraw (entry : Fin 64) : Layout.Statement (.thymeWithdraw entry) := by
  rintro o g h; cases h
theorem Layout.thymeHeldExpire (entry : Fin 64) : Layout.Statement (.thymeHeldExpire entry) := by
  rintro o g h; cases h
theorem Layout.tqEnable (machineMode : Bool) (queue : Fin 64) (data : DWord) : Layout.Statement (.tqEnable machineMode queue data) := by
  rintro o g h; cases h
theorem Layout.tqDisable (machineMode : Bool) (queue : Fin 64) (data : DWord) : Layout.Statement (.tqDisable machineMode queue data) := by
  rintro o g h; cases h
theorem Layout.taskPost (queue : Fin 64) : Layout.Statement (.taskPost queue) := by
  rintro o g h; cases h
theorem Layout.taskDequeue (queue : Fin 64) : Layout.Statement (.taskDequeue queue) := by
  rintro o g h; cases h
theorem Layout.gatherTimeout (queue : Fin 64) : Layout.Statement (.gatherTimeout queue) := by
  rintro o g h; cases h
theorem Layout.taskWavePlace (queue : Fin 64) : Layout.Statement (.taskWavePlace queue) := by
  rintro o g h; cases h
theorem Layout.taskWaveStart (crew : Nat) : Layout.Statement (.taskWaveStart crew) := by
  rintro o g h; cases h
theorem Layout.taskRetire (core : Fin 256) (slot : Fin 64) (lane : Fin 32) : Layout.Statement (.taskRetire core slot lane) := by
  rintro o g h; cases h
theorem Layout.pageWritebackDone (crew : Nat) (page : Fin 256) : Layout.Statement (.pageWritebackDone crew page) := by
  rintro o g h; cases h
theorem Layout.pageRefill (crew : Nat) (page : Fin 256) : Layout.Statement (.pageRefill crew page) := by
  rintro o g h; cases h
theorem Layout.copy (engine : Fin 256) (outside : Option CopyAnswer) : Layout.Statement (.copy engine outside) := by
  rintro o g h; cases h
theorem Layout.copyCompletion (engine : Fin 256) : Layout.Statement (.copyCompletion engine) := by
  rintro o g h; cases h
theorem Layout.registerWrite (w : HubWrite) : Layout.Statement (.registerWrite w) := by
  rintro o g h; cases h
theorem Layout.illegalInstruction (word : BitVec 96) : Layout.Statement (.illegalInstruction word) := by
  rintro o g h; cases h
theorem Layout.waitDeadline (core : Fin 256) (slot : Fin 64) (lane : Fin 32) : Layout.Statement (.waitDeadline core slot lane) := by
  rintro o g h; cases h
theorem Layout.variableLatencyResult (core : Fin 256) (slot : Fin 64) : Layout.Statement (.variableLatencyResult core slot) := by
  rintro o g h; cases h
theorem Layout.loamAccess (a : LoamRequest) : Layout.Statement (.loamAccess a) := by
  rintro o g h; cases h
theorem Layout.linkUp (port : Fin 64) : Layout.Statement (.linkUp port) := by
  rintro o g h; cases h
theorem Layout.aerErrorMessage (port : Fin 64) (m : PortMessage) : Layout.Statement (.aerErrorMessage port m) := by
  rintro o g h; cases h
theorem Layout.marginSupplySettled (core : Fin 256) : Layout.Statement (.marginSupplySettled core) := by
  rintro o g h; cases h
theorem Layout.sliceFlushComplete (slice : Fin 64) : Layout.Statement (.sliceFlushComplete slice) := by
  rintro o g h; cases h
theorem Layout.wakeTableReread : Layout.Statement (.wakeTableReread) := by
  rintro o g h; cases h
theorem Layout.supplyOutOfRange : Layout.Statement (.supplyOutOfRange) := by
  rintro o g h; cases h
theorem Layout.headerChecks : Layout.Statement (.headerChecks) := by
  rintro o g h; cases h
theorem Layout.firmwareEntry : Layout.Statement (.firmwareEntry) := by
  rintro o g h; cases h
theorem Layout.pldmResetEffecter : Layout.Statement (.pldmResetEffecter) := by
  rintro o g h; cases h
theorem Layout.getVersion : Layout.Statement (.getVersion) := by
  rintro o g h; cases h
theorem Layout.getCapabilities : Layout.Statement (.getCapabilities) := by
  rintro o g h; cases h
theorem Layout.negotiateAlgorithms : Layout.Statement (.negotiateAlgorithms) := by
  rintro o g h; cases h
theorem Layout.getDigests : Layout.Statement (.getDigests) := by
  rintro o g h; cases h
theorem Layout.getCertificate : Layout.Statement (.getCertificate) := by
  rintro o g h; cases h
theorem Layout.atsInvalidationTimeout : Layout.Statement (.atsInvalidationTimeout) := by
  rintro o g h; cases h
theorem Layout.resizeMigrateStep : Layout.Statement (.resizeMigrateStep) := by
  rintro o g h; cases h
theorem Layout.resizeRetry : Layout.Statement (.resizeRetry) := by
  rintro o g h; cases h
theorem Layout.prqAppend : Layout.Statement (.prqAppend) := by
  rintro o g h; cases h
theorem Layout.failureRecordAppend : Layout.Statement (.failureRecordAppend) := by
  rintro o g h; cases h
theorem Layout.timeSourceLost : Layout.Statement (.timeSourceLost) := by
  rintro o g h; cases h
theorem Layout.launch : Layout.Statement (.launch) := by
  rintro o g h; cases h
theorem Layout.cancel : Layout.Statement (.cancel) := by
  rintro o g h; cases h
theorem Layout.thymeWrite : Layout.Statement (.thymeWrite) := by
  rintro o g h; cases h
theorem Layout.thymeClear : Layout.Statement (.thymeClear) := by
  rintro o g h; cases h
theorem Layout.releasedTaskEnqueue : Layout.Statement (.releasedTaskEnqueue) := by
  rintro o g h; cases h
theorem Layout.flip : Layout.Statement (.flip) := by
  rintro o g h; cases h
theorem Layout.poison : Layout.Statement (.poison) := by
  rintro o g h; cases h

end Sys2Proof.Laws
end

