-- ==== Sys2Proof/Tests/Slice0.lean ====
section
/-!
SUPPORT. Tests: well-formedness, decoding of words written out from the tables of 12_isa_encoding.md, one step of small
states with values that the manual writes, and, for each statement with hypotheses, a state that meets them.
-/

namespace Sys2Proof.Tests

set_option Elab.async false

open Sys2Proof Sys2Proof.Machine Sys2Proof.Says

/-! ### Well-formedness: one ill-formed term for each check of Op.wf -/

/-- IADD v4, v5, v6. -/
def addF : Fields := { bare with d := .v 4, a := .v 5, b := .reg (.v 6) }

/-- A context in trap mode. -/
def trapCtx : DecodeCtx := { plainCtx with trapMode := true }

theorem test_wf_good : (Instr.iadd addF).wf plainCtx = true := by decide
theorem test_wf_privileged : (Instr.icinv bare).wf plainCtx = true ∧ (Instr.mfsr { bare with d := .v 4 }).wf plainCtx = false ∧
    (Instr.mfsr { bare with d := .v 4 }).wf trapCtx = true := by decide
theorem test_wf_immediate_form : (Instr.popc { bare with d := .v 4, a := .v 5, b := .int20 1 }).wf plainCtx = false := by decide
theorem test_wf_immediate_required : (Instr.bra bare).wf plainCtx = false := by decide
theorem test_wf_hold : (Instr.iadd { addF with hold := 5 }).wf plainCtx = false := by decide
theorem test_wf_hint : (Instr.iadd { addF with ch := 1 }).wf plainCtx = false := by decide
theorem test_wf_hint_reserved :
    (Instr.ld { bare with d := .v 4, a := .s 4, c := .v 5, ch := 6, mod := 2 }).wf plainCtx = false := by decide
theorem test_wf_mod : (Instr.iadd { addF with mod := 0x200 }).wf plainCtx = false := by decide
theorem test_wf_whole_wave : (Instr.icinv { bare with g0 := ⟨0, false⟩ }).wf plainCtx = false := by decide
theorem test_wf_vote_mask : (Instr.vote { bare with mod := 0x1F }).wf plainCtx = false ∧
    (Instr.vote { bare with d := .v 4, mod := 0x1F }).wf plainCtx = true := by decide
theorem test_wf_sreg_clear : (Instr.sreg { bare with d := .v 4, a := .special .lane, mod := 1 }).wf plainCtx = false ∧
    (Instr.sreg { bare with d := .v 4, a := .special .wstat, mod := 1 }).wf plainCtx = true := by decide
theorem test_wf_literal : (Instr.iadd { addF with b := .word 0 0x40490FDB }).wf plainCtx = true ∧
    (Instr.iadd { addF with b := .word 0 1 }).wf plainCtx = false := by decide
theorem test_wf_window : (Instr.iadd { addF with d := .v 127 }).wf plainCtx = true ∧
    (Instr.iadd { addF with d := .v 128 }).wf plainCtx = false := by decide
theorem test_wf_destination : (Instr.iadd { addF with d := .c 0 }).wf plainCtx = false := by decide
theorem test_wf_pair : (Instr.mov64 { bare with d := .v 4, b := .reg (.v 6) }).wf plainCtx = true ∧
    (Instr.mov64 { bare with d := .v 5, b := .reg (.v 6) }).wf plainCtx = false := by decide
theorem test_wf_unused : (Instr.nop { bare with a := .v 1 }).wf plainCtx = false := by decide
theorem test_wf_record : (Instr.ld { bare with d := .v 4, a := .s 4, c := .v 5, mod := 2 }).wf plainCtx = true ∧
    (Instr.ld { bare with d := .v 4, a := .s 5, c := .v 5, mod := 2 }).wf plainCtx = false := by decide
theorem test_wf_scalar : (Instr.iadd { addF with d := .s 4 }).wf plainCtx = false ∧
    (Instr.iadd { addF with d := .s 4, a := .s 5, b := .reg (.c 6) }).wf plainCtx = true := by decide

/-! ### Decoding: words written out from the field table of R338 and the opcode tables R359 to R368 -/

/-- A slot word by the field table of R338: opcode, D, A, B, C, E, G0, G1, CH, S, HOLD, MOD, I at their lowest bits. -/
def fieldWord (opc d a b c e mod i : Nat) : BitVec 96 :=
  BitVec.ofNat 96 (opc + d * 2 ^ 12 + a * 2 ^ 23 + b * 2 ^ 34 + c * 2 ^ 45 + e * 2 ^ 56 + 7 * 2 ^ 67 + 7 * 2 ^ 71 +
    mod * 2 ^ 82 + i * 2 ^ 95)

/-- The backward branch of 13_isa_control_move.md. -/
theorem test_decode_bra : decode plainCtx (slotWords 0xFFFFF001 0xFF3FFFF7 0x800003BF) =
    .ok (.bra { bare with b := .int20 0xFFFFD }) := by decide +kernel
/-- The PACK of 15_isa_float.md, with slot 2 as there. -/
theorem test_decode_pack : decode { plainCtx with slots := [0, 0, 0x3E80000000220005] } (slotWords 0x0A004413 0xFFFFFFFC 0x000803BF) =
    .ok (.pack { bare with d := .v 4, a := .v 20, mod := 2 }) := by decide +kernel
/-- The load of 16_isa_memory_sync.md. -/
theorem test_decode_ld : decode plainCtx (slotWords 0x04004600 0x02000043 0x800803B8) =
    .ok (.ld { bare with d := .v 4, a := .s 8, b := .int20 16, c := .v 2, mod := 2 }) := by decide +kernel
/-- The WSPILL of 18_isa_system.md, in trap mode and outside it. -/
theorem test_decode_wspill : decode trapCtx (slotWords 0x1E7FFF02 0xFF000003 0x800003BF) =
    .ok (.wspill { bare with a := .s 60, b := .int20 0 }) ∧
    decode plainCtx (slotWords 0x1E7FFF02 0xFF000003 0x800003BF) = .error .privileged := by decide +kernel
/-- ISUB v1, v2, v3 with UNS and CO = 7: opcode 0x101, MOD 0x1E. -/
theorem test_decode_isub : decode plainCtx (fieldWord 0x101 1 2 3 2047 2047 0x1E 0) =
    .ok (.isub { bare with d := .v 1, a := .v 2, b := .reg (.v 3), mod := 0x1E }) := by decide +kernel
/-- SREG v4, %tid: opcode 0x202, A = 1730. -/
theorem test_decode_sreg : decode plainCtx (fieldWord 0x202 4 1730 2047 2047 2047 0 0) =
    .ok (.sreg { bare with d := .v 4, a := .special .tid }) := by decide +kernel
/-- FSQRT v4, v5 under RZ: opcode 0x402, MOD 1 in [5:3]. -/
theorem test_decode_fsqrt : decode plainCtx (fieldWord 0x402 4 5 2047 2047 2047 8 0) =
    .ok (.fsqrt { bare with d := .v 4, a := .v 5, mod := 8 }) := by decide +kernel
/-- SHFL.down v6, v2, 1: opcode 0x501, MOD 2, immediate kind 00. -/
theorem test_decode_shfl : decode plainCtx (fieldWord 0x501 6 2 1 0 2047 2 1) =
    .ok (.shfl { bare with d := .v 6, a := .v 2, b := .int20 1, mod := 2 }) := by decide +kernel
/-- GWAIT v5: opcode 0x705, A = 5. -/
theorem test_decode_gwait : decode plainCtx (fieldWord 0x705 2047 5 2047 2047 2047 0 0) =
    .ok (.gwait { bare with a := .v 5 }) := by decide +kernel
/-- MARG v4 of register 1: opcode 0xF05 of class 0xF is read by its code alone; an opcode that no table lists is not an
instruction. -/
theorem test_decode_illegal : decode plainCtx (fieldWord 0x011 2047 2047 2047 2047 2047 0 0) =
    .ok (.illegalInstruction (fieldWord 0x011 2047 2047 2047 2047 2047 0 0)) := by decide +kernel
/-- Codes 1751 to 2046 are reserved: an illegal operand in D (R341). -/
theorem test_decode_operand : decode plainCtx (fieldWord 0x101 1751 2 3 2047 2047 0 0) = .error (.illegalOperand 0 1751) := by
  decide +kernel

/-! ### One step of one instruction, with values that the manual writes -/

/-- Rows of registers with X = 0, in ascending order. -/
def rows (l : List (Nat × Nat)) : SMap Reg := l.map fun e => (e.1, ⟨BitVec.ofNat 32 e.2, false⟩)

/-- A wave of lanes 0, 1, …, each with the rows listed, in a launch with a window of 1536 registers. -/
def laneState (ls : List (List (Nat × Nat))) : State :=
  let s := State.reset.placed 0
  { s with
    cur := ⟨0, 0, BitVec.ofNat 32 (2 ^ ls.length - 1), 0⟩
    waves := [(0, { placedWave 0 0 with
      threads := (List.range ls.length).map fun n => (n, { Thread.start 0 0 with regs := rows (ls.getD n []) }) })] }

/-- The results that an instruction sends on their way. -/
def flying (i : Instr) (s : State) : List (Dst × Reg) :=
  match exec i s with
  | .next t => (t.wave 0).fly.map fun x => (x.dst, x.val)
  | _ => []

/-- The results that an instruction puts on the scoreboard. -/
def scored (i : Instr) (s : State) : List (Dst × Reg) :=
  match exec i s with
  | .next t => ((t.wave 0).pend.map (·.writes)).flatten
  | _ => []

/-- The example of a 64-bit sum (14_isa_integer.md): the low words and their carry. -/
theorem test_iadd_low : flying (.iadd { bare with d := .v 4, a := .v 5, b := .reg (.v 6), mod := 4 })
    (laneState [[(5, 0xFFFFFFF0), (6, 0x20)]]) = [(.v 0 4, ⟨0x10, false⟩), (.p 0 1, ⟨1, false⟩)] := by decide +kernel
/-- R402: division by zero, and the one quotient that cannot be represented. -/
theorem test_idiv_zero : scored (.idiv { bare with d := .v 4, a := .v 5, b := .reg (.v 6) })
    (laneState [[(5, 7), (6, 0)], [(5, 0x80000000), (6, 0)], [(5, 0x80000000), (6, 0xFFFFFFFF)]]) =
    [(.v 0 4, ⟨0x7FFFFFFF, true⟩), (.v 1 4, ⟨0x80000000, true⟩), (.v 2 4, ⟨0x7FFFFFFF, true⟩)] := by decide +kernel
/-- R402: IREM answers A where B is 0, with X, and 0 without X for the other corner. -/
theorem test_irem_zero : scored (.irem { bare with d := .v 4, a := .v 5, b := .reg (.v 6) })
    (laneState [[(5, 7), (6, 0)], [(5, 0x80000000), (6, 0xFFFFFFFF)]]) =
    [(.v 0 4, ⟨7, true⟩), (.v 1 4, ⟨0, false⟩)] := by decide +kernel
/-- The examples of R409. -/
theorem test_bshuf : flying (.bshuf { bare with d := .v 3, a := .v 4, b := .reg (.v 5), c := .v 6 })
    (laneState [[(4, 0x11223344), (5, 0xAABBCCDD), (6, 0x688)], [(4, 0x11223344), (5, 0), (6, 0x053)]]) =
    [(.v 0 3, ⟨0x11223344, false⟩), (.v 1 3, ⟨0x44332211, false⟩)] := by decide +kernel
theorem test_bshuf_sign : flying (.bshuf { bare with d := .v 3, a := .v 4, b := .reg (.v 5), c := .v 6, mod := 1 })
    (laneState [[(4, 0x80), (5, 0), (6, 0xE000)]]) = [(.v 0 3, ⟨0xFFFFFF80, false⟩)] := by decide +kernel
/-- The FFMA under explicit stochastic rounding of 15_isa_float.md. -/
theorem test_ffma_srx : flying (.ffma { bare with d := .v 8, a := .v 9, b := .reg (.v 10), c := .v 11, e := .v 12, mod := 0x830 })
    (laneState [[(9, 0x3F800000), (10, 0x3F800001), (11, 0xB3000000), (12, 0xC0)],
      [(9, 0x3F800000), (10, 0x3F800001), (11, 0xB3000000), (12, 0xBF)]]) =
    [(.v 0 8, ⟨0x3F800002, true⟩), (.v 1 8, ⟨0x3F800001, true⟩)] := by decide +kernel
/-- Overflow beside a NaN (11_numbers.md), under RN: sub-elements 0x7F, 0x7F, then 448 + 16 and 0. -/
theorem test_fadd_e4m3 : flying (.fadd { bare with d := .v 8, a := .v 9, b := .reg (.v 10), mod := 3 })
    (laneState [[(9, 0x407E7F7E), (10, 0xC058387E)]]) = [(.v 0 8, ⟨0x007E7F7F, true⟩)] := by decide +kernel
/-- A line whose five slots are targets and not literal. -/
def openLine : List Byte := List.replicate 60 0 ++ [0x1F, 0, 0, 0]

/-- The call of 13_isa_control_move.md: WB = 32, the link 0x0400_0000_0005_0003 in rows 32 and 33, and the target. -/
theorem test_call_link :
    (match exec (.call { bare with b := .int20 5, mod := 2 })
        (let s := laneState [[]]
         { s with
           cur := { s.cur with pc := 0x50002 }
           waves := SMap.put s.waves 0 { s.wave 0 with threads := [(0, { Thread.start 0 0 with pc := 0x50002 })] }
           launches := [(0, { s.launchAt 0 with record := { placedRecord with w := 48, stackr := 4 } })]
           cores := [(0, { CoreState.blank with lines := [(0, 0x400000, openLine), (0, 0x400040, openLine)] })] }) with
     | .next t =>
       let u := t.thread 0 0
       (u.pc, u.wb, SMap.get u.regs 32 .zero, SMap.get u.regs 33 .zero)
     | _ => (0, 0, .zero, .zero)) = (0x50007, 32, ⟨0x50003, false⟩, ⟨0x04000000, false⟩) := by decide +kernel
/-- The tile of eight with a hole, in its first tile (17_isa_lane_matrix.md). -/
theorem test_red_tile : (scored (.red { bare with d := .v 3, a := .v 2 })
    (let s := laneState [[(2, 1)], [(2, 2)], [(2, 3)], [(2, 9)], [(2, 4)], [(2, 5)], [(2, 6)], [(2, 7)]]
     { s with cur := { s.cur with lanes := 0xF7 } })).map (·.2) = List.replicate 7 ⟨28, false⟩ := by decide +kernel
theorem test_scan_tile : (scored (.scan { bare with d := .v 3, a := .v 2, mod := 0x80 })
    (let s := laneState [[(2, 1)], [(2, 2)], [(2, 3)], [(2, 9)], [(2, 4)], [(2, 5)], [(2, 6)], [(2, 7)]]
     { s with cur := { s.cur with lanes := 0xF7 } })).map (fun e => e.2.val.toNat) = [0, 1, 3, 6, 10, 15, 21] := by decide +kernel
/-- A shuffle reads a lane that does not execute (R475): lane 2 receives what lane 3 holds. -/
theorem test_shfl_hole : (scored (.shfl { bare with d := .v 6, a := .v 2, b := .int20 1, mod := 2 })
    (let s := laneState [[(2, 1)], [(2, 2)], [(2, 3)], [(2, 9)]]
     { s with cur := { s.cur with lanes := 7 } })).map (fun e => e.2.val.toNat) = [2, 3, 9] := by decide +kernel

/-! ### The hypotheses of the statements can be met: instructions on registers -/

/-- Fields that name a register group in every operand. -/
def named : Fields := { bare with d := .v 4, a := .v 8, b := .reg (.v 12), c := .v 16, e := .v 20 }

/-- One thread, with numbers in the registers that `named` names. -/
def one : State := laneState [[(8, 0x3F800000), (9, 2), (12, 0x40000000), (16, 7), (20, 8)]]

/-- The state of a protected launch, with both lanes of a pair. -/
def paired : State :=
  let s := laneState [[(8, 1)], [(8, 1)]]
  { s with launches := [(0, { s.launchAt 0 with record := { placedRecord with prot := true } })] }

theorem issuable_of {s : State} (h : s.cur.slot < 64 ∧ (∀ l ∈ s.ctx.active, (s.ctx.w.thread l).pc = s.cur.pc) ∧
    (∀ l ∈ s.ctx.active, (s.ctx.w.thread l).exited = false ∧ (s.ctx.w.thread l).block = none ∧ (s.ctx.w.thread l).ptrap = none) ∧
    (s.ctx.lr.prot = true → ∀ l ∈ s.ctx.active, l % 2 = 0 →
      l + 1 ∈ s.ctx.active ∧ (s.ctx.w.thread l).trapMode = (s.ctx.w.thread (l + 1)).trapMode) ∧
    ∀ e ∈ s.ctx.w.threads, e.2.bad = []) : Issuable s := by
  refine ⟨h.1, h.2.1, h.2.2.1, h.2.2.2.1, fun l => ?_⟩
  have g : ∀ m : SMap Thread, (∀ e ∈ m, e.2.bad = []) → (SMap.get m l .blank).bad = [] := by
    intro m
    induction m with
    | nil => intro _; rfl
    | cons e t ih =>
      intro hm
      rw [SMap.get]
      split
      · exact hm _ (List.mem_cons_self ..)
      · exact ih fun x hx => hm x (List.mem_cons_of_mem _ hx)
  exact g _ h.2.2.2.2

theorem issuable_one : Issuable one := (issuable_of (by decide +kernel))
theorem issuable_paired : Issuable paired := (issuable_of (by decide +kernel))

theorem residents_of {s : State} {o : Op} {f : Fields}
    (h : ((s.ctx.executing f).all fun l => s.ctx.operandsResident o f l) = true) : Residents s o f :=
  fun l hl => List.all_eq_true.mp h l hl

theorem residents_one : ∀ o ∈ Op.all, Residents one o named := by
  intro o ho
  have h : (Op.all.all fun o => (one.ctx.executing named).all fun l => one.ctx.operandsResident o named l) = true := by
    decide +kernel
  exact residents_of (List.all_eq_true.mp h o ho)
theorem residents_paired : ∀ o ∈ Op.all, Residents paired o named := by
  intro o ho
  have h : (Op.all.all fun o => (paired.ctx.executing named).all fun l => paired.ctx.operandsResident o named l) = true := by
    decide +kernel
  exact residents_of (List.all_eq_true.mp h o ho)

theorem witness_IntegerSums : Issuable one ∧ ∀ o ∈ [Op.iadd, .isub, .iadd64, .isub64], Residents one o named :=
  ⟨issuable_one, fun o ho => residents_one o (by revert o; decide)⟩
theorem witness_IntegerProducts : Issuable one ∧ ∀ o ∈ [Op.imul, .imulh, .imad, .imadw, .idp4], Residents one o named :=
  ⟨issuable_one, fun o ho => residents_one o (by revert o; decide)⟩
theorem witness_IntegerDivision : Issuable paired ∧ ∀ o ∈ [Op.idiv, .irem], Residents paired o named :=
  ⟨issuable_paired, fun o ho => residents_paired o (by revert o; decide)⟩
theorem witness_MinMaxAndShifts :
    Issuable one ∧ ∀ o ∈ [Op.shl, .shr, .shf, .rot, .imin, .imax, .iabs, .ineg], Residents one o named :=
  ⟨issuable_one, fun o ho => residents_one o (by revert o; decide)⟩
theorem witness_BitOperations :
    Issuable one ∧ ∀ o ∈ [Op.logic, .popc, .clz, .brev, .bfe, .bfi, .bshuf], Residents one o named :=
  ⟨issuable_one, fun o ho => residents_one o (by revert o; decide)⟩
theorem witness_ComparesAndMoves : Issuable paired ∧
    ∀ o ∈ [Op.icmp, .sel, .lea, .mov, .mov64, .rdlane, .pset, .preg, .regp, .xget, .xclr], Residents paired o named :=
  ⟨issuable_paired, fun o ho => residents_paired o (by revert o; decide)⟩
/-- 7/2 under each mode is 3 or 4, and 4/2 is exact. -/
theorem witness_RoundingModes : 0 < 2 ∧ (roundAt ⟨0, 0⟩ false 7 2 0).exact = false ∧ (roundAt ⟨0, 0⟩ false 4 2 0).exact = true := by
  decide +kernel
theorem witness_FloatArithmetic : Issuable one ∧ ∀ o ∈ [Op.fadd, .fsub, .fmul, .ffma], Residents one o named :=
  ⟨issuable_one, fun o ho => residents_one o (by revert o; decide)⟩
theorem witness_FloatOther : Issuable one ∧ ∀ o ∈ [Op.fmin, .fmax, .fcmp, .frnd, .fclass, .fldx], Residents one o named :=
  ⟨issuable_one, fun o ho => residents_one o (by revert o; decide)⟩
theorem witness_SpecialFunctions : Issuable one ∧ ∀ o ∈ [Op.frcp, .frsq, .fsqrt, .fdiv], Residents one o named :=
  ⟨issuable_one, fun o ho => residents_one o (by revert o; decide)⟩

/-- Registers of one thread that hold the special inputs of R326: NaN, the infinities, the zeros and −1. -/
def special (v : Nat) : State := laneState [[(8, v)]]

theorem witness_TranscendentalFunctions :
    (Issuable one ∧ ∀ o ∈ [Op.fexp2, .flog2, .fsin, .fcos, .ftanh], Residents one o named) ∧
    f32Of ((special 0x7FC00000).ctx.a32 0 named).val = .nan ∧ f32Of ((special 0x7F800000).ctx.a32 0 named).val = .inf false ∧
    f32Of ((special 0xFF800000).ctx.a32 0 named).val = .inf true ∧
    (f32Of ((special 0x80000000).ctx.a32 0 named).val).isZero = true ∧
    (match f32Of ((special 0xBF800000).ctx.a32 0 named).val with | .fin true n _ => n != 0 | _ => false) = true :=
  ⟨⟨issuable_one, fun o ho => residents_one o (by revert o; decide)⟩, by decide +kernel⟩
theorem witness_SquareRoot : 0 < 2 ∧ 0 < 1 ∧ 2 * 2 ^ 320 / 1 < 2 ^ 624 := by decide +kernel

/-- A thread in a launch whose format slot 0 converts to e4m3 under RN. -/
def slotted : State :=
  { one with launches := [(0, { one.launchAt 0 with record := { placedRecord with slots := [0x3E80000000220005] } })] }

theorem witness_Conversions : Issuable slotted ∧ (∀ o ∈ [Op.cvt, .f2i, .i2f, .pack, .unpk], Residents slotted o named) ∧
    (slotOfBits (slotted.ctx.lr.slots.getD (modField named 0 3) 0)).convertible = true ∧
    (slotOfBits (slotted.ctx.lr.slots.getD (modField named 0 3) 0)).rnd ≠ 7 ∧
    (FieldRole.srcs 4).allows slotted.ctx.lr.w named.a = true ∧ (FieldRole.dsts 4).allows slotted.ctx.lr.w named.d = true := by
  refine ⟨(issuable_of (by decide +kernel)), fun o ho => ?_, by decide +kernel⟩
  have h : ([Op.cvt, .f2i, .i2f, .pack, .unpk].all fun o =>
      (slotted.ctx.executing named).all fun l => slotted.ctx.operandsResident o named l) = true := by decide +kernel
  exact residents_of (List.all_eq_true.mp h o ho)
theorem witness_SpecialAndRandom : Issuable one ∧ (∀ o ∈ [Op.sreg, .rand, .rseed], Residents one o named) ∧
    one.ctx.launch.task = none :=
  ⟨issuable_one, fun o ho => residents_one o (by revert o; decide), by decide +kernel⟩
/-- A tile covers a wave of 32 lanes, and 16 visible ones of a protected wave. -/
theorem witness_TileVotes : Issuable paired ∧ tileOk paired ∧ (∀ o ∈ [Op.vote, .elect, .matchLanes, .tile], Residents paired o named) ∧
    tileScalar paired named ∧ tileScalar paired { named with d := .s 4 } :=
  ⟨issuable_paired, ⟨4, by decide, by decide +kernel⟩, fun o ho => residents_paired o (by revert o; decide),
    (fun ⟨_, h⟩ => by cases h), fun _ => by decide +kernel⟩
theorem witness_TileSums : Issuable one ∧ tileOk one ∧ (∀ o ∈ [Op.shfl, .red, .scan], Residents one o named) ∧ tileScalar one named :=
  ⟨issuable_one, ⟨4, by decide, by decide +kernel⟩, fun o ho => residents_one o (by revert o; decide),
    fun ⟨_, h⟩ => by cases h⟩

/-! ### Instructions on memory -/

/-- Space 0 maps the first 2 MiB to itself, and the 2 MiB above to the PCIe window of root-port group 0, behind a bridge
window of root port 0 that is up (R82, R83, R133). -/
def mapped (s : State) : State :=
  let s := ((((s.hubPut Off.xltPdir 0x1020).writeNat 0x1000 8 0x2001).writeNat 0x2030 8 0x3024).writeNat 0x3000 16 0xCF).writeNat
    0x3200 16 (0xCF + 0x100 + 5 * 2 ^ 10 + 0xC0000000 * 2 ^ 16 + 0x200 * 2 ^ 64)
  let s := ((s.hubPut (Off.portCfg 0) 0x10000).hubPut (Off.ntbWin 0 + 0x100) 0xC0000000000).hubPut (Off.ntbWin 0 + 0x108) 0xC0000000000
  s.modPort 0 fun p => { p with up := true }

/-- The scalar registers s4 to s7 hold a flat record with every permission (R268). -/
def flatRecord : SMap Reg := rows [(6, 0xFFFFFFFF), (7, 0x070000FF)]
/-- A record of one byte. -/
def smallRecord : SMap Reg := rows [(6, 1), (7, 0x07000000)]

/-- One thread with rows `l`, the record `r`, and its crew's first window page pinned. -/
def thread (l : List (Nat × Nat)) (r : SMap Reg) (full : Bool) : State :=
  let s := mapped (laneState [l])
  { s with
    waves := SMap.put s.waves 0 { s.wave 0 with sregs := r }
    crews := SMap.put s.crews 0 { s.crew 0 with pages := [(0, { state := .pinned, writeback := false, frame := none, dirty := [], marks := false })], fbits := if full then [(0, true)] else [] } }

/-- Fields of a memory instruction on words: D v4, A s4, B an immediate, C v16, E v20. -/
def access (b : BitVec 20) : Fields := { bare with d := .v 4, a := .s 4, b := .int20 b, c := .v 16, e := .v 20, mod := 2 }
/-- Fields of a window instruction on words: the offset is in v8. -/
def window : Fields := { bare with d := .v 4, a := .v 8, b := .int20 0, c := .v 16, mod := 2 }

def global : State := thread [(4, 77), (20, 5)] flatRecord false
def small : State := thread [(4, 77)] smallRecord false
def local' : State := thread [(4, 77), (8, 128)] flatRecord false
def localFull : State := thread [(4, 77)] flatRecord true

theorem issuable_global : Issuable global := (issuable_of (by decide +kernel))
theorem issuable_small : Issuable small := (issuable_of (by decide +kernel))
theorem issuable_local : Issuable local' := (issuable_of (by decide +kernel))
theorem issuable_localFull : Issuable localFull := (issuable_of (by decide +kernel))

/-- The highest word of the page, and the first address of the space. -/
theorem reaches_read : Reaches global 0x1FFFFC .read 0x1FFFFC 0 4 ∧ Reaches global 0 .read 0 0 4 := by
  unfold Reaches Local
  decide +kernel
theorem reaches_write : Reaches global 0x8000 .write 0x8000 0 4 ∧ Reaches global 0x8000 .both 0x8000 0 4 := by
  unfold Reaches Local
  decide +kernel

theorem witness_GlobalLoads :
    (Issuable global ∧ Sole global (access 0x7FFFC) 0 ∧ Windowed global (access 0x7FFFC) ∧ Residents global .ld (access 0x7FFFC) ∧
      Residents global .ldk (access 0x7FFFC) ∧ global.ctx.recAddress (access 0x7FFFC) BufRec.rdp 4 true 0 = .va 0x7FFFC ∧
      Reaches global 0x7FFFC .read 0x7FFFC 0 4 ∧ global.poisonIn 0x7FFFC 4 = false) ∧
    (Issuable small ∧ Sole small (access 0) 0 ∧ Windowed small (access 0) ∧ Residents small .ld (access 0) ∧
      small.ctx.recAddress (access 0) BufRec.rdp 4 true 0 = .oob) :=
  ⟨⟨issuable_global, by unfold Sole; decide +kernel, by unfold Windowed; decide +kernel, residents_of (by decide +kernel),
      residents_of (by decide +kernel), by decide +kernel, by unfold Reaches Local; decide +kernel, by decide +kernel⟩,
    issuable_small, by unfold Sole; decide +kernel, by unfold Windowed; decide +kernel, residents_of (by decide +kernel),
    by decide +kernel⟩
theorem witness_GlobalStores :
    (Issuable global ∧ Sole global (access 0x8000) 0 ∧ NoRollback global ∧ Windowed global (access 0x8000) ∧
      Residents global .st (access 0x8000) ∧ Residents global .atom (access 0x8000) ∧
      global.ctx.recAddress (access 0x8000) BufRec.wrp 4 true 0 = .va 0x8000 ∧
      global.ctx.recAddress (access 0x8000) BufRec.atp 4 true 0 = .va 0x8000 ∧ Reaches global 0x8000 .write 0x8000 0 4 ∧
      Reaches global 0x8000 .both 0x8000 0 4 ∧ global.poisonIn 0x8000 4 = false) ∧
    small.ctx.recAddress (access 0) BufRec.wrp 4 true 0 = .oob :=
  ⟨⟨issuable_global, by unfold Sole; decide +kernel, by unfold NoRollback; decide +kernel, by unfold Windowed; decide +kernel,
      residents_of (by decide +kernel), residents_of (by decide +kernel), by decide +kernel, by decide +kernel,
      reaches_write.1, reaches_write.2, by decide +kernel⟩, by decide +kernel⟩
theorem witness_SystemAndHints : Issuable global ∧
    (∀ o ∈ [Op.mfsr, .mtsr, .marg, .nop, .pref, .cwb, .cinv, .brec], Residents one o named) ∧ WaveResidents one .icinv named ∧
    (∀ l ∈ global.ctx.executing (access 0x8000), ∃ va pa mt, global.ctx.recAddress (access 0x8000) BufRec.rdp 4 true l = .va va ∧
      global.translate global.ctx.lr.pasid va .read = (global, .ok pa mt)) ∧
    small.ctx.executing (access 0) ≠ [] ∧
    ∀ l ∈ small.ctx.executing (access 0), small.ctx.recAddress (access 0) BufRec.rdp 4 true l = .oob := by
  refine ⟨issuable_global, fun o ho => residents_one o (by revert o; decide), ?_, ?_, by decide +kernel, by decide +kernel⟩
  · unfold WaveResidents; decide +kernel
  · intro l hl
    have h : global.ctx.executing (access 0x8000) = [0] := by decide +kernel
    rw [h, List.mem_singleton] at hl
    subst hl
    exact ⟨0x8000, 0x8000, 0, by decide +kernel⟩
theorem witness_Fences : Issuable one ∧ NoRollback one ∧ Residents one .fence named :=
  ⟨issuable_one, by unfold NoRollback; decide +kernel, residents_one _ (by decide)⟩
/-- The last word of the first window page. -/
theorem witness_WindowAccesses : Issuable local' ∧ Sole local' window 0 ∧ InWindow local' 4092 4 ∧ InWindow local' 128 4 ∧
    local'.spPoisonIn local'.ctx.w.crew 128 128 = false ∧ ∀ o ∈ [Op.lds, .sts, .atoms], Residents local' o window := by
  refine ⟨issuable_local, by unfold Sole; decide +kernel, by unfold InWindow; decide +kernel, by unfold InWindow; decide +kernel,
    by decide +kernel, fun o ho => ?_⟩
  have h : ([Op.lds, .sts, .atoms].all fun o =>
      (local'.ctx.executing window).all fun l => local'.ctx.operandsResident o window l) = true := by decide +kernel
  exact residents_of (List.all_eq_true.mp h o ho)
theorem fresh_of {s : State} (h : s.ctx.w.pend = [] ∧ s.ctx.w.log = [] ∧ s.outstanding = []) : Fresh s := by
  unfold Fresh
  simp [h.1, h.2.1, h.2.2]
/-- An empty line (offset 128), and a full one (offset 0). -/
theorem witness_FullEmptyAccesses :
    (Issuable local' ∧ Sole local' window 0 ∧ Fresh local' ∧ Windowed local' window ∧ InWindow local' 128 4 ∧
      local'.spPoisonIn local'.ctx.w.crew 128 128 = false ∧ local'.spFull local'.ctx.w.crew 1 = false ∧ Residents local' .lde window ∧ Residents local' .stf window) ∧
    (Issuable localFull ∧ Sole localFull window 0 ∧ Fresh localFull ∧ Windowed localFull window ∧ InWindow localFull 0 4 ∧
      localFull.spPoisonIn localFull.ctx.w.crew 0 128 = false ∧ localFull.spFull localFull.ctx.w.crew 0 = true ∧ Residents localFull .lde window ∧ Residents localFull .stf window) :=
  ⟨⟨issuable_local, by unfold Sole; decide +kernel, fresh_of (by decide +kernel), by unfold Windowed; decide +kernel,
      by unfold InWindow; decide +kernel, by decide +kernel, by decide +kernel, residents_of (by decide +kernel), residents_of (by decide +kernel)⟩,
    issuable_localFull, by unfold Sole; decide +kernel, fresh_of (by decide +kernel), by unfold Windowed; decide +kernel,
    by unfold InWindow; decide +kernel, by decide +kernel, by decide +kernel, residents_of (by decide +kernel), residents_of (by decide +kernel)⟩
theorem witness_CrewBarrier : Issuable one ∧ NoRollback one ∧ LoneWave one bare ∧ modBit bare 0 = false ∧ one.ctx.lr.prot = false ∧
    (∀ o ∈ [Op.bar, .bara, .barw], Residents one o bare) ∧
    ∀ l ∈ one.ctx.executing bare, SMap.get (one.ctx.w.thread l).ap 256 0 = crewPhase one := by
  refine ⟨issuable_one, by unfold NoRollback; decide +kernel, by unfold LoneWave; decide +kernel, by decide, by decide +kernel,
    fun o ho => ?_, by decide +kernel⟩
  have h : ([Op.bar, .bara, .barw].all fun o => (one.ctx.executing bare).all fun l => one.ctx.operandsResident o bare l) = true := by
    decide +kernel
  exact residents_of (List.all_eq_true.mp h o ho)
theorem witness_Gates : Issuable local' ∧ Sole local' window 0 ∧ InWindow local' 128 128 ∧
    (∀ o ∈ [Op.ginit, .gadd, .gwait], Residents local' o window) ∧ local'.spFull 0 1 = false ∧
    Issuable localFull ∧ Sole localFull window 0 ∧ InWindow localFull 0 128 ∧ localFull.spFull 0 0 = true := by
  refine ⟨issuable_local, by unfold Sole; decide +kernel, by unfold InWindow; decide +kernel, fun o ho => ?_, by decide +kernel,
    issuable_localFull, by unfold Sole; decide +kernel, by unfold InWindow; decide +kernel, by decide +kernel⟩
  have h : ([Op.ginit, .gadd, .gwait].all fun o =>
      (local'.ctx.executing window).all fun l => local'.ctx.operandsResident o window l) = true := by decide +kernel
  exact residents_of (List.all_eq_true.mp h o ho)

/-! ### Control, synchronisation, matrix -/

/-- A thread at slot 1 of an open line, called by 2 steps of 16 rows: WB = 32, with its link to slot 3 in v0:v1, a target in
v8:v9, and a handler. -/
def callee (trap : Bool) : State :=
  let s := laneState [[]]
  { s with
    cur := { s.cur with pc := 1 }
    waves := [(0, { s.wave 0 with threads := [(0, { Thread.start 0 0 with
      pc := 1, wb := 32, trapMode := trap, res := 3, regs := rows [(32, 3), (33, 0x04000000), (40, 4)] })] })]
    launches := [(0, { s.launchAt 0 with record := { placedRecord with w := 48, stackr := 4, trapv := 5 } })]
    cores := [(0, { CoreState.blank with lines := [(0, 0, openLine)] })] }

/-- A transfer by 3 slots, and a shift of 16 rows. -/
def jump (n : Nat) : Fields := { bare with a := .v 8, b := .int20 3, mod := BitVec.ofNat 13 n }

theorem issuable_callee : Issuable (callee false) := (issuable_of (by decide +kernel))
theorem issuable_handler : Issuable (callee true) := (issuable_of (by decide +kernel))
theorem together_of {s : State} {f : Fields} (h : s.ctx.lr.prot = false) : Together s f := by
  unfold Together
  simp [h]
theorem agree_of {α : Type} {s : State} {f : Fields} {g : Nat → α} (h : s.ctx.lr.prot = false) : Agree s f g := by
  unfold Agree
  simp [h]
theorem target_callee : Target (callee false) 4 :=
  ⟨by decide, lineOf openLine, by decide +kernel⟩

theorem witness_ControlTransfers :
    (Issuable (callee false) ∧ Together (callee false) (jump 1) ∧ Target (callee false) 4 ∧ modField (jump 1) 0 7 ≠ 0 ∧
      modField (jump 0) 0 7 = 0 ∧ Slides (callee false) (jump 1) 1 ∧ ((callee false).ctx.pair 0 (jump 1).a).toNat = 4 ∧
      Agree (callee false) (jump 1) (fun l => (callee false).ctx.pair l (jump 1).a) ∧
      (∀ o ∈ [Op.bra, .brx, .call, .callx, .ret, .tret], Residents (callee false) o (jump 1)) ∧
      (callee false).ctx.resident 0 (.v 0) 2 = true ∧ ((callee false).ctx.w.thread 0).rf.toNat + 16 * 2 ≤ 32 ∧
      (∃ L, (callee false).lineOfSlot 0 0 3 = some L ∧ lineLit L 3 = false)) ∧
    (Issuable (callee true) ∧ ((callee true).ctx.w.thread 0).trapMode = true ∧
      ((callee true).ctx.w.thread 0).rf.toNat ≤ ((callee true).ctx.w.thread 0).wb.toNat) := by
  refine ⟨⟨issuable_callee, together_of (by decide +kernel), target_callee, by decide +kernel, by decide +kernel, ?_, by decide +kernel,
    agree_of (by decide +kernel), fun o ho => ?_, by decide +kernel, by decide +kernel, lineOf openLine, by decide +kernel⟩,
    issuable_handler, by decide +kernel, by decide +kernel⟩
  · unfold Slides; decide +kernel
  · have h : ([Op.bra, .brx, .call, .callx, .ret, .tret].all fun o =>
        ((callee false).ctx.executing (jump 1)).all fun l => (callee false).ctx.operandsResident o (jump 1) l) = true := by
      decide +kernel
    exact residents_of (List.all_eq_true.mp h o ho)
theorem witness_Meetings : Issuable one ∧ (∀ o ∈ [Op.meet, .meetr, .yield], Residents one o named) ∧
    ∀ o ∈ [Op.role, .preoff, .preon], WaveResidents one o bare := by
  refine ⟨issuable_one, fun o ho => residents_one o (by revert o; decide), fun o ho => ?_⟩
  have h : ([Op.role, .preoff, .preon].all fun o => one.ctx.active.all fun l => one.ctx.operandsResident o bare l) = true := by
    decide +kernel
  exact fun l hl => List.all_eq_true.mp (List.all_eq_true.mp h o ho) l hl
theorem witness_Exits : Issuable one ∧ Together one bare ∧ NoRollback one ∧ Residents one .exit bare :=
  ⟨issuable_one, together_of (by decide +kernel), by unfold NoRollback; decide +kernel, residents_of (by decide +kernel)⟩
theorem witness_SoftwareTraps : Issuable (callee false) ∧ handles (callee false) ∧ Together (callee false) bare ∧
    Enterable (callee false) bare ∧ Residents (callee false) .brk bare ∧ Residents (callee false) .trap bare ∧
    Op.ofCode (Raw.ofWord (fieldWord 0x011 2047 2047 2047 2047 2047 0 0)).opc = none ∧
    bare.g0 = Guard.ofBits (Raw.ofWord (fieldWord 0x011 2047 2047 2047 2047 2047 0 0)).g0 :=
  ⟨issuable_callee, by unfold handles; decide +kernel, together_of (by decide +kernel), by unfold Enterable; decide +kernel,
    residents_of (by decide +kernel), residents_of (by decide +kernel), by decide +kernel, by decide +kernel⟩

/-- A thread with a copy of its batch 1 on its way; `window` covers it with a batch number of 0x40000000 in v8. -/
def copying : State :=
  let s := laneState [[(12, 5)]]
  { s with waves := [(0, { s.wave 0 with threads := [(0, { s.thread 0 0 with copies := [1] })] })] }

theorem issuable_copying : Issuable copying := (issuable_of (by decide +kernel))
theorem copying_one : (copying.ctx.w.thread 0).copies = [1] := by decide +kernel
theorem batch_bare : (copying.ctx.b32 0 bare).val = 0 := by decide +kernel
theorem covered_no : ∀ x ∈ (copying.ctx.w.thread 0).copies, 2 ^ 31 ≤ ((copying.ctx.b32 0 bare).val - x).toNat := by
  rw [copying_one, batch_bare]
  simp
theorem covered_yes : ∃ x ∈ (copying.ctx.w.thread 0).copies, ((copying.ctx.b32 0 named).val - x).toNat < 2 ^ 31 :=
  ⟨1, by decide +kernel⟩
theorem witness_Batches : Issuable copying ∧ Sole copying bare 0 ∧ Fresh copying ∧ Residents copying .seal bare ∧
    (((copying.ctx.w.thread 0).copies.filter (· ≠ (copying.ctx.w.thread 0).batch)).eraseDups).length < 15 ∧
    Residents copying .bwait bare ∧ (∀ x ∈ (copying.ctx.w.thread 0).copies, 2 ^ 31 ≤ ((copying.ctx.b32 0 bare).val - x).toNat) ∧
    Sole copying named 0 ∧ Residents copying .bwait named ∧
    ∃ x ∈ (copying.ctx.w.thread 0).copies, ((copying.ctx.b32 0 named).val - x).toNat < 2 ^ 31 := by
  refine ⟨issuable_copying, by unfold Sole; decide +kernel, fresh_of (by decide +kernel), residents_of (by decide +kernel),
    by decide +kernel, residents_of (by decide +kernel), covered_no, by unfold Sole; decide +kernel, residents_of (by decide +kernel), covered_yes⟩

/-- A PUSH to queue `q`, that names p1 and p2. -/
def pushTo (q : BitVec 20) : Fields := { bare with d := .v 5, a := .v 16, b := .int20 q, mod := 0x11 }
/-- Queue 5 is full. -/
def crowded : State := one.setQueue 5 (List.replicate 64 { words := [], pasid := 0, pusher := none, batch := 0 })

theorem witness_Pushes : (Issuable one ∧ Sole one (pushTo 255) 0 ∧ Fresh one ∧ NoRollback one ∧ Placed one ∧
      Residents one .push (pushTo 255) ∧ (one.ctx.b32 0 (pushTo 255)).val.toNat % 2 ^ 12 = 255 ∧ (one.queueAt 255).length < 64) ∧
    (Issuable crowded ∧ 64 ≤ (crowded.queueAt 5).length ∧ modField (pushTo 5) 0 3 ≠ 7) ∧
    (one.ctx.b32 0 (pushTo 0x142)).val.toNat % 2 ^ 12 = 0x142 ∧ modField (pushTo 0x142) 3 3 ≠ 7 :=
  ⟨⟨issuable_one, by unfold Sole; decide +kernel, fresh_of (by decide +kernel), by unfold NoRollback; decide +kernel,
      by unfold Placed; decide +kernel, residents_of (by decide +kernel), by decide +kernel, by decide +kernel⟩,
    ⟨(issuable_of (by decide +kernel)), by decide +kernel, by decide⟩, by decide +kernel, by decide⟩
theorem witness_Waits : Issuable global ∧ Sole global (access 0x8000) 0 ∧ Fresh global ∧ Residents global .wait { access 0x8000 with mod := 0 } ∧
    global.ctx.recAddress (access 0x8000) BufRec.rdp 4 false 0 = .va 0x8000 ∧ Reaches global 0x8000 .read 0x8000 0 4 ∧
    global.poisonIn 0x8000 4 = false ∧ (global.ctx.reg 0 (access 0x8000).c 0).val.toNat ≤ leNat (global.bytes 0x8000 4) :=
  ⟨issuable_global, by unfold Sole; decide +kernel, fresh_of (by decide +kernel), residents_of (by decide +kernel), by decide +kernel,
    by unfold Reaches Local; decide +kernel, by decide +kernel, by decide +kernel⟩

/-- A doorbell to the second MiB of space 0, where the PCIe window lies. -/
def ring : Fields := { bare with d := .v 4, a := .s 4, b := .int20 0, c := .v 16, mod := 2 }
def ringer : State :=
  let s := thread [(4, 77), (16, 0)] flatRecord false
  { s with waves := SMap.put s.waves 0 { s.wave 0 with sregs := rows [(4, 0x200000), (6, 0xFFFFFFFF), (7, 0x070000FF)] } }

theorem witness_Signals : (Issuable global ∧ NoRollback global ∧ global.ctx.lr.prot = false ∧ Sole global (access 0x8000) 0 ∧
      Residents global .wake (access 0x8000) ∧ global.ctx.recAddress (access 0x8000) BufRec.rdp 1 false 0 = .va 0x8000 ∧
      Reaches global 0x8000 .read 0x8000 0 1 ∧ Residents global .tsig (access 0x8000)) ∧
    (Issuable ringer ∧ Sole ringer ring 0 ∧ Residents ringer .dbl ring ∧
      ringer.ctx.recAddress ring BufRec.wrp 4 true 0 = .va 0x200000 ∧
      ringer.translate ringer.ctx.lr.pasid 0x200000 ⟨false, false, false, true⟩ = (ringer, .ok 0xC0000000000 5) ∧
      ringer.translate ringer.ctx.lr.pasid 0x200000 .doorbell = (ringer, .ok 0xC0000000000 5) ∧ ringer.regionAt 0xC0000000000 = .pcie ∧
      ringer.pcieRoute 0xC0000000000 = some (0, 0) ∧ (ringer.portAt 0).up = true ∧ (ringer.portAt 0).doorbells.length < 256) :=
  ⟨⟨issuable_global, by unfold NoRollback; decide +kernel, by decide +kernel, by unfold Sole; decide +kernel,
      residents_of (by decide +kernel), by decide +kernel, by unfold Reaches Local; decide +kernel, residents_of (by decide +kernel)⟩,
    (issuable_of (by decide +kernel)), by unfold Sole; decide +kernel,
    residents_of (by decide +kernel), by decide +kernel⟩
theorem witness_ConvergenceSets : Issuable one ∧ Residents one .cvr { bare with b := .int20 0xFFFFF } ∧
    (one.ctx.executing { bare with b := .int20 0xFFFFF }).head? = some 0 ∧ (SMap.get one.ctx.w.kregs 0 KReg.blank).signed = 0 :=
  ⟨issuable_one, residents_of (by decide +kernel), by decide +kernel, by decide +kernel⟩

/-- An MMA with block offset 0 in s4, a convergence register k0 with the set `set`, and slots for integer planes and int8. -/
def product : Fields := { bare with d := .v 32, a := .s 4, b := .reg (.v 16), mod := 8 }
def matrix (set : BitVec 32) : State :=
  let s := thread [] [] false
  { s with
    waves := SMap.put s.waves 0 { s.wave 0 with kregs := [(0, { KReg.blank with set := set })] }
    launches := [(0, { s.launchAt 0 with record := { placedRecord with slots := [0x720, 0x12] } })] }

theorem issuable_matrix (set : BitVec 32) (h : set = 1 ∨ set = 3) : Issuable (matrix set) := by
  rcases h with rfl | rfl <;> exact (issuable_of (by decide +kernel))
theorem witness_MatrixIssues :
    (Issuable (matrix 3) ∧ (matrix 3).ctx.lr.prot = false ∧ Residents (matrix 3) .mma product ∧ (matrix 3).ctx.executing product = [0] ∧
      signCheck .mma product (matrix 3).ctx 0 = none) ∧
    (Issuable (matrix 1) ∧ Residents (matrix 1) .mma product ∧ (signCheck .mma product (matrix 1).ctx 0 = none ∧
      (wordOf fun i => (0#32).getLsbD i || [0].contains i) = 1 ∧ (matrix 1).arrayBusy 0 = false ∧ (matrix 1).ctx.matrixFree product = true ∧
      (SMap.get (matrix 1).ctx.w.kregs 0 KReg.blank).barred ≠ some (matrix 1).cur.core ∧
      0 + 512 ≤ (matrix 1).ctx.lr.spw * 4096) ∧ Pinned (matrix 1) 0 512) :=
  ⟨⟨issuable_matrix 3 (.inr rfl), by decide +kernel, residents_of (by decide +kernel), by decide +kernel, by decide +kernel⟩,
    issuable_matrix 1 (.inl rfl), residents_of (by decide +kernel), by decide +kernel, fun p _ h => by
      have : p = 0 := by omega
      subst this
      decide +kernel⟩
theorem witness_MatrixArithmetic : (List.replicate 32 (3 : Int)).length = 32 * 1 ∧ (slotOfBits 0x720).fmt = 0x20 ∧
    (slotOfBits 0x10001F).semi = 4 := by decide +kernel
theorem witness_MatrixCompletes :
    let j : MatJob := ⟨0, 0, { KReg.blank with set := 1 }, [(.v 0 32, ⟨5, false⟩), (.v 0 33, ⟨6, true⟩)], 0, 0⟩
    (({ one with waves := [(0, { one.wave 0 with mat := [j] })] } : State).wave (waveKey 0 0)).mat = j :: [] ∧
      (j.writes.map (·.1)).Nodup := by decide +kernel

/-- A plane block of 8 planes and 32 columns at offset 0: 512 bytes, and a header of 128 for groups of 32. -/
def planes (slot : BitVec 128) : State :=
  let s := thread [] [] false
  { s with launches := [(0, { s.launchAt 0 with record := { placedRecord with slots := [slot] } })] }

theorem witness_PlaneStores :
    (Issuable (planes 0x720) ∧ Sole (planes 0x720) window 0 ∧ planeSlot .plane ((planes 0x720).ctx.lr.slot 0) 32 = true ∧
      Residents (planes 0x720) .plane { window with mod := 0 } ∧ 0 + 2 * 32 * 8 ≤ (planes 0x720).ctx.lr.spw * 4096 ∧
      Pinned (planes 0x720) 0 512) ∧
    (Issuable (planes 0x1721) ∧ planeSlot .planx ((planes 0x1721).ctx.lr.slot 0) 32 = true ∧
      Residents (planes 0x1721) .planx { window with mod := 0 } ∧ blockBytes 8 32 32 = 640 ∧ Pinned (planes 0x1721) 0 640) := by
  refine ⟨⟨(issuable_of (by decide +kernel)), by unfold Sole; decide +kernel, by decide +kernel,
    residents_of (by decide +kernel), by decide +kernel, fun p _ h => ?_⟩,
    (issuable_of (by decide +kernel)), by decide +kernel, residents_of (by decide +kernel),
    by decide, fun p _ h => ?_⟩ <;>
  · have : p = 0 := by omega
    subst this
    decide +kernel

/-- A thread with 32 rows to spill (WT = 32, RF = 0), or an image to load (RF = 32). -/
def imaged (wt rf : BitVec 24) : State :=
  let s := thread [] flatRecord false
  { s with
    waves := SMap.put s.waves 0 { s.wave 0 with threads := [(0, { s.thread 0 0 with trapMode := true, wt := wt, rf := rf })] }
    launches := [(0, { s.launchAt 0 with record := { placedRecord with w := 48, stackr := 4 } })] }
def image : Fields := { bare with a := .s 4, b := .int20 0x8000 }

theorem witness_WindowImages :
    (Issuable (imaged 32 0) ∧ Sole (imaged 32 0) image 0 ∧ NoRollback (imaged 32 0) ∧ Residents (imaged 32 0) .wspill image ∧
      (imaged 32 0).ctx.imageAddress image false 0 = .va 0x8000 ∧ Reaches (imaged 32 0) 0x8000 .write 0x8000 0 144) ∧
    0x8000 % 4096 + 144 ≤ 4096 ∧ 32 ≤ (imaged 0 32).ctx.lr.w + 16 * (imaged 0 32).ctx.lr.stackr ∧
    (Issuable (imaged 0 32) ∧ Sole (imaged 0 32) image 0 ∧ NoRollback (imaged 0 32) ∧ Residents (imaged 0 32) .wfill image ∧ (imaged 0 32).ctx.imageAddress image true 0 = .va 0x8000 ∧
      Reaches (imaged 0 32) 0x8000 .read 0x8000 0 144 ∧ (imaged 0 32).poisonIn 0x8000 144 = false) :=
  ⟨⟨(issuable_of (by decide +kernel)), by unfold Sole; decide +kernel,
      by unfold NoRollback; decide +kernel, residents_of (by decide +kernel), by decide +kernel, by unfold Reaches Local; decide +kernel⟩,
    by decide, by decide +kernel, (issuable_of (by decide +kernel)), by unfold Sole; decide +kernel,
    by unfold NoRollback; decide +kernel, residents_of (by decide +kernel), by decide +kernel,
    by unfold Reaches Local; decide +kernel, by decide +kernel⟩

/-- A wave of a launch that takes checkpoints, with an access in its operand log. -/
def logged : State :=
  let s := thread [] [] false
  { s with
    waves := SMap.put s.waves 0 { s.wave 0 with log := [⟨⟨.load false, 4, false, false, .wv⟩, 0, [], 0, 0, []⟩] }
    launches := [(0, { s.launchAt 0 with record := { placedRecord with rbk := true } })] }

theorem witness_CheckpointRequests :
    (Issuable one ∧ WaveResidents one .ckpt bare ∧ one.ctx.lr.rbk = false ∧ (one.crew one.ctx.w.crew).ckptDue = none) ∧
    (Issuable logged ∧ logged.ctx.lr.rbk = true ∧ logged.ctx.launch.task = none ∧
      ∃ k ∈ logged.crewKeys logged.ctx.w.crew, (logged.wave k).log ≠ []) := by
  refine ⟨⟨issuable_one, ?_, by decide +kernel, by decide +kernel⟩,
    (issuable_of (by decide +kernel)), by decide +kernel, by decide +kernel, by decide +kernel⟩
  unfold WaveResidents
  decide +kernel

/-! ### A system call, and the steps of a core between issues -/

/-- A PTRAP of cause 0x0B at slot 2. -/
def trapOf (later : Bool) : PTrap := { later := later, cause := 0x0B, tval := 0x40, tpc := 2, res := 3 }

/-- The first thread of slot 0, as `g` changes it, with a handler and lines of memory at address 0. -/
def slotState (line : Nat) (g : Thread → Thread) (h : Wave → Wave) : State :=
  let s := mapped (laneState [[]])
  let s := { s with
    waves := [(0, h { s.wave 0 with threads := [(0, g (s.thread 0 0))] })]
    launches := [(0, { s.launchAt 0 with record := { placedRecord with trapv := 5 } })]
    cores := [(0, CoreState.blank)] }
  s.writeNat 60 4 line

theorem witness_CoreSteps :
    (let s := slotState 3 id id
     s.cachedLine 0 0 0 = none ∧ ReachesIn s 0 0 .fetch 0 0 64 ∧ s.poisonIn 0 64 = false ∧
      lineParityOk (lineOf (s.bytes 0 64)) = true ∧ lineStructureOk (lineOf (s.bytes 0 64)) = true ∧
      badTarget (lineOf (s.bytes 0 64)) (s.thread 0 0).pc.toNat (s.thread 0 0).checked = false ∧
      ((s.wave 0).threads.filter fun e => e.2.eligible && lineByte e.2.pc.toNat == 0).map (·.1) = [0]) ∧
    (let s := slotState 0x1F id id
     lineParityOk (lineOf (s.bytes 0 64)) = false ∧ ReachesIn s 0 0 .fetch 0 0 64 ∧ CanTrap s 0 0) ∧
    (let s := slotState 0x11F id id
     s.poisonIn 0 64 = false ∧ lineParityOk (lineOf (s.bytes 0 64)) = true ∧ lineStructureOk (lineOf (s.bytes 0 64)) = false ∧
      ReachesIn s 0 0 .fetch 0 0 64 ∧ CanTrap s 0 0) ∧
    (let s := slotState 3 (fun t => { t with ptrap := some (trapOf false) }) id
     s.trapDue 0 0 = true ∧ ∀ m < 32, s.trapDue 0 m = true → CanTrap s 0 m) ∧
    (let s := slotState 3 (fun t => { t with ptrap := some (trapOf true), trapMode := true }) id
     (∀ m < 32, m ≠ 0 → s.trapDue 0 m = false) ∧ (s.thread 0 0).ptrap = some (trapOf true) ∧ (s.thread 0 0).trapMode = true ∧
      (s.wave 0).inFlight 0 = [] ∧ (s.launchOf 0).task = none) ∧
    (let p : Pend := { serial := 7, marks := [.v 0 4], writes := [(.v 0 4, ⟨5, true⟩)], waiting := 0 }
     let s := slotState 3 id fun w => { w with pend := [p] }
     (s.wave 0).pend = [] ++ p :: [] ∧ p.waiting = 0 ∧ (p.writes.map (·.1)).Nodup ∧ SMap.sorted (s.wave 0).threads = true) := by
  unfold ReachesIn Local CanTrap
  refine ⟨?_, ?_, ?_, ?_, ?_, ?_⟩ <;> decide +kernel

/-- The first thread blocked at slot 1 by `b`, with entry 7 of the scoreboard waiting for it, and every F bit as `full` says. -/
def waiting (b : Block) (full : Bool) : State :=
  let s := thread [] flatRecord full
  { s with
    waves := SMap.put s.waves 0 { s.wave 0 with
      threads := [(0, { s.thread 0 0 with block := some b, pc := 1 })]
      pend := [{ serial := 7, marks := [.v 0 4], writes := [], waiting := 1 }] }
    crews := SMap.put s.crews 0 { s.crew 0 with slots := [0] }
    gtime := 50 }

theorem witness_WaitingThreads :
    (let s := waiting (.wait 0x8000 0x8000 false 0 (some 40) .cl 7 true true) false
     Idle s 0 0 7 ∧ ReachesIn s (s.recOf 0).pasid 0x8000 .read 0x8000 0 4 ∧ s.poisonIn 0x8000 4 = false ∧
      (0 : DWord).toNat ≤ wordAt s 0 0x8000 4 ∧ (40 : DWord).toNat ≤ s.gtime.toNat) ∧
    (let s := waiting (.wait 0x8000 0x8000 false 1 none .cl 7 false true) false
     Idle s 0 0 7 ∧ ReachesIn s (s.recOf 0).pasid 0x8000 .read 0x8000 0 4 ∧ s.poisonIn 0x8000 4 = false ∧
      wordAt s 0 0x8000 4 < (1 : DWord).toNat) ∧
    (let s := waiting (.gate 0 7) true
     SMap.sorted (s.wave 0).threads = true ∧ (s.crew 0).resident = true ∧ ((s.crew 0).page 0).state = .pinned ∧
      s.spFull 0 0 = true) ∧
    (let s := waiting (.fullEmpty true 128 4 9 7) false
     (s.wave 0).lineLanes 7 1 = [(0, 128, 9)] ∧ (s.recOf 0).prot = false ∧ (s.crew 0).resident = true ∧
      ((s.crew 0).page 0).state = .pinned ∧ s.spFull 0 1 = false) ∧
    (let s := waiting (.push 255 [] 1 2 7) false
     (s.queueAt 255).length < 64 ∧ (s.recOf 0).prot = false ∧ PlacedAt s 0) := by
  unfold ReachesIn Local Idle PlacedAt
  refine ⟨?_, ?_, ?_, ?_, ?_⟩ <;> decide +kernel

/-- A load of 4 bytes at 0x8000 that waits for its page, answered with `code`. -/
def heldLoad (code : BitVec 2) : LogEntry :=
  ⟨⟨.load false, 4, false, false, .wv⟩, 0, [], 0, 7, [⟨0, 0x8000, 0, ⟨0, 0x8000, true, false, false, false, some code⟩⟩]⟩

def replaying (code : BitVec 2) : State :=
  let s := waiting (.gate 0 7) true
  { s with waves := SMap.put s.waves 0 { s.wave 0 with threads := [(0, { s.thread 0 0 with block := none })], log := [heldLoad code] } }

/-- A crew with a checkpoint that a rollback goes back to. -/
def rolling (n : Nat) : State :=
  let s := waiting (.gate 0 7) true
  { s with crews := SMap.put s.crews 0 { s.crew 0 with
      rollbackDue := some 3, eligible := true, rollbacks := n
      ckpt := some { waves := [(0, s.wave 0)], bytes := [], poisoned := [], fbits := [], pages := [], tags := [] } } }

theorem witness_ReplayAndRollback :
    (let s := replaying 0
     ReachesIn s (s.recOf 0).pasid 0x8000 .read 0x8000 0 4 ∧ s.poisonIn 0x8000 4 = false ∧ (s.wave 0).log = heldLoad 0 :: []) ∧
    (let u := (replaying 1).thread 0 0
     u.exited = false ∧ u.trapMode = false ∧ u.ptrap = none ∧ ((replaying 1).wave 0).log = heldLoad 1 :: []) ∧
    (let x := (rolling 1).crew 0
     x.rollbackDue = some 3 ∧ x.ckpt.isSome = true ∧ x.eligible = true ∧ x.rollbacks < 2 ∧ x.slots.Nodup ∧ ∀ i ∈ x.slots, i < 64) ∧
    2 ≤ ((rolling 2).crew 0).rollbacks := by
  unfold ReachesIn Local
  refine ⟨?_, ?_, ?_, ?_⟩ <;> decide +kernel
/-- A translation whose directory entry, descriptor and probed entries lie below `hi` depends on the hub and those bytes alone. -/
theorem translate_below {s t : State} {pasid : BitVec 20} {va desc z a hi : Nat} {need : Need}
    (hub : t.hub = s.hub) (clean : s.upsets = [] ∧ t.upsets = s.upsets ∧ t.poisoned = s.poisoned) (low : ∀ b < hi, t.byte b = s.byte b)
    (space : s.spaceOf pasid.toNat = some desc) (hit : s.lookup desc va = ([(z, a)], []))
    (ranges : s.hubField Off.xltPdir 51 12 * 4096 + 8 * pasid.toNat + 8 ≤ hi ∧ desc + 0x60 ≤ hi ∧ a + 16 ≤ hi ∧
      ∀ z < 4, ∀ x ∈ s.probeSlots desc z va, x + 16 ≤ hi)
    (allowed : va < 2 ^ 57 ∧ ((need.rd && field (s.entryAt a) 1 1 == 0) || (need.wr && field (s.entryAt a) 2 2 == 0) ||
      (need.ex && field (s.entryAt a) 3 3 == 0) || (need.db && field (s.entryAt a) 8 8 == 0)) = false ∧
      (s.entryAt a ||| 0x40) ||| (if need.wr then 0x80 else 0) = s.entryAt a) :
    t.translate pasid va need = (t, .ok (entryPpn (s.entryAt a) * 4096 + va % 2 ^ pageShift z) (entryMt (s.entryAt a))) := by
  have poison : ∀ x n, t.poisonIn x n = s.poisonIn x n := by
    intro x n
    have one : t.isPoisoned = s.isPoisoned := by
      funext k
      simp only [State.isPoisoned, clean.2.1, clean.2.2]
    simp only [State.poisonIn, one]
  have rd : ∀ x n, x + n ≤ hi → t.walkNat x n = s.walkNat x n := by
    intro x n h
    unfold State.walkNat State.readNat State.bytes
    rw [poison]
    refine if_congr Iff.rfl rfl ?_
    refine congrArg leNat (List.map_congr_left fun i hi' => low _ ?_)
    have := List.mem_range.mp hi'
    omega
  have field' : ∀ o h l, t.hubField o h l = s.hubField o h l := by
    intro o h l
    simp only [State.hubField, State.hubGet, hub]
  have sp : t.spaceOf pasid.toNat = some desc := by
    rw [← space]
    simp only [State.spaceOf, field']
    rw [rd _ _ ranges.1]
  have cur : ∀ z < 4, t.descCur desc z = s.descCur desc z ∧ t.descNew desc z = s.descNew desc z ∧
      t.descMptr desc z = s.descMptr desc z := by
    intro z hz
    exact ⟨rd _ _ (by omega), rd _ _ (by omega), rd _ _ (by omega)⟩
  have slots : ∀ z < 4, t.probeSlots desc z va = s.probeSlots desc z va := by
    intro z hz
    simp only [State.probeSlots, State.probeBucket, (cur z hz).1, (cur z hz).2.1, (cur z hz).2.2]
  have wf : ∀ z e, t.entryWf z e = s.entryWf z e := by
    intro z e
    simp only [State.entryWf, State.inShadow, field']
  have look : t.lookup desc va = s.lookup desc va := by
    unfold State.lookup
    have : ∀ z ∈ List.range 4, ∀ g h : Nat → Bool, (∀ x ∈ s.probeSlots desc z va, g x = h x) →
        (s.probeSlots desc z va).filter g = (s.probeSlots desc z va).filter h :=
      fun z _ g h hx => List.filter_congr hx
    have key : ∀ z ∈ List.range 4,
        (if !tableEn (t.descCur desc z) then (([], []) : List (Nat × Nat) × List Nat)
          else if !lognOk (tableLogn (t.descCur desc z)) then ([], [1])
          else
            let named := (t.probeSlots desc z va).filter (fun a => entryNames z va (t.entryAt a))
            let good := named.filter (fun a => t.entryWf z (t.entryAt a))
            let bad := named.any (fun a => !t.entryWf z (t.entryAt a))
            (good.map (fun a => (z, a)), if bad then [2] else [])) =
        (if !tableEn (s.descCur desc z) then ([], [])
          else if !lognOk (tableLogn (s.descCur desc z)) then ([], [1])
          else
            let named := (s.probeSlots desc z va).filter (fun a => entryNames z va (s.entryAt a))
            let good := named.filter (fun a => s.entryWf z (s.entryAt a))
            let bad := named.any (fun a => !s.entryWf z (s.entryAt a))
            (good.map (fun a => (z, a)), if bad then [2] else [])) := by
      intro z hz
      have hz := List.mem_range.mp hz
      have at' : ∀ x ∈ s.probeSlots desc z va, t.entryAt x = s.entryAt x := fun x hx => rd _ _ (ranges.2.2.2 z hz x hx)
      have named : (s.probeSlots desc z va).filter (fun a => entryNames z va (t.entryAt a)) =
          (s.probeSlots desc z va).filter (fun a => entryNames z va (s.entryAt a)) :=
        List.filter_congr fun x hx => by rw [at' x hx]
      have good : ((s.probeSlots desc z va).filter (fun a => entryNames z va (s.entryAt a))).filter (fun a => t.entryWf z (t.entryAt a)) =
          ((s.probeSlots desc z va).filter (fun a => entryNames z va (s.entryAt a))).filter (fun a => s.entryWf z (s.entryAt a)) :=
        List.filter_congr fun x hx => by rw [wf, at' x (List.mem_of_mem_filter hx)]
      have bad : ((s.probeSlots desc z va).filter (fun a => entryNames z va (s.entryAt a))).any (fun a => !t.entryWf z (t.entryAt a)) =
          ((s.probeSlots desc z va).filter (fun a => entryNames z va (s.entryAt a))).any (fun a => !s.entryWf z (s.entryAt a)) := by
        rw [Bool.eq_iff_iff, List.any_eq_true, List.any_eq_true]
        refine exists_congr fun x => and_congr_right fun hx => ?_
        rw [wf, at' x (List.mem_of_mem_filter hx)]
      simp only [(cur z hz).1, slots z hz, named, good, bad]
    simp only [List.map_congr_left key]
  have ent : t.entryAt a = s.entryAt a := rd _ _ ranges.2.2.1
  have still : ∀ p : Option (BitVec 20), t.walkDecoded p desc va = t := by
    intro p
    have none' : t.upsets = [] := clean.2.1.trans clean.1
    simp only [State.walkDecoded, none', List.isEmpty_nil, if_true]
  simp only [State.translate, sp, allowed.1, if_true, State.translateIn, still, look, hit, State.tableRecords, List.foldl_nil,
    State.pickHit, smallestHits, State.picked, List.filter_cons, List.filter_nil, beq_self_eq_true, List.length_cons,
    List.length_nil, List.head?_cons, State.markUsed]
  simp only [Nat.zero_add, Nat.le_refl, if_true, ent, allowed.2.1, allowed.2.2, Bool.false_eq_true, if_false]

/-- A call with its block at 0x8100, through a ring of 16 entries at 0x9000 whose header is at 0x8000. -/
def calling : State :=
  let s := ((thread [(8, 0x8100)] flatRecord false).writeNat 0x8008 8 4).writeNat 0x8010 8 0x9000
  { s with launches := [(0, { s.launchAt 0 with record := { placedRecord with sysr := 0x8000 } })] }
def call : Fields := { bare with a := .v 8, b := .int20 5, c := .v 16 }

/-- What translate_below asks of an access of the call, with the one hit at 0x3000. -/
def callMaps (va : Nat) (need : Need) : Bool :=
  calling.lookup 0x2000 va == ([(2, 0x3000)], []) &&
    ((List.range 4).all fun z => (calling.probeSlots 0x2000 z va).all fun x => x + 16 ≤ 0x8000) && decide (va < 2 ^ 57) &&
    !((need.rd && field (calling.entryAt 0x3000) 1 1 == 0) || (need.wr && field (calling.entryAt 0x3000) 2 2 == 0) ||
      (need.ex && field (calling.entryAt 0x3000) 3 3 == 0) || (need.db && field (calling.entryAt 0x3000) 8 8 == 0)) &&
    ((calling.entryAt 0x3000 ||| 0x40) ||| (if need.wr then 0x80 else 0)) == calling.entryAt 0x3000 &&
    entryPpn (calling.entryAt 0x3000) * 4096 + va % 2 ^ 21 == va && entryMt (calling.entryAt 0x3000) == 0

theorem call_space : calling.spaceOf calling.ctx.lr.pasid.toNat = some 0x2000 ∧
    calling.hubField Off.xltPdir 51 12 * 4096 + 8 * calling.ctx.lr.pasid.toNat + 8 ≤ 0x8000 := by decide +kernel

theorem calling_maps {va : Nat} {need : Need} (h : callMaps va need = true) (t : State)
    (hub : t.hub = calling.hub) (clean : calling.upsets = [] ∧ t.upsets = calling.upsets ∧ t.poisoned = calling.poisoned)
    (low : ∀ b < 0x8000, t.byte b = calling.byte b) :
    ∃ mt, mt ≤ 2 ∧ t.translate calling.ctx.lr.pasid va need = (t, .ok va mt) := by
  simp only [callMaps, Bool.and_eq_true, beq_iff_eq, List.all_eq_true, List.mem_range, decide_eq_true_eq, Bool.not_eq_true'] at h
  obtain ⟨⟨⟨⟨⟨⟨hit, probes⟩, small⟩, allowed⟩, marked⟩, place⟩, mt⟩ := h
  refine ⟨0, by omega, ?_⟩
  rw [translate_below hub clean low call_space.1 hit ⟨call_space.2, by omega, by omega, probes⟩ ⟨small, allowed, marked⟩]
  rw [mt]
  exact congrArg (fun x => (t, Xlat.ok x 0)) place

theorem call_maps : ∀ p ∈ ([(0x8008, .read), (0x8100, .write), (0x8100, .read), (0x8000, .read), (0x8000, .both), (0x8040, .read),
    (0x8010, .read), (0x9000, .read)] : List (Nat × Need)) ++ (List.range 8).map (fun i => (0x9000 + 8 * i, Need.write)),
    callMaps p.1 p.2 = true := by decide +kernel

theorem issuable_calling : Issuable calling := (issuable_of (by decide +kernel))
theorem calling_numbers : calling.ctx.lr.sysr.toNat = 0x8000 ∧ (calling.ctx.pair 0 call.a).toNat % 2 ^ 57 = 0x8100 ∧
    calling.readNat 0x8008 8 = 4 ∧ calling.readNat 0x8000 8 = 0 ∧ calling.readNat 0x8010 8 = 0x9000 ∧ calling.readNat 0x8040 8 = 0 ∧
    calling.upsets = [] ∧ (∀ e ∈ calling.ctx.w.threads, e.2.block = none) ∧ (calling.crew calling.ctx.w.crew).held = [] ∧
    calling.ctx.w.log = [] ∧ calling.poisonIn 0x8000 0x48 = false ∧ calling.poisonIn 0x8100 16 = false := by decide +kernel
theorem calling_stores : calling.laneStores calling.ctx.k 0 = false := by decide +kernel

theorem witness_SystemCalls : Issuable calling ∧ Sole calling call 0 ∧ Fresh calling ∧ NoRollback calling ∧
    Residents calling .sysc call ∧ (calling.crew calling.ctx.w.crew).held = [] ∧ calling.ctx.w.log = [] ∧
    (∀ e ∈ calling.ctx.w.threads, ∀ y, e.2.block = some (.sysc y) → y.serial ≠ calling.serial) ∧
    calling.laneStores calling.ctx.k 0 = false ∧
    (calling.ctx.lr.sysr.toNat = 0x8000 ∧ (calling.ctx.pair 0 call.a).toNat % 2 ^ 57 = 0x8100 ∧ calling.readNat 0x8008 8 = 4 ∧
      calling.readNat 0x8000 8 = 0 ∧ calling.readNat 0x8010 8 = 0x9000 ∧ calling.readNat 0x8040 8 = 0) ∧
    (∀ b < 0x10000, regionOf b = .hbm ∧ SMap.find calling.upsets (b / 32) = none) ∧
    calling.poisonIn 0x8000 0x48 = false ∧ calling.poisonIn 0x8100 16 = false ∧
    ∀ p ∈ ([(0x8008, .read), (0x8100, .write), (0x8100, .read), (0x8000, .read), (0x8000, .both), (0x8040, .read),
      (0x8010, .read), (0x9000, .read)] : List (Nat × Need)) ++ (List.range 8).map (fun i => (0x9000 + 8 * i, Need.write)),
      ∀ t : State, t.hub = calling.hub → t.upsets = calling.upsets → t.poisoned = calling.poisoned →
        (∀ b, ¬ ((0x8100 ≤ b ∧ b < 0x8104) ∨ (0x8000 ≤ b ∧ b < 0x8008) ∨ (0x9000 ≤ b ∧ b < 0x9040)) → t.byte b = calling.byte b) →
        ∃ mt, mt ≤ 2 ∧ t.translate calling.ctx.lr.pasid p.1 p.2 = (t, .ok p.1 mt) := by
  obtain ⟨h, cva, hdr, tail, base, head, ups, idle, held, log, ph, pc⟩ := calling_numbers
  refine ⟨issuable_calling, by unfold Sole; decide +kernel, fresh_of (by decide +kernel), by unfold NoRollback; decide +kernel,
    residents_of (by decide +kernel), held, log, fun e he y hy => ?_, calling_stores, ⟨h, cva, hdr, tail, base, head⟩, fun b hb => ⟨?_, ?_⟩, ph, pc,
    fun p hp t hub cu cp low => calling_maps (call_maps p hp) t hub ⟨ups, cu, cp⟩ fun b hb => low b (by omega)⟩
  · rw [idle e he] at hy
    cases hy
  · unfold regionOf
    rw [if_pos (by omega)]
  · rw [ups]
    rfl
/-! ### Cores, service, power and boot -/

/-- Reset, with register `o` of the hub at `v`. -/
def hubAt (l : List (Nat × Nat)) : State := l.foldl (fun s e => s.hubPut e.1 e.2) State.reset

/-- Core 1 with CTL and STAT. -/
def marginState (ctl stat : Nat) (x : CoreState) : State :=
  { hubAt [(0x30040, ctl), (0x30048, stat)] with cores := [(1, x)] }

theorem witness_MarginSteps :
    (let s := marginState 0x200 0 CoreState.blank
     SMap.get (s.coreAt 1).detections 5 0 + 1 < max 1 (s.hubField (marginAt 1) 11 8)) ∧
    (let s := marginState 0x100 5 CoreState.blank
     max 1 (s.hubField (marginAt 1) 11 8) ≤ SMap.get (s.coreAt 1).detections 5 0 + 1 ∧ qstateOf s 1 ≠ 1 ∧ curOf s 1 = 5) ∧
    (let s := marginState 0x100 0 CoreState.blank
     max 1 (s.hubField (marginAt 1) 11 8) ≤ SMap.get (s.coreAt 1).detections 5 0 + 1 ∧ qstateOf s 1 = 0 ∧ curOf s 1 = 0) ∧
    (let s := marginState 0x10000 0x20005 CoreState.blank
     s.hubField (marginAt 1) 31 16 < s.hubField (marginAt 1 + 8) 31 16 ∧ curOf s 1 ≠ 0) ∧
    (let s := marginState 0x10000 0x20000 { CoreState.blank with highAtZero := true }
     s.hubField (marginAt 1) 31 16 < s.hubField (marginAt 1 + 8) 31 16 ∧ curOf s 1 = 0 ∧ (s.coreAt 1).highAtZero = true ∧
      qstateOf s 1 = 0) ∧
    (let s := marginState 0x10000 0x20000 CoreState.blank
     s.hubField (marginAt 1) 31 16 < s.hubField (marginAt 1 + 8) 31 16 ∧ curOf s 1 = 0 ∧ (s.coreAt 1).highAtZero = false) ∧
    (let s := marginState 0x10007 5 CoreState.blank
     ¬ s.hubField (marginAt 1) 31 16 < s.hubField (marginAt 1 + 8) 31 16 ∧ 2 ^ s.hubField (marginAt 1) 35 32 ≤ (s.coreAt 1).quietRun + 1 ∧
      s.hubField (marginAt 1) 36 36 = 0 ∧ curOf s 1 < s.hubField (marginAt 1) 3 0 ∧ (s.coreAt 1).relaxTo = none) ∧
    ((marginState 0 0 { CoreState.blank with relaxTo := some (3, 1000) }).coreAt 1).relaxTo = some (3, 1000) := by decide +kernel

/-- Package with cluster 0 in CLUSTER_AVAIL, core 0 in state `q`, and a service request. -/
def serviceState (avail q : Nat) (x : CoreState) (r : Option ServiceReq) : State :=
  { hubAt [(0x10, avail), (0x30008, q * 0x100), (0xA010, 100)] with cores := [(0, x)], service := r }

theorem witness_ServiceSteps :
    (let s := serviceState 1 1 CoreState.blank none
     qstateOf s 0 = 1 ∧ (∀ e ∈ s.waves, e.2.live = true → e.1 / 64 ≠ 0) ∧ ∀ m ∈ siblings 0, qstateOf s m ≠ 2) ∧
    (let s := serviceState 1 0 { CoreState.blank with iftDue := true } none
     qstateOf s 0 = 0 ∧ (s.coreAt 0).iftDue = true ∧ s.hubField 0xA010 15 0 ≠ 0 ∧ (∀ m ∈ siblings 0, (s.coreAt m).iftDue = false) ∧
      (s.hubGet 0x10).testBit 0 = true) ∧
    (let s := serviceState 1 2 CoreState.blank none
     qstateOf s 0 = 2 ∧ (s.coreAt 0).wayBack = false ∧ (s.coreAt 0).cause = .inService) ∧
    (let s := serviceState 1 3 CoreState.blank (some (.coreBack 0))
     qstateOf s 0 = 3 ∧ s.service = some (.coreBack 0) ∧ ∀ m ∈ siblings 0, qstateOf s m ≠ 2) ∧
    (let s := (serviceState 1 3 CoreState.blank none).hubPut 0x30048 0x200
     qstateOf s 0 = 3 ∧ s.service = none ∧ ¬ ∀ m ∈ siblings 0, qstateOf s m ≠ 2) ∧
    (let s := serviceState 1 0 CoreState.blank none
     s.service = none ∧ s.vaultMapped 0 = false ∧ (∀ m ∈ (List.range 4).map fun i => 4 * 0 + i, qstateOf s m = 0) ∧
      (s.sliceAt 0).inService = true ∧ (s.hartAt 3).inService = true ∧ ∃ g < 16, g ≠ 3 ∧ (s.hartAt g).inService = true) ∧
    (let s := { serviceState 0 3 { CoreState.blank with cause := .cluster } (some (.clusterBack 0)) with
        cores := (List.range 4).map fun n => (n, { CoreState.blank with cause := .cluster }) }
     s.service = some (.clusterBack 0) ∧ (∀ m ∈ (List.range 4).map fun i => 4 * 0 + i, (s.coreAt m).cause = .cluster) ∧
      (s.sliceAt 0).retired = false ∧ (s.hubGet 0x10).testBit 0 = false) ∧
    (let s := { serviceState 1 0 CoreState.blank none with
        slices := [(0, { Slice.blank with inService := false })]
        harts := (List.range 16).map fun h => (h, { Hart.blank with inService := h == 3 }) }
     (s.sliceAt 0).inService = false ∧ (∀ g < 16, g ≠ 3 → (s.hartAt g).inService = false) ∧ (s.hartAt 4).inService = false) := by
  decide +kernel

/-- Monitor readings with these cluster temperatures and this HBM power. -/
def readings (temps : List Nat) (hbm : Nat) : MonitorReadings :=
  { State.reset.power.readings with clusterTemp := temps, hbmPower := hbm, clusterFlux := [300, 200] }
/-- Reset after 100 µs with these powers and times. -/
def powered (calm : Option DWord) (r : MonitorReadings) : State :=
  { State.reset with
    gtime := 200000
    power := { State.reset.power with readings := r, calm := calm, hbmCalm := calm } }

theorem witness_PowerAndErrors :
    (∀ x ∈ temps (readings [109, 90] 0), x < 110) ∧ (∃ x ∈ temps (readings [110] 0), 110 ≤ x) ∧ State.reset.hubField 0 15 8 = 0 ∧
    State.reset.gtime.toNat / 10000 = State.reset.power.stepped ∧
    (let s := powered (some 100000) (readings [96] 901)
     s.gtime.toNat / 10000 ≠ s.power.stepped ∧ 900 < s.power.readings.hbmPower ∧
      (∃ since, s.power.calm = some since ∧ since.toNat + 100000 ≤ s.gtime.toNat) ∧
      (s.gtime.toNat / 10000, 0) ≠ SMap.get s.power.thermalSteps 0 (0, 0) ∧
      (0, s.gtime.toNat / 100000) ≠ SMap.get s.power.thermalSteps 0 (0, 0)) ∧
    (powered none (readings [] 0)).power.calm = none ∧
    SMap.find ({ State.reset with upsets := [(7, { error := .single, way := none })] } : State).upsets (7 : BitVec 47).toNat =
      some { error := .single, way := none } ∧
    SMap.find State.reset.upsets (7 : BitVec 47).toNat = none ∧
    (let s : State := { State.reset with slices := [(3, { Slice.blank with prof := 1, flushing := some 2 })] }
     (s.sliceAt 3).prof = 1 ∧ (s.sliceAt 3).flushing = some 2) := by
  refine ⟨by decide +kernel, ⟨110, by decide +kernel⟩, by decide +kernel, by decide +kernel,
    ⟨by decide +kernel, by decide +kernel, ⟨100000, by decide +kernel⟩, by decide +kernel, by decide +kernel⟩, by decide +kernel,
    by decide +kernel, by decide +kernel, by decide +kernel⟩

/-- Phase 3 with a well-formed header in the image at 0x100000000000: one block, entry 0x1000. -/
def headed : State :=
  let s := { hubAt [(0, 3)] with boot := { State.reset.boot with hdm := some 0x100000000000 } }
  (((s.writeNat 0x100000000000 8 Config.bootMagic.toNat).writeNat 0x100000000008 4 1).writeNat 0x100000000010 8 0x10000).writeNat
    0x100000000018 8 0x1000

/-- A phase, and what phase 3 found: a header of a partial boot image. -/
def booting (phase flags : Nat) : State :=
  { hubAt [(0, phase + 0x20000)] with
    boot := { State.reset.boot with
      hdm := some 0, headerOk := some true, clustersOk := some true, hbmOk := some true
      header := List.replicate 12 0 ++ [BitVec.ofNat 8 flags, 0, 0, 0, 0, 0, 1, 0, 0, 0, 0, 0] } }

/-- What a hash answers, and which keys and versions are fused, no theorem can say: that a header passes, or that a block's hash is
the one listed, holds for some fuses and images. -/
theorem witness_BootAndManagement :
    (hubAt []).hubField 0 3 0 = 1 ∧ (hubAt [(0, 2)]).hubField 0 3 0 = 2 ∧ headed.hubField 0 3 0 = 3 ∧ HeaderGood headed ∧
    ¬ HeaderGood (hubAt [(0, 3)]) ∧ (headed.boot.hdm.getD 0).toNat + imageAt headed 0x10 8 ≤ 2 ^ 52 ∧
    headed.boot.clustersOk ≠ some false ∧ headed.boot.headerOk ≠ some true ∧
    ((booting 3 1).hubField 0 3 0 = 3 ∧ (booting 3 1).boot.headerOk = some true ∧ (0 : BitVec 64) ≠ BitVec.allOnes 64 ∧
      headerAt (booting 3 1) 0xC 4 % 2 = 1 ∧ headerAt (booting 3 0) 0xC 4 % 2 = 0 ∧ (0 : BitVec 8) ≠ 0xFF ∧
      (booting 3 0).boot.clustersOk ≠ none ∧ (booting 3 0).boot.hbmOk = some true) ∧
    ((booting 4 0).hubField 0 3 0 = 4 ∧ (booting 4 0).hubField 0 17 17 = 1 ∧ 0 < headerAt (booting 4 0) 0x10 8 / 65536 ∧
      headerAt (booting 4 0) 0x10 8 / 65536 ≤ 61 ∧ (booting 4 0).boot.safe = false ∧ ¬ ∃ e ∈ (booting 4 0).boot.verified, e.1 = 0) ∧
    (let s := { booting 4 0 with boot := { (booting 4 0).boot with verified := [(0, [])] } }
     ∃ e ∈ s.boot.verified, e.1 = 0) ∧
    (powered none (readings [50] 0)).power.readings.clusterTemp[0]? = some 50 := by
  unfold HeaderGood
  decide +kernel
/-! ### Links, requests from outside, the table engine, the hub -/

/-- A load of 4 bytes that the first thread sent under tag 9 to root port `p`, or to a domain peer. -/
def sent (p : Option Nat) : Outstanding :=
  { tag := 9, who := .thread, sent := 0, port := p, waveKey := 0, lane := 0, serial := 7, skip := 0
    access := ⟨.load false, 4, false, false, .wv⟩, pasid := 0, va := 0x200000, pa := 0xC0000000000 }

def sender (p : Option Nat) : State := { mapped (laneState [[]]) with outstanding := [sent p], gtime := 2000000000 }

/-- A store to domain peer 3, not acknowledged. -/
def toPeer : Outstanding := { sent none with access := ⟨.store, 4, false, false, .wv⟩, pa := 0x8000000000000 + 3 * 2 ^ 43 }

/-- A doorbell in the proxy of port 0. -/
def bell : Doorbell := ⟨0, 0xC0000000000, 7, 4, 0, 0, 0, 0⟩

/-- One sub-port of 16 lanes is a layout, four of none are not. -/
theorem layouts : GoodLayout 5 ∧ ¬ GoodLayout 0 ∧ (0x80000005 : BitVec 32).toNat % 2 ^ 24 = 5 ∧
    (0x80000000 : BitVec 32).toNat % 2 ^ 24 = 0 := by
  unfold GoodLayout
  dsimp only
  decide +kernel

theorem witness_PortSteps :
    (0x80000005 : BitVec 32).getLsbD 31 = true ∧ GoodLayout ((0x80000005 : BitVec 32).toNat % 2 ^ 24) ∧
    ¬ GoodLayout ((0x80000000 : BitVec 32).toNat % 2 ^ 24) ∧ (5 : BitVec 32).getLsbD 31 = false ∧
    (∀ e ∈ (sender (some 7)).outstanding, ∀ k < 4, e.port ≠ some (4 * 2 + k)) ∧
    ((sender (some 0)).outstanding.filter (fun e => e.port == some 0) = [sent (some 0)] ∧
      SentLoad (sender (some 0)) (sent (some 0)) false ∧ SentLoad (sender none) (sent none) false) ∧
    ((sender none).hubField 0x1000 3 0 = 0 ∧ ((sender none).hubPut 0x1000 5).hubField 0x1000 3 0 ≠ 0 ∧
      ((sender none).portAt 0).disabled = false) ∧
    ((hubAt [(0x5300, 2)]).hubField 0x5300 1 0 = 2 ∧ (hubAt [(0x5300, 1)]).hubField 0x5300 1 0 ≠ 2) ∧
    (let s := (sender none).modPort 0 fun x => { x with doorbells := [bell] }
     (s.portAt 0).doorbells = bell :: [] ∧ ∀ e ∈ s.waves, ∀ u ∈ e.2.threads, u.2.block = none) ∧
    ((sent (some 0)).sent.toNat + 2 ^ min 10 ((sender (some 0)).hubField 0x1000 23 20) * 10 ^ 6 ≤ (sender (some 0)).gtime.toNat ∧
      ¬ (sent (some 0)).sent.toNat + 2 ^ min 10 ((hubAt []).hubField 0x1000 23 20) * 10 ^ 6 ≤ (hubAt []).gtime.toNat ∧
      (sent none).sent.toNat + 100000 ≤ (sender none).gtime.toNat) ∧
    ([toPeer] = [] ++ toPeer :: [] ∧ field toPeer.pa 50 43 = (3 : Byte).toNat) := by
  rw [layouts.2.2.1, layouts.2.2.2]
  refine ⟨by decide, layouts.1, layouts.2.1, by decide, ?_⟩
  unfold SentLoad
  decide +kernel
/-- A write of 4 bytes by the endpoint 0x100 behind root port 0, or a read. -/
def request (addr : BitVec 64) (write : Bool) (pasid : Option (BitVec 20)) : InboundRequest :=
  { port := 0, rid := 0x100, pasid := pasid, translated := false, write := write, addr := addr, size := 4
    data := if write then [1, 2, 3, 4] else [], ep := false, badEcrc := false }

/-- A space and a capture window at 0x4000 with entry 2 = `e`. -/
def captures (e : Nat) : State := ((mapped (laneState [[]])).hubPut 0x1800 0x4000).hubPut 0x10020 e

/-- An interleaved pair of requests waits: a posted write of the endpoint is under way to a peer. -/
def posting (e : Nat) : State :=
  { captures e with outstanding := [{ sent none with who := .endpoint 0 0x100 }] }

def atomic (addr : BitVec 64) : InboundAtomic :=
  { port := 0, rid := 0x100, pasid := some 0, translated := false, addr := addr, op := .fetchAdd, size := 8, operand := 1, compare := 0, badEcrc := false }
def ats (va : BitVec 64) : AtsRequest := { port := 0, rid := 0x100, pasid := some 0, va := va, noWrite := false, exec := true, badEcrc := false }

/-- Root port 0 leads to bus 1 (R113). -/
def busBelow : State :=
  { (hubAt [(0x1000, 5)]).modPort 0 fun x => { x with up := true } with cfg := [(portCfgAt 0 0x18, 0x00010100)] }

/-- A bridge partner of group 0, with window 0 of BAR 1 open onto space 0 or not. -/
def bridged (open' : Nat) : State :=
  (((mapped (laneState [[]])).hubPut 0x1000 0x10005).hubPut 0x40010 open').hubPut 0x40018 0
def ntb (write : Bool) : NtbRequest :=
  { group := 0, bar := 1, rid := 0x200, write := write, offset := 64, size := 4, data := if write then [1, 2, 3, 4] else [], ep := false, badEcrc := false }

/-- Export window 0 over the first page. -/
def exporting (rights : Nat) : State := (mapped (laneState [[]])).hubPut (Off.ubnorExp 0 + 8) rights

theorem witness_InboundSteps :
    (let s := mapped (laneState [[]])
     let r := request 0x8000 true (some 0)
     Untranslated s r.rid r.translated ∧ Passes s r ∧ ReachesIn s 0 0x8000 .write 0x8000 0 4 ∧ ReachesIn s 0 0x8000 .read 0x8000 0 4 ∧
      r.data.length = r.size ∧ Writable s 0x8000 ∧ (request 0x8000 false (some 0)).write = false ∧
      s.spaceOf 5 = none ∧ s.spaceOf 0 ≠ none ∧ s.translate 0 0x10000000 .write = (s, .absent)) ∧
    (let s := captures 0x8001
     let r := request 0x4008 true none
     InCapture s r.addr.toNat 8 ∧ Passes s r ∧ Visible s r ∧ field (s.hubGet 0x10020) 0 0 = 1 ∧ field (s.hubGet 0x10020) 2 2 = 0 ∧
      regionOf (field (s.hubGet 0x10020) 51 3 * 8) = .hbm ∧ SMap.find s.upsets (field (s.hubGet 0x10020) 51 3 * 8 / 32) = none) ∧
    (¬ Visible (posting 0x8001) (request 0x4008 true none) ∧ field ((captures 0x8000).hubGet 0x10020) 0 0 = 0) ∧
    (let s := mapped (laneState [[]])
     (atomic 0x8000).addr.toNat % 8 = 0 ∧ ReachesIn s 0 0x8000 .both 0x8000 0 8 ∧ (atomic 0x8004).addr.toNat % 8 ≠ 0) ∧
    (let s := mapped (laneState [[]])
     s.spaceOf 0 = some 0x2000 ∧ s.lookup 0x2000 (ats 0x8000).va.toNat = ([(2, 0x3000)], []) ∧ entryMt (s.entryAt 0x3000) = 0 ∧
      s.markUsed 0x3000 (field (s.entryAt 0x3000) 2 2 == 1 && !(ats 0x8000).noWrite) = s ∧
      s.lookup 0x2000 (ats 0x10000000).va.toNat = ([], [])) ∧
    (let s := bridged 1
     s.hubField 0x1000 16 16 = 1 ∧ (s.portAt 0).up = true ∧ 64 / 2 ^ ((s.portAt 0).barSizes.1 - 2) = 0 ∧ s.hubField 0x40010 0 0 = 1 ∧
      ReachesIn s 0 64 .read 64 0 4 ∧ ReachesIn s 0 64 .write 64 0 4 ∧ Writable s 64 ∧ (bridged 0).hubField 0x40010 0 0 = 0) ∧
    (let s := exporting 3
     s.exported 64 4 0 = true ∧ s.exported 64 4 1 = true ∧ Local s 64 4 ∧ s.regionAt 64 ≠ .cxl ∧ (exporting 0).exported 64 4 0 = false) ∧
    (1 ≤ (5 : BitVec 32).toNat ∧ (5 : BitVec 32).toNat ≤ 2047 ∧ 2047 < (2048 : BitVec 32).toNat) ∧
    ((hubAt [(0x1000, 5)]).hubField 0x1000 3 0 ≠ 0 ∧ PortWord (hubAt [(0x1000, 5)]) 0x10 0 0x10 ∧ (0x10 : Nat) ∉ [0x50, 0x58, 0x60, 0x130, 0x148]) ∧
    ((∀ p r, ¬ PortWord State.reset (2 ^ 20) p r) ∧ State.reset.busPort 1 = none) ∧
    busBelow.busPort 1 ≠ none := by
  have none' : ∀ p r, ¬ PortWord State.reset (2 ^ 20) p r := by
    rintro p r ⟨hp, hr, _, h, _⟩
    omega
  unfold ReachesIn Local Untranslated Passes Admitted Writable InCapture Visible
  refine ⟨?_, ?_, ?_, ?_, ?_, ?_, ?_, ?_, ?_, ⟨none', ?_⟩, ?_⟩
  case refine_9 => unfold PortWord; decide +kernel
  all_goals decide +kernel
/-- Space 0, with an update port of hart 0 that holds ARG0 and ARG1, and the page-request ring. -/
def tables (arg : Nat) : State :=
  (((mapped (laneState [[]])).hubPut 0x4800 (arg % 2 ^ 64)).hubPut 0x4808 (arg / 2 ^ 64)).hubPut 0x4100 0x10026

/-- The table commands on the 2 MiB table of space 0. -/
def command : DWord := 0x2020

/-- The entry of the 2 MiB page `n`, mapped to itself. -/
def page2M (n : Nat) : Nat := 0xCF + n * 0x200 * 2 ^ 16 + n * 0x200 * 2 ^ 64

theorem witness_TableSteps :
    (let s := tables 0
     s.upsets = [] ∧ State.reset.spacesInUse = false ∧ (hubAt [(Off.part 0 + 8, 0x100000)]).spacesInUse = true ∧ PortFree s 0 ∧
      field command.toNat 51 7 * 128 = 0x2000 ∧ field command.toNat 5 4 = 2 ∧
      (let cur := s.readNat 0x2030 8
       field cur 5 5 = 1 ∧ 4 ≤ field cur 4 0 ∧ field cur 4 0 ≤ 24) ∧ field (s.readNat 0x2000 8) 5 5 = 0) ∧
    (let s := tables 0
     let held := fun (va : Nat) => (slotsOf s 0x2000 2 va).filter fun a => entryNames 2 va (s.entryAt a)
     held 0 = [0x3000] ∧ held 0x400000 = [] ∧ field (page2M 0) 0 0 = 1 ∧ s.entryWf 2 (page2M 0) = true ∧ s.entryWf 2 (page2M 2) = true ∧
      s.overlaps 0x2000 2 0x400000 = false ∧
      ((slotsOf s 0x2000 2 0x400000).find? fun a => field (s.entryAt a) 0 0 != 1) ≠ none ∧
      NotGranted s 0x2000 0 (2 ^ 57) ∧ Performed s ∧ field 0 0 0 ≠ 1) ∧
    Apart 0x3000 16 (0x2000 + 0x60) 8 ∧
    (let s := (tables 0).writeNat 0x2000 8 0x5024
     (((s.writeNat 0x5000 16 0xCF).overlaps 0x2000 2 0) = true ∧
      (slotsOf (s.writeNat 0x3000 16 0) 0x2000 2 0).filter (fun a => entryNames 2 0 ((s.writeNat 0x3000 16 0).entryAt a)) = [])) ∧
    (let arg := 0x6025
     field arg 5 5 = 1 ∧ field arg 11 6 = 0 ∧ field arg 63 52 = 0 ∧ 4 ≤ field arg 4 0 ∧ field arg 4 0 ≤ 24 ∧
      field arg 4 0 ≠ field ((tables arg).readNat 0x2030 8) 4 0 ∧ field ((tables arg).readNat 0x2038 8) 5 5 = 0 ∧
      field (((tables arg).writeNat 0x2038 8 0x6025).readNat 0x2038 8) 5 5 = 1) ∧
    (let s := { (tables 0).writeNat 0x2060 8 0x100000 with atsHolders := [⟨0, 0x100, 0, 0, 0, 12, true, true⟩] }
     ¬ NotGranted s 0x2000 0 (2 ^ 57)) ∧
    (let f : FlushWait := { hart := 0, since := 0, result := 0, rids := [1, 2], tags := [], crews := [] }
     let s := { tables 0 with flushWait := some f }
     s.flushWait = some f ∧ f.rids.filter (· ≠ 1) ≠ [] ∧ ({ f with rids := [1] } : FlushWait).rids.filter (· ≠ 1) = [] ∧ Over s f ∧
      f.rids ≠ []) ∧
    (∀ i ∈ [1, 15], let r : Resize := ⟨0x2000, 2, false⟩
     let s := { ((tables 0).writeNat 0x2038 8 0x6025).writeNat 0x2040 8 i with tableResize := [r] }
     let slots := (List.range 3).flatMap fun w => (List.range 4).map fun j => 0x3000 + (w * 2 ^ 4 + i) * 64 + 16 * j
     s.tableResize.find? (fun q => !q.held) = some r ∧ field (s.readNat 0x2040 8) 24 0 = i ∧ field (s.readNat 0x2030 8) 4 0 = 4 ∧
      (∀ a ∈ slots, field (s.entryAt a) 0 0 = 0) ∧ ∀ a ∈ slots, Apart a 16 0x2030 24) ∧
    (let r : Resize := ⟨0x2000, 2, true⟩
     [r].filter (fun q => q.held) = [r]) ∧
    (HasRoom (tables 0) 0x4100 ∧ ¬ HasRoom State.reset 0x4100) ∧
    (let r : PageReq := ⟨none, false, 0, true, 0x8000, true, false, false, false, false, true, 0, 0, 1, 0⟩
     [r] = [] ++ r :: [] ∧ r.rtag = none ∧ [{ r with rtag := some 4 }].find? (fun q => q.rtag == some 4) = some { r with rtag := some 4 } ∧
      (0x10004 : DWord).extractLsb' 16 2 ≠ 3 ∧ (0x30004 : DWord).extractLsb' 16 2 = 3) ∧
    (∀ e ∈ (tables 0).waves, ∀ u ∈ e.2.threads, u.2.block = none) ∧
    ∀ c ∈ (tables 0).crews, c.2.live = true → c.2.resident = true := by
  unfold PortFree NotGranted Performed Over Apart HasRoom
  refine ⟨?_, ?_, ?_, ?_, ?_, ?_, ?_, ?_, ?_, ?_, ?_, ?_, ?_⟩ <;> decide +kernel

/-- The package with firmware running, and the mapped memory. -/
def running : State := mapped (laneState [[]])

theorem unreserved (a n : Nat) : Unreserved running a n := by
  intro h line e
  have g : ∀ h, (running.hartAt h).reserved = none := fun h => by
    have : running.harts = [] := by decide +kernel
    simp [State.hartAt, this, SMap.get, Hart.blank]
  rw [g] at e
  cases e

theorem witness_HubSteps :
    (let s := (running.hubPut 0x20040 5).hubPut 0x20048 0
     (1 : DWord).getLsbD 0 = true ∧ s.hubField 0x20040 11 0 < 256 ∧ (s.queueAt 5).length < 64 ∧ s.spaceOf 0 ≠ none ∧
      (running.hubPut 0x20040 0x142).hubField 0x20040 11 0 = 0x142 ∧ s.spaceOf 5 = none ∧
      64 ≤ (crowded.queueAt 5).length) ∧
    ((∃ e ∈ running.launches, e.2.state = .active ∧ e.2.ended = false) ∧
      ¬ ((∃ e ∈ State.reset.launches, e.2.state = .active ∧ e.2.ended = false) ∨ ∃ e ∈ State.reset.thyme, e.2.valid = true)) ∧
    (let s := { hubAt [(0x5300, 0x10001)] with gtime := 1000000 }
     s.hubField 0x5300 1 0 = 1 ∧ s.hubField 0x5300 31 16 * 1000000 ≤ (s.gtime - s.sourceSeen).toNat ∧
      ¬ (State.reset.hubField 0x5300 1 0 = 1 ∨ State.reset.hubField 0x5300 1 0 = 2)) ∧
    (let r := coreRecordOf 3 1
     let s := { hubAt [(0x4300, 0x26)] with failures := [r] }
     s.failures = r :: [] ∧ HasRoom s 0x4300 ∧ r.launch = none ∧ ¬ HasRoom (hubAt [(0x4300, 0)]) 0x4300) ∧
    (let s := running
     (s.hartAt 2).inService = true ∧ (s.hartAt 2).stall = none ∧ s.outstanding = [] ∧ s.boot.safe = false ∧ 5 ≤ s.hubField 0 3 0 ∧
      s.regionAt 0x8000 = .hbm ∧ Local s 0x8000 8 ∧ s.poisonIn 0x8000 8 = false ∧
      (s.setPoison 0x400 true).poisonIn 0x8000 8 = true ∧ (s.hartAt 2).reserved ≠ some (0x8000 / 64) ∧
      ((s.modHart 2 fun x => { x with reserved := some 0x200 }).hartAt 2).reserved = some (0x8000 / 64) ∧
      s.regionAt 0x8080000000 = .unassigned ∧ field (0xF000000000000000 : DWord).toNat 63 60 = 15) ∧
    Unreserved running 0x8000 8 := by
  have used : ∃ e ∈ running.launches, e.2.state = .active ∧ e.2.ended = false := by decide +kernel
  have unused : ¬ ((∃ e ∈ State.reset.launches, e.2.state = .active ∧ e.2.ended = false) ∨
      ∃ e ∈ State.reset.thyme, e.2.valid = true) := by decide +kernel
  unfold HasRoom Local
  refine ⟨?_, ⟨used, unused⟩, ?_, ?_, ?_, unreserved _ _⟩ <;> decide +kernel
/-! ### Partitions, launches and crews -/

/-- Cluster 0 in partitions 0 and 1, of which 0 is resident; a READY launch of PRIO 4 in partition 1, an ACTIVE one of PRIO 2 in 0. -/
def twoParts (quantum : Nat) (prio : Nat) : State :=
  let s := ((hubAt [(0x10, 1), (Off.part 0, 1), (Off.part 0 + 8, 0x100000 + quantum * 2 ^ 52), (Off.part 1, 1),
    (Off.part 1 + 8, 0x100000)]).hubSetField Off.vshadow 4 0 28)
  { s with
    residents := [(0, true)]
    gtime := 200000
    launches := [(0, { Launch.blank with record := { LaunchRec.blank with prio := 2, part := 0 }, state := .active, ended := false }),
      (1, { Launch.blank with record := { LaunchRec.blank with prio := prio, part := 1 }, state := .ready, ended := false })] }

/-- One thread of a launch of partition 0, in its slot. -/
def crewed : State := { (running.hubSetField Off.vshadow 4 0 28) with gtime := 500 }

/-- A launch record of 1024 bytes at 0x8000: entry 0x100, W = 16, one wave, one crew, PRIO 1, space 0. -/
def launched (words : List Nat) (aev : Nat) : State :=
  let s := ((((running.writeNat 0x8000 8 0x100).writeNat 0x8010 4 16).writeNat 0x8014 4 1).writeNat 0x8018 4 1).writeNat 0x8020 4 1
  (s.writeNat 0x8050 8 aev).setQueue 0x140 [{ words := words.map (BitVec.ofNat 32), pasid := 0, pusher := none, batch := 0 }]

/-- The command at the head of the launch queue. -/
def head (s : State) : QCmd := (s.queueAt 0x140).headD { words := [], pasid := 0, pusher := none, batch := 0 }

theorem witness_Partitions :
    (let s := (hubAt [(0x10, 1), (Off.part 0, 1), (Off.part 1, 1)])
     s.partEn 0 = false ∧ s.partClusters 0 ≠ 0 ∧ s.partClusters 0 &&& s.hubGet 0x10 = s.partClusters 0 ∧ s.resident 0 = false ∧
      (∀ q < 16, q ≠ 0 → s.partEn q = true → s.partClusters 0 = s.partClusters q ∨ s.partClusters 0 &&& s.partClusters q = 0)) ∧
    running.spaceOf 0 ≠ none ∧ State.reset.partClusters 0 = 0 ∧
    ((twoParts 0 4).partEn 0 = true ∧ (∃ e ∈ (twoParts 0 4).launches, e.2.record.part = 0 ∧ e.2.task = none ∧ e.2.ended = false) ∧
      ∀ e ∈ (hubAt [(Off.part 0 + 8, 0x100000)]).launches, e.2.record.part = 0 → e.2.task = none → e.2.ended = true) := by
  decide +kernel

theorem members (q prio : Nat) (h : (q, prio) ∈ [(0, 4), (1, 2), (0, 1)]) : Member (twoParts q prio) 0 0 ∧ Member (twoParts q prio) 0 1 ∧
    (twoParts q prio).resident 0 = true ∧ (∀ m : Fin 16, Member (twoParts q prio) 0 m → (twoParts q prio).resident m = true → m = 0) ∧
    Settled (twoParts q prio) 0 ∧ (twoParts q prio).slotsForSwap 0 = true ∧
    ∀ m : Fin 16, Member (twoParts q prio) 0 m → m ≠ 0 → m ≠ 1 → ∀ e ∈ (twoParts q prio).launches, ¬ LaunchIn .ready m e := by
  unfold Settled
  unfold Member LaunchIn
  simp only [List.mem_cons, List.not_mem_nil, or_false, Prod.mk.injEq] at h
  rcases h with ⟨rfl, rfl⟩ | ⟨rfl, rfl⟩ | ⟨rfl, rfl⟩ <;> decide +kernel

/-- The READY launch of partition 1. -/
def readyLaunch (prio : Nat) : Nat × Launch :=
  (1, { Launch.blank with record := { LaunchRec.blank with prio := prio, part := 1 }, state := .ready, ended := false })

/-- PRIO 4 is above 2; a PRIO that is equal waits for the quantum; a lower one waits. -/
theorem witness_SwapChoice : GivesWay (twoParts 0 4) 0 1 ∧ GivesWay (twoParts 1 2) 0 1 ∧ ¬ GivesWay (twoParts 0 1) 0 1 := by
  refine ⟨⟨readyLaunch 4, by decide +kernel, by unfold LaunchIn; decide +kernel, .inl ?_⟩,
    ⟨readyLaunch 2, by decide +kernel, by unfold LaunchIn; decide +kernel, .inr ⟨by decide +kernel, by decide +kernel, ?_⟩⟩, ?_⟩
  · unfold LaunchIn
    decide +kernel
  · unfold LaunchIn
    decide +kernel
  · have none' : ∀ e ∈ (twoParts 0 1).launches, LaunchIn .ready 1 e → e.2.record.prio = 1 := by
      unfold LaunchIn
      decide +kernel
    have busy : ∃ f ∈ (twoParts 0 1).launches, (LaunchIn .ready 0 f ∨ LaunchIn .active 0 f) ∧ f.2.record.prio = 2 := by
      unfold LaunchIn
      decide +kernel
    obtain ⟨f, hf, in', two⟩ := busy
    rintro ⟨e, he, ready, h | ⟨h, _⟩⟩
    · have := h f hf in'
      rw [two, none' e he ready] at this
      omega
    · exact h (by decide +kernel)
theorem witness_Swaps :
    (let s := twoParts 0 4
     Settled s 1 ∧ s.partEn 1 = true ∧ s.resident 1 = false ∧ s.partClusters 0 = s.partClusters 1) ∧
    (let s := { twoParts 0 4 with swaps := [⟨0, 1, false⟩] }
     (⟨0, 1, false⟩ : Swap) ∈ s.swaps ∧ s.halted 0 = true ∧ ¬ Settled s 0 ∧ (⟨0, 1, true⟩ : Swap) ∉ s.swaps) ∧
    (let s := { twoParts 0 4 with swaps := [⟨0, 1, true⟩] }
     (⟨0, 1, false⟩ : Swap) ∉ s.swaps ∧ (⟨0, 1, true⟩ : Swap) ∈ s.swaps ∧ s.partCrews 1 false = []) ∧
    (let s := { crewed with
        swaps := [⟨0, 1, false⟩]
        waves := [(0, { crewed.wave 0 with window := some 0 })] }
     s.halted 0 = false) ∧
    (let s := { crewed with swaps := [⟨1, 0, true⟩], crews := [(0, { crewed.crew 0 with resident := false, saved := [(0, Wave.blank)] })] }
     s.partCrews 0 false = [0] ∧ Unblocked (s.crew 0) ∧ s.coreInService (s.crew 0).core = true) := by
  unfold Settled
  unfold Member Unblocked
  decide +kernel

/-- The words of a LAUNCH of the record at `va`, or of a CANCEL of tag `va`. -/
def launchWords (op va : Nat) : List Nat := [op, 0, va, 0] ++ List.replicate 12 0
def cancelWords (tag : Nat) : List Nat := [2, 0, 0, 0, tag] ++ List.replicate 11 0

theorem witness_Launches :
    (let s := launched (launchWords 1 0x8000) 0
     let c := head s
     let p := s.setQueue 0x140 []
     let r := recordOf (leNat (s.bytes 0x8000 1024))
     s.queueAt 0x140 = c :: [] ∧ c.word64 0 % 256 = 1 ∧ c.launchOk = true ∧ c.word64 1 = 0x8000 ∧
      p.vaRead c.pasid (c.word64 1) 1024 = (p, some (s.bytes 0x8000 1024)) ∧ recordOk (leNat (s.bytes 0x8000 1024)) = true ∧
      r.pasid = c.pasid ∧ s.hubField (partAt r.part + 8) 19 0 = r.pasid.toNat ∧ s.spaceOf r.pasid.toNat ≠ none ∧
      s.partEn r.part = true ∧ r.perCore ≠ 0 ∧ r.cores = false ∧ r.gtab = 0 ∧ r.aev0 = 0 ∧ r.aev1 = 0) ∧
    (let s := launched (launchWords 1 0x8000) 0x9000
     (recordOf (leNat (s.bytes 0x8000 1024))).aev0 = 0x9000) ∧
    (let s := launched (launchWords 1 0x10000000) 0
     (s.setQueue 0x140 []).vaRead 0 0x10000000 1024 = (s.setQueue 0x140 [], none) ∧ (head s).word64 1 = 0x10000000) ∧
    ((head (launched (launchWords 3 0) 0)).word64 0 % 256 ≠ 1 ∧ recordOk 0 = false) ∧
    (let s := launched (cancelWords 7) 0
     let c := head s
     c.launchOk = true ∧ c.word64 0 = 2 ∧ c.word64 1 = 0 ∧ c.word64 3 = 0 ∧ c.word64 2 = 7 ∧
      (s.launches.filter fun e => !e.2.ended && e.2.task.isNone && e.2.record.pasid == c.pasid && e.2.tag.toNat == c.word64 2) = []) ∧
    (let s := launched (cancelWords 0) 0
     let c := head s
     (s.launches.filter fun e => !e.2.ended && e.2.task.isNone && e.2.record.pasid == c.pasid && e.2.tag.toNat == c.word64 2) =
        [(0, s.launchAt 0)] ∧ s.safeInFlight 0 = false) ∧
    ({ running with waves := [(0, { running.wave 0 with
        threads := [(0, { running.thread 0 0 with block := some (.doorbell 0 0 0 4) })] })] } : State).safeInFlight 0 = true := by
  refine ⟨?_, ?_, ?_, ?_, ?_, ?_, ?_⟩ <;> decide +kernel

/-- A launch in a state, with one crew of one wave in rows of 16 registers. -/
def launchIn (x : LState) (placed done : Nat) (aev donew : DWord) : State :=
  { running with launches := [(0, { running.launchAt 0 with
      state := x, nextCrew := placed, doneCrews := done
      record := { placedRecord with w := 16, spw := 0, creww := 1, ncrew := 2, aev0 := aev, aval0 := 1, donew := donew } })] }

theorem witness_LaunchStates :
    (let s := launchIn .waitEv 0 0 0x8000 0
     (s.launchAt 0).state = .waitEv ∧ (s.launchAt 0).ended = false ∧ (s.launchAt 0).task = none ∧ (s.launchAt 0).record.aev0 ≠ 0 ∧
      (s.launchAt 0).record.aev1 = 0 ∧ s.vaRead 0 0x8000 8 = (s, some (s.bytes 0x8000 8)) ∧
      ¬ (s.launchAt 0).record.aval0.toNat ≤ leNat (s.bytes 0x8000 8)) ∧
    (let s := launchIn .waitEv 0 0 0x10000000 0
     s.vaRead 0 0x10000000 8 = (s, none)) ∧
    (let s := launchIn .active 2 2 0 0x8000
     (s.launchAt 0).state = .active ∧ (s.launchAt 0).nextCrew = (s.launchAt 0).record.ncrew ∧
      (s.launchAt 0).doneCrews = (s.launchAt 0).record.ncrew ∧ (∀ i < 64, (s.thymeAt i).instLaunch ≠ some 0) ∧
      ReachesIn s 0 0x8000 .both 0x8000 0 8 ∧ (launchIn .active 2 2 0 0).launches.map (·.2.record.donew) = [0]) ∧
    (let s := launchIn .ready 0 0 0 0
     let l := s.launchAt 0
     s.resident l.record.part = true ∧ l.cancelled = false ∧ l.nextCrew < l.record.ncrew ∧ l.record.cores = false ∧
      l.record.rbk = false ∧ l.record.spw = 0 ∧ s.preempted 0 = [] ∧ s.coreFor l none = some 1 ∧ State.reset.resident 0 = false) ∧
    Unplaced State.reset 0 := by
  have idle : ∀ i < 64, (State.reset.thymeAt i).instLaunch ≠ some 0 := by decide +kernel
  unfold ReachesIn Local
  refine ⟨?_, ?_, ?_, ?_, ⟨by decide +kernel, by decide +kernel, idle⟩⟩ <;> decide +kernel

/-- The wave of the crew with PREOFF in force for `n` cycles. -/
def unpreemptible (n : Nat) : State := { crewed with waves := [(0, { crewed.wave 0 with window := some n })] }

theorem witness_Crews :
    (let s := crewed
     let x := s.crew 0
     x.live = true ∧ x.resident = true ∧ (s.launchAt x.launch).record.cores = false ∧ (s.launchAt x.launch).task = none ∧
      s.shadowRoom (x.core / 4) (s.launchAt x.launch).record = true ∧ s.savable 0 = true ∧ (s.crew 5).live = false) ∧
    ((unpreemptible 0).savable 0 = false ∧ ((unpreemptible 0).wave 0).window = some 0 ∧
      0 < crewed.hubField (partAt (crewed.recOf 0).part + 8) 51 36 + 1 ∧
      crewed.hubField (partAt (crewed.recOf 0).part + 8) 51 36 + 1 ≤ 65536) ∧
    (let s := crewed.hubPut 0x30008 0x100
     s.coreInService (s.crew 0).core = false ∧ s.resident (s.launchAt 0).record.part = true ∧
      s.coreFor (s.launchAt 0) (some 0) = some 1 ∧ s.savable 0 = true ∧ ∀ k ∈ s.crewKeys 0, ∀ u ∈ (s.wave k).threads, u.2.block = none) := by
  refine ⟨?_, ?_, ?_⟩ <;> decide +kernel
/-! ### Thyme and tasks -/

/-- Entry 0 of the Thyme table: slots at 1000, 1100, …, the record at 0x8000. -/
def thymeState (g : Thyme → Thyme) : State :=
  let s := launched (launchWords 1 0x8000) 0
  { s with
    gtime := 1050
    thyme := [(0, g { Thyme.blank with start := 1000, period := 100, recva := 0x8000, maxlate := 20, valid := true, next := 1000 })] }

/-- A launch of Thyme entry 0 that has placed nothing and is late after `late`. -/
def thymeLaunch (late : DWord) (s : State) : State :=
  { s with launches := [(0, { s.launchAt 0 with state := .ready, nextCrew := 0, thyme := some 0, late := some late })] }

/-- The commands of the Thyme table. -/
def thymeCommand (op start period mode : Nat) : State :=
  running.setQueue 0x141 [{
    words := ([op, 0, start, 0, period, 0, 0x8000, 0, 20, mode] ++ List.replicate 6 0).map (BitVec.ofNat 32), pasid := 0
    pusher := none, batch := 0 }]

/-- The number of the record at 0x8000. -/
def recordNumber : Nat := 0x100 + 16 * 2 ^ 128 + 2 ^ 160 + 2 ^ 192 + 2 ^ 256

theorem thyme_record : leNat ((thymeState id).bytes 0x8000 1024) = recordNumber := by decide +kernel

theorem accepts_record : Accepts (thymeState id) 0 0x8000 (recordOf recordNumber) ((thymeState id).bytes 0x8000 1024) := by
  refine ⟨by decide, by decide +kernel, ?_, by rw [thyme_record], ?_, ?_, ?_, ?_, ?_, ?_, ?_⟩
  · rw [thyme_record]
    decide +kernel
  all_goals decide +kernel

theorem witness_ThymeSteps :
    (((thymeCommand 1 5 0 0).queueAt 0x141).map QCmd.thymeOk = [true] ∧ ((thymeCommand 2 0 0 0).queueAt 0x141).map QCmd.thymeOk = [true] ∧
      ((thymeCommand 3 0 0 0).queueAt 0x141).map QCmd.thymeOk = [false] ∧
      ((thymeCommand 1 5 0 0).queueAt 0x141).map (fun c => (c.word64 0 % 256, c.word64 1, c.word64 2)) = [(1, 5, 0)]) ∧
    (let e := (thymeState id).thymeAt 0
     e.valid = true ∧ e.spent = false ∧ e.next.toNat ≤ (thymeState id).gtime.toNat ∧ e.period ≠ 0 ∧ e.instLaunch = none ∧ e.state ≠ 2 ∧
      e.recva.toNat = 0x8000 ∧ e.pasid = 0) ∧
    (let s := thymeState fun e => { e with instLaunch := some 0, state := 1, rule := 2 }
     (s.thymeAt 0).instLaunch = some 0 ∧ (s.thymeAt 0).rule = 2 ∧ (s.thymeAt 0).state ≠ 2 ∧ (s.launchAt 0).ended = false ∧
      (s.launchAt 0).task = none) ∧
    (let s := thymeState fun e => { e with instLaunch := some 0, state := 2, rule := 1, held := some 1000, maxlate := 49 }
     (s.thymeAt 0).state = 2 ∧ (s.thymeAt 0).held = some 1000 ∧ (1000 : DWord).toNat + (s.thymeAt 0).maxlate.toNat < s.gtime.toNat) ∧
    (let s := thymeLaunch 1049 (thymeState fun e => { e with instLaunch := some 0, state := 1 })
     (s.launchAt 0).thyme = some 0 ∧ (s.launchAt 0).ended = false ∧ (s.launchAt 0).nextCrew = 0 ∧ (s.launchAt 0).late = some 1049 ∧
      (1049 : DWord).toNat < s.gtime.toNat ∧ (∀ x ∈ s.launches, x.2.thyme = some 0 → x.2.ended = false → x.1 = 0) ∧
      (s.thymeAt 0).state ≠ 2) := by
  refine ⟨?_, ?_, ?_, ?_, ?_⟩ <;> decide +kernel

/-- A task at 0x9000 with ENTRY 0x100 and words 2 and 6. -/
def taskWith (w2 w4 w6 w7 : Nat) : Task :=
  ⟨0x9000, BitVec.ofNat 512 (0x100 + w2 * 2 ^ 128 + w4 * 2 ^ 256 + w6 * 2 ^ 384 + w7 * 2 ^ 448)⟩

/-- Task queue 3, enabled or not, with a binding record at 0x8000 and the words of the task at 0x9000. -/
def queueState (en : Nat) (x : TaskQueue) (t : Task) : State :=
  let s := ((launched (launchWords 1 0x8000) 0).hubPut (tqOf 3) 0x8000).hubPut (tqOf 3 + 8) (en * 0x100000)
  { s.writeNat 0x9000 64 t.body.toNat with tqs := [(3, x)], gtime := 5000 }
/-- The record of a queue that is bound. -/
def boundRecord : LaunchRec := { placedRecord with w := 16, spw := 1, creww := 1, ncrew := 1 }
def boundQueue (gathers : List Gather) : TaskQueue :=
  { TaskQueue.blank with binding := some boundRecord, queued := [0x9000], gathers := gathers }
/-- An open gather of `n` tasks of ENTRY `e`, since the time 3000. -/
def gathered (e : SlotAddr) (n : Nat) : Gather := ⟨e, List.replicate n (taskWith 0 0 0 0), 0, 3000⟩

theorem binds_record : Binds (queueState 0 TaskQueue.blank (taskWith 0 0 0 0)) 0 recordNumber ∧
    ¬ Binds (queueState 0 TaskQueue.blank (taskWith 0 0 0 0)) 0 0 := by
  refine ⟨⟨?_, ?_, ?_, ?_, ?_, ?_⟩, fun h => absurd h.formed (by decide +kernel)⟩ <;> decide +kernel

theorem witness_TaskQueues :
    (let s := queueState 0 TaskQueue.blank (taskWith 0 0 0 0)
     s.hubField (tqOf 3 + 8) 20 20 = 0 ∧ s.hubGet (tqOf 3) = 0x8000 ∧ s.vaRead 0 0x8000 1024 = (s, some (s.bytes 0x8000 1024)) ∧
      leNat (s.bytes 0x8000 1024) = recordNumber) ∧
    (let s := queueState 1 { TaskQueue.blank with queued := [0x9000] } (taskWith 0 0 0 0)
     s.hubField (tqOf 3 + 8) 20 20 = 1 ∧ s.queueAt 0x103 = [] ∧ s.vaRead 0 0x9000 64 = (s, some (s.bytes 0x9000 64)) ∧
      field (leNat (s.bytes 0x9000 64)) 504 448 = 0) ∧
    (let post := fun n => ({ words := ([1, 0, n, 0] ++ List.replicate 12 0).map (BitVec.ofNat 32), pasid := 0, pusher := none, batch := 0 } : QCmd)
     (post 0x9000).postOk = true ∧ (post 0x9001).postOk = false) ∧
    (let s := queueState 1 (boundQueue []) (taskWith 0 0 0 0)
     let t : Task := ⟨0x9000, BitVec.ofNat 512 (leNat (s.bytes 0x9000 64))⟩
     (s.tqAt 3).binding = some boundRecord ∧ (s.tqAt 3).queued = 0x9000 :: [] ∧ (s.tqAt 3).head = none ∧
      s.vaRead 0 0x9000 64 = (s, some (s.bytes 0x9000 64)) ∧ t = taskWith 0 0 0 0 ∧ t.ok = true ∧ descField t 6 15 0 = 0 ∧
      descField t 7 56 0 = 0 ∧ (s.setQueue 0 []).vaRead 0 0x10000000 64 = (s.setQueue 0 [], none)) ∧
    ((taskWith 0 0 0x80000000 0).ok = false ∧ (taskWith 0 0 1 0).ok = true ∧ descField (taskWith 0 0 1 0) 6 15 0 ≠ 0 ∧
      boundRecord.spw * 32 < descField (taskWith (33 * 2 ^ 50) 0 0 0) 2 58 50 + descField (taskWith (33 * 2 ^ 50) 0 0 0) 3 58 50) ∧
    (let gs := (List.range 4).map fun i => gathered (BitVec.ofNat 57 i) 1
     gs.length = 4 ∧ (∀ g ∈ gs, g.entry ≠ 0x100) ∧ ∀ g ∈ gs, g.tasks.length < boundRecord.gatherLimit) ∧
    (let g := gathered 0x100 31
     g.tasks.length + 1 = boundRecord.gatherLimit ∧ (gathered 0x100 1).tasks.length + 1 < boundRecord.gatherLimit ∧ g.entry = 0x100 ∧
      g.since.toNat + 2000 ≤ (queueState 1 (boundQueue [g]) (taskWith 0 0 0 0)).gtime.toNat) := by
  refine ⟨?_, ?_, ?_, ?_, ?_, ?_, ?_⟩ <;> decide +kernel
/-- A formed task wave, its launch 7, and the crew 4 that holds a task of it in lane 0 at slot 1 of core 0. -/
def taskWave (t : Task) (g : Thread → Thread) (x : TaskQueue) : State :=
  let s := queueState 1 x t
  let l := { Launch.blank with record := boundRecord, state := .ready, nextCrew := 0, task := some 3, ended := false }
  { s with
    launches := [(7, l)]
    waves := [(1, { s.wave 0 with launch := 7, crew := 4, threads := if x.formed = [] then [(0, g (Thread.start 0 0))] else [] })]
    crews := [(4, { Crew.blank with live := true, resident := true, launch := 7, slots := [1], tasks := [⟨t, 0, false⟩] })] }

/-- The queue with its wave formed and not placed. -/
def formedQueue : TaskQueue := { TaskQueue.blank with binding := some boundRecord, formed := [(7, gathered 0x100 1)] }
/-- No crew has been placed yet. -/
def unplacedWave : State :=
  { taskWave (taskWith 0 0 0 0) id formedQueue with
    crews := [], waves := []
    launches := [(7, { Launch.blank with
      record := { boundRecord with spw := 0 }, state := .ready, nextCrew := 0, task := some 3, ended := false })] }
/-- The wave has a slot and no threads yet. -/
def unstarted (t : Task) : State := taskWave t id formedQueue

/-- The lane has exited. -/
def exitedTask (t : Task) : State := taskWave t (fun u => { u with exited := true }) TaskQueue.blank

/-- A task with a tile of one line at 0x9000; with a successor at 0x9000 that it signals; with a status word at 0x9800. -/
def tiled : Task := taskWith (2 ^ 50 + 0x9000 / 128) 0 0 0
def signalling : Task := taskWith 0 (2 ^ 63 + 0x9000) (2 ^ 22) 0
def withStatus : Task := taskWith 0 0 0 0x9800

theorem retires (t : Task) (h : t = signalling ∨ t = withStatus ∨ t = taskWith 0 0 0 0) : Retires (exitedTask t) 1 0 3 ⟨t, 0, false⟩ := by
  rcases h with rfl | rfl | rfl <;> refine ⟨?_, ?_, ?_, ?_, ?_, ?_, ?_, ?_⟩ <;> decide +kernel

theorem witness_TaskSteps :
    (let s := queueState 1 (boundQueue [gathered 0x100 1]) (taskWith 0 0 0 0)
     (s.tqAt 3).binding = some boundRecord ∧ (s.tqAt 3).gathers = [] ++ gathered 0x100 1 :: [] ∧
      (gathered 0x100 1).since.toNat + 2000 ≤ s.gtime.toNat) ∧
    (let s := unplacedWave
     (s.tqAt 3).formed = [] ++ (7, gathered 0x100 1) :: [] ∧ s.placeChoice (s.launchAt 7).record.part = .place 7 ∧
      s.resident (s.launchAt 7).record.part = true ∧ s.preempted 7 = [] ∧ s.coreFor (s.launchAt 7) none ≠ none) ∧
    (let s := unstarted (taskWith 0 0 0 0)
     (s.launchAt (s.crew 4).launch).task = some 3 ∧ (s.crew 4).tasks = [⟨taskWith 0 0 0 0, 0, false⟩] ∧ (s.wave 1).threads = [] ∧
      descField (taskWith 0 0 0 0) 3 58 50 = 0 ∧ descField (taskWith 0 0 0 0) 2 58 50 = 0) ∧
    (let s := unstarted tiled
     descField tiled 2 58 50 = 1 ∧ descField tiled 2 49 0 * 128 = 0x9000 ∧ ReachesIn s 0 0x9000 .read 0x9000 0 128 ∧
      s.poisonIn 0x9000 128 = false ∧ ((s.crew 4).page 0).state = .zero ∧ s.translate 0 0x10000000 .read = (s, .absent)) ∧
    ((signalling.word 5).testBit 63 = false ∧ (signalling.word 4).testBit 63 = true ∧ (signalling.word 4).testBit 57 = false ∧
      descField signalling 6 22 22 = 1 ∧ descField signalling 7 56 0 = 0 ∧ field (signalling.word 4) 56 0 = 0x9000 ∧
      ReachesIn (exitedTask signalling) 0 0x9030 .both 0x9030 0 8 ∧ (exitedTask signalling).readNat 0x9030 8 % 2 ^ 16 = 0 ∧
      ((exitedTask signalling).writeNat 0x9030 8 0x30001).readNat 0x9030 8 % 2 ^ 16 = 1 ∧ field 0x30001 21 16 = 3 ∧
      (exitedTask signalling).hubField (tqOf 3 + 8) 20 20 = 1 ∧ (exitedTask signalling).queueUsed 0x103 < 1024 ∧
      ((exitedTask signalling).tqAt 3).released = []) ∧
    (descField withStatus 7 56 0 = 0x9800 ∧ ReachesIn (exitedTask withStatus) 0 0x9800 .write 0x9800 0 8) ∧
    (let s := queueState 1 { TaskQueue.blank with released := [0x9000] } (taskWith 0 0 0 0)
     s.enqueueDue = some 3 ∧ (s.tqAt 3).released = 0x9000 :: [] ∧ State.reset.enqueueDue = none) := by
  unfold ReachesIn Local
  refine ⟨?_, ?_, ?_, ?_, ?_, ?_, ?_⟩ <;> decide +kernel

/-! ### Pages and copies -/

/-- The crew's page 1, resident on core 0 or not, with a backing slot and memory that nothing has written. -/
def paged (p : Page) (resident : Bool) : State :=
  { hubAt [(Off.spback 0, 0x400000), (Off.spback 0 + 8, 0x300000)] with
    crews := [(0, { Crew.blank with live := true, resident := resident, slot := some 0, slots := [0], spw := 4, pages := [(1, p)] })]
    launches := [(0, { Launch.blank with record := placedRecord, state := .active, ended := false })] }
def pageOf (x : PageState) (wb : Bool) (frame : Option Nat) : Page :=
  { state := x, writeback := wb, frame := frame, dirty := [], marks := true }

/-- Every byte of the slot and of the window is 0, and the F bits have changed. -/
theorem clean_page : Clean (paged (pageOf .backed true none) true) 0 1 := by
  have slot : ∀ a, (paged (pageOf .backed true none) true).byte a = 0 := fun _ => rfl
  have window : ∀ o, (paged (pageOf .backed true none) true).spByte 0 o = 0 := by
    intro o
    simp only [State.spByte]
    split
    · exact slot _
    · rfl
  refine ⟨by decide +kernel, fun i _ _ => by rw [slot, window], fun h => ?_, by unfold Apart; decide +kernel⟩
  have : (((paged (pageOf .backed true none) true).crew 0).page 1).marks = true := by decide +kernel
  rw [this] at h
  cases h

/-- A copy command of 32 bytes from 0x8000 to `dst` with CTL `ctl`, EVVA and RESVA. -/
def copyCmd (ctl dst ev res : Nat) (w : Option Pusher) : QCmd :=
  { words := ([ctl, 0, 0x8000, 0, dst, 0, 32, 0, 0, 0, 0, 0, ev, 0, res, 0] : List Nat).map (BitVec.ofNat 32), pasid := 0, pusher := w, batch := 0 }

/-- Engine 0 of the package with a command, a job, and flips. -/
def copier (c : QCmd) (j : Option CopyJob) (flips : List Flip) : State :=
  { (thread [] flatRecord false).setQueue 0 [c] with engines := [(0, ⟨j, none⟩)], flips := flips }
def me : Pusher := ⟨0, 0, 0⟩

theorem witness_PageAndCopySteps :
    (∃ s : State, s.upsets = [] ∧ Clean s 0 1 ∧ ((s.crew 0).page 1).state = .backed ∧ ((s.crew 0).page 1).writeback = true) ∧
    (let s := paged (pageOf .backed false none) true
     (s.crew 0).resident = true ∧ ((s.crew 0).page 1).state = .backed ∧ ((s.crew 0).page 1).writeback = false) ∧
    (let s := paged (pageOf .backed true (some 0)) true
     ((s.crew 0).page 1).frame = some (s.crew 0).core ∧ ((s.crew 0).page 1).writeback = true) ∧
    ((((paged (pageOf .backed true (some 3)) true).crew 0).page 1).frame ≠ some ((paged (pageOf .backed true (some 3)) true).crew 0).core ∧
      ((paged (pageOf .pinned false none) false).crew 0).resident = false) ∧
    (let c := copyCmd 1 0x9000 0 0 none
     let s := copier c none []
     s.upsets = [] ∧ (s.engineAt 0).job = none ∧ s.queueAt 0 = c :: [] ∧ s.copyOk c = true ∧ c.verify = false ∧ c.ssp = false ∧
      c.dsp = false ∧ c.chain = false ∧ OnePage c.src c.len ∧ OnePage c.dst c.len ∧ Apart c.src c.len c.dst c.len ∧
      ReachesIn (s.setQueue 0 []) 0 0x8000 .read 0x8000 0 32 ∧ ReachesIn (s.setQueue 0 []) 0 0x9000 .write 0x9000 0 32 ∧
      (copier c none [⟨0, 3, 5⟩]).flips = [⟨0, 3, 5⟩]) ∧
    (let s := copier (copyCmd 2 0x9000 0 0 none) none []
     s.copyOk (copyCmd 2 0x9000 0 0 none) = false) ∧
    (let c := copyCmd (1 + 2 ^ 12 + 2 ^ 10) 0x9000 0 0 none
     (copier c none []).copyOk c = true ∧ c.chain = true ∧ ((copier c none []).engineAt 0).previous = none) ∧
    (let c := { copyCmd 1 0x9000 0 0 none with words := ([1, 0, 0x10000000, 0, 0x9000, 0, 32, 0, 0, 0, 0, 0, 0, 0, 0, 0] : List Nat).map (BitVec.ofNat 32) }
     let s := (copier c none []).setQueue 0 []
     s.copyOk c = true ∧ OnePage c.src c.len ∧ s.translate 0 c.src .read = (s, .absent)) ∧
    (let c := copyCmd (1 + 2 ^ 9) 0x80 0 0 (some me)
     let s := copier c none []
     s.copyOk c = true ∧ c.dsp = true ∧ c.pusher = some me ∧ (s.crew 0).live = true ∧ OnePage c.dst c.len ∧
      ((s.crew 0).page (c.dst / 4096)).state = .pinned) ∧
    (let j : CopyJob := ⟨copyCmd 1 0x9000 0x9800 0 none, 1, 0, 32, none⟩
     let s := copier (copyCmd 1 0x9000 0 0 none) (some j) []
     (s.engineAt 0).job = some j ∧ j.cmd.pusher = none ∧ j.cmd.resva = 0 ∧ j.cmd.evva = 0x9800 ∧
      ReachesIn s 0 0x9800 .both 0x9800 0 8 ∧ ReachesIn s 0 0x9800 .write 0x9800 0 16 ∧
      (copyCmd 1 0x9000 0 0x9800 none).resva = 0x9800 ∧ (copyCmd 1 0x9000 0 0 none).evva = 0) ∧
    (let j : CopyJob := ⟨copyCmd (1 + 2 ^ 15) 0x9000 0 0 (some me), 1, 0, 32, none⟩
     let s := copier (copyCmd 1 0x9000 0 0 none) (some j) []
     j.cmd.pusher = some me ∧ (s.crew 0).resident = true ∧ (s.launchAt (s.crew 0).launch).record.rbk = false ∧
      (s.thread 0 0).block = none ∧ j.cmd.gv = true ∧ j.cmd.gate % 128 = 0 ∧ ((s.crew 0).page (j.cmd.gate / 4096)).state = .pinned) := by
  refine ⟨⟨paged (pageOf .backed true none) true, rfl, clean_page, by decide +kernel⟩, ?_⟩
  unfold OnePage Apart ReachesIn Local
  refine ⟨?_, ?_, ?_, ?_, ?_, ?_, ?_, ?_, ?_, ?_⟩ <;> decide +kernel

theorem witness_ErrorInjection :
    (let c := fun l => ({ words := (l ++ List.replicate (16 - l.length) 0).map (BitVec.ofNat 32), pasid := 0, pusher := none, batch := 0 } : QCmd)
     ((c [1, 0, 5, 0, 9]).word64 0 = 1 ∧ (c [1, 0, 5, 0, 9]).word64 1 < 2 ^ 11 ∧ (c [1, 0, 5, 0, 9]).word64 2 < 2 ^ 32 ∧
      (c [1, 0, 5, 0, 9]).restZero 3 = true) ∧
     ((c [2, 0, 0x8000]).word64 0 = 2 ∧ (c [2, 0, 0x8000]).word64 1 = 0x8000 ∧ (c [2, 0, 0x8000]).restZero 2 = true) ∧ (c [3]).word64 0 ≠ 1) ∧
    ReachesIn running 0 0x8000 .write 0x8000 0 32 ∧ running.translate 0 0x10000000 .write = (running, .absent) := by
  unfold ReachesIn Local
  refine ⟨by decide +kernel, by decide +kernel, by decide +kernel⟩

/-! ### The decoder, the step, memory -/

theorem witness_RoundTrip : (Instr.iadd addF).encoded = true ∧ (Instr.iadd addF).wf plainCtx = true := by decide

theorem witness_DecodingIsExact :
    (∃ i, decode plainCtx (slotWords 0xFFFFF000 0xFFFFFFFF 0x000003BF) = .ok i) ∧
    Op.ofCode (Raw.ofWord (fieldWord 0x011 2047 2047 2047 2047 2047 0 0)).opc = none ∧
    Op.ofCode (Raw.ofWord (slotWords 0x1E7FFF02 0xFF000003 0x800003BF)).opc = some .wspill ∧ plainCtx.trapMode = false ∧
    Op.ofCode (Raw.ofWord (fieldWord 0x101 1751 2 3 2047 2047 0 0)).opc = some .isub :=
  ⟨⟨.nop bare, by decide +kernel⟩, by decide +kernel, by decide +kernel, rfl, by decide +kernel⟩

/-- An input at hand; nothing due and a bundle to issue; nothing to do. -/
theorem witness_StepRuns :
    (let s := { State.reset with inputs := [.nop bare] }
     s.prologue.inputs = .nop bare :: [] ∧ s.prologue.boot.safe = false ∧ managedStep .getVersion = true ∧ managedStep (.nop bare) = false) ∧
    (let p := (State.reset.placed 0).prologue
     p.inputs = [] ∧ p.dueRow = none ∧ (p.issueNow.map (·.lanes)) = some (BitVec.allOnes 32)) ∧
    (let p := { State.reset.placed 0 with queues := [(0x1F0, [copyCmd 1 0x9000 0 0 none])] }.prologue
     p.inputs = [] ∧ p.dueRow ≠ none) ∧
    (let p := { State.reset.placed 0 with waves := [], crews := [], launches := [] }.prologue
     p.inputs = [] ∧ p.dueRow = none ∧ p.issueNow = none) := by
  refine ⟨?_, ?_, ?_, ?_⟩ <;> decide +kernel

theorem witness_MemoryForm : State.reset.memOk ∧ ∃ t, step { State.reset with inputs := [.nop bare] } = .next t :=
  ⟨by unfold State.memOk; decide, _, rfl⟩

/-! ### Further clauses -/

/-- Core 0 in its test, which it took for a cause, after `n` automatic quarantines. -/
def testing (cause : LeaveCause) (n : Nat) (back : Bool) (r : Option ServiceReq) : State :=
  serviceState 1 2 { CoreState.blank with cause := cause, quarantinedAt := List.replicate n 0, wayBack := back } r

theorem witness_ServiceSteps_causes :
    (let s := testing .automatic 2 false none
     qstateOf s 0 = 2 ∧ (s.coreAt 0).cause = .automatic ∧ s.hubRead (marginAt 0 + 0x18) % 2 ^ 8 < 3) ∧
    3 ≤ (testing .automatic 3 false none).hubRead (marginAt 0 + 0x18) % 2 ^ 8 ∧
    ((testing .requested 0 false (some (.coreOut 0))).coreAt 0).cause = .requested ∧
    (let s := testing .cluster 0 false (some (.clusterOut 0))
     (s.coreAt 0).cause = .cluster ∧ s.service = some (.clusterOut (0 / 4)) ∧ ¬ ∀ i ∈ siblings 0, qstateOf s i = 3) ∧
    (let s := [1, 2, 3].foldl (fun s i => s.hubPut (marginAt i + 8) 0x300) (testing .cluster 0 false (some (.clusterOut 0)))
     ∀ i ∈ siblings 0, qstateOf s i = 3) ∧
    (let s := testing .requested 0 true (some (.coreBack 0))
     qstateOf s 0 = 2 ∧ (s.coreAt 0).wayBack = true) ∧
    (let s := { serviceState 1 0 CoreState.blank none with fenced := 1 }
     s.service = none ∧ s.fenced.getLsbD 0 = true) := by
  decide +kernel

/-- The products 3 · 2.5 and 1 · 2^-20; an infinity; a NaN. -/
theorem witness_MatrixArithmetic_groups :
    Weighs [3, 1] 0 [.val 5 (-1), .val 1 (-20)] 0 2 ∧ (∀ k m x, finiteAt [.val 5 (-1), .val 1 (-20)] k = some (m, x) → -20 ≤ 0 + x) ∧
    Infinite [-3] [.inf false] 0 true ∧ NanProduct [0] [.inf false] 0 ∧ (slotOfBits 0x1321).fmt = 0x21 ∧ (slotOfBits 0x1321).gsz ≠ 0 ∧
    (slotOfBits 0x720).fmt = 0x20 := by
  refine ⟨⟨by decide, 5, -1, rfl, by decide, by decide⟩, ?_, ⟨by decide, by decide, rfl⟩, ⟨by decide, .inr ⟨rfl, false, rfl⟩⟩, by decide +kernel,
    by decide +kernel, by decide +kernel⟩
  intro k m x h
  match k with
  | 0 | 1 => cases h; decide
  | k + 2 => cases h; decide

/-- Root port 0 checks the ECRC, or turns translated requests away. -/
def checking : State := (mapped (laneState [[]])).hubPut 0x1000 0x90005
def blocking : State := { mapped (laneState [[]]) with cfg := [(portCfgAt 0 0xD04, 0x00020000)] }

theorem witness_InboundSteps_refusals :
    (∀ t, ¬ Admitted checking 0 0x100 t true) ∧ (∀ b, ¬ Admitted blocking 0 0x100 true b) ∧
    (let s := { mapped (laneState [[]]) with atsHolders := [⟨0, 0x100, 0, 0x8000, 0x8000, 12, true, false⟩] }
     let r := { request 0x8000 false none with translated := true }
     s.hubGet 0x1800 = 0 ∧ r.rid ∉ s.distrusted ∧ Passes s r ∧ s.regionAt 0x8000 = .hbm ∧ Local s 0x8000 4 ∧
      (∃ g ∈ s.atsHolders, g.rid = r.rid ∧ g.pa ≤ 0x8000 ∧ 0x8000 < g.pa + 2 ^ g.bits ∧ g.rd = true) ∧
      (mapped (laneState [[]])).atsHolders = [] ∧ (mapped (laneState [[]])).flushWait = none) := by
  refine ⟨fun t h => absurd (h.1 rfl) (by decide +kernel), fun b h => absurd (h.2.2 (by decide +kernel)) (by decide), ?_⟩
  unfold Passes Admitted Local
  decide +kernel

/-- A resize of the 2 MiB table whose bucket 3 of way 0 holds the entry of page 5. -/
def moving : State :=
  let r : Resize := ⟨0x2000, 2, false⟩
  let s := { ((tables 0).writeNat 0x2038 8 0x6025).writeNat 0x2040 8 15 with tableResize := [r] }
  s.writeNat (0x3000 + 15 * 64) 16 (page2M 5)

theorem witness_TableSteps_moves :
    (let s := moving
     let slots := (List.range 3).flatMap fun w => (List.range 4).map fun j => 0x3000 + (w * 2 ^ 4 + 15) * 64 + 16 * j
     let a := 0x3000 + 15 * 64
     let va := entryVa (s.entryAt a)
     let homes := ((List.range 3).filter fun w => bucketHash w (va >>> 21) 4 ≤ 15).flatMap fun w =>
       (List.range 4).map fun j => 0x6000 + (w * 2 ^ 5 + bucketHash w (va >>> 21) 5) * 64 + 16 * j
     a ∈ slots ∧ field (s.entryAt a) 0 0 ≠ 0 ∧ (∀ c ∈ slots, c ≠ a → field (s.entryAt c) 0 0 = 0) ∧ slots.Nodup ∧
      (∀ c ∈ slots, Apart c 16 0x2030 24) ∧ (∀ h ∈ homes, Apart h 16 0x2030 24 ∧ ∀ c ∈ slots, Apart h 16 c 16) ∧
      (homes.find? fun h => field (s.entryAt h) 0 0 != 1).isSome = true) ∧
    (let f : FlushWait := { hart := 0, since := 0, result := 0, rids := [1], tags := [], crews := [] }
     f.since.toNat + 10000000 ≤ (10000000 : DWord).toNat ∧ ¬ f.since.toNat + 10000000 ≤ (9999999 : DWord).toNat) ∧
    (∀ t, ¬ Admitted checking 0 0x100 t true) := by
  refine ⟨?_, by decide +kernel, fun t h => absurd (h.1 rfl) (by decide +kernel)⟩
  unfold Apart
  decide +kernel

/-- A hart has a store under way to a peer. -/
theorem witness_HubSteps_waits :
    ∃ o ∈ ({ running with outstanding := [{ toPeer with who := .hart 2 }] } : State).outstanding,
      o.who = .hart 2 ∧ o.access.kind = .store := by decide +kernel

/-- The crew on core 0 must move: out of service with no core to go to, due for a test, behind another of its core. -/
theorem witness_Migration :
    (let s := (crewed.hubPut 0x30008 0x100).hubPut (Off.part 0) 0
     s.coreInService (s.crew 0).core = false ∧ s.resident (s.launchAt 0).record.part = true ∧ s.otherMoves 0 = false ∧
      s.coreFor (s.launchAt 0) (some 0) = none ∧ s.victims (s.launchAt 0).record.part (s.launchAt 0).record.prio = []) ∧
    (let s := { crewed.hubPut (Off.part 0) 0 with cores := [(0, { CoreState.blank with iftDue := true })] }
     s.coreInService (s.crew 0).core = true ∧ (s.coreAt (s.crew 0).core).iftDue = true ∧ s.coreFor (s.launchAt 0) (some 0) = none ∧
      s.victims (s.launchAt 0).record.part (s.launchAt 0).record.prio = []) ∧
    (let s := crewed.hubPut 0x30008 0x100
     ({ s with crews := s.crews ++ [(5, { s.crew 0 with stopping := true })] } : State).otherMoves 0 = true) ∧
    (let s := (twoParts 0 4).hubPut (Off.part 2) 1
     ({ s with swaps := [⟨0, 1, true⟩] } : State).setSwaps 2 = true) := by
  refine ⟨?_, ?_, ?_, ?_⟩ <;> decide +kernel

/-- Slots at and past the end of %gtime; one slot alone; a held slot that is late when another is due; an unaligned descriptor. -/
theorem witness_ThymeSlots :
    (let e := (thymeState fun e => { e with period := BitVec.allOnes 64 }).thymeAt 0
     e.period ≠ 0 ∧ ¬ e.next.toNat + (1050 - e.next.toNat) / e.period.toNat * e.period.toNat + e.period.toNat < 2 ^ 64) ∧
    ((thymeState fun e => { e with period := 0 }).thymeAt 0).period = 0 ∧
    (let s := thymeState fun e => { e with instLaunch := some 0, state := 2, rule := 1, held := some 1000, maxlate := 49 }
     let e := s.thymeAt 0
     e.next.toNat ≤ s.gtime.toNat ∧ e.held = some 1000 ∧ (1000 : DWord).toNat + e.maxlate.toNat < s.gtime.toNat) ∧
    (let s := thymeState fun e => { e with instLaunch := some 0, state := 2, rule := 1, held := some 1000, maxlate := 60 }
     (s.thymeAt 0).held = some 1000 ∧ s.gtime.toNat ≤ (1000 : DWord).toNat + (s.thymeAt 0).maxlate.toNat) ∧
    (let c : QCmd := { words := postWords 0x9008, pasid := 0, pusher := none, batch := 0, released := true }
     c.postOk = false ∧ c.released = true ∧ c.names = true) ∧
    ((unstarted tiled).framesHeld ((unstarted tiled).crew 4).core).length < 256 := by
  refine ⟨?_, ?_, ?_, ?_, ?_, ?_⟩ <;> decide +kernel

/-- A frame that the slot holds alike; a free frame; a result record at a domain peer, and one that is acknowledged. -/
theorem witness_Frames : Alike (paged (pageOf .backed false (some 0)) true) 0 1 ∧
    ((paged (pageOf .backed false none) true).framesHeld 0).length < 256 ∧
    (let s := { copier (copyCmd 1 0x9000 0 0 none) (some ⟨copyCmd 1 0x9000 0 0x9800 none, 1, 0, 32, some 9⟩) [] with outstanding := [toPeer] }
     (∃ o ∈ s.outstanding, o.tag = 9) ∧ ∀ o ∈ s.outstanding, o.tag ≠ 8) := by
  have slot : ∀ a, (paged (pageOf .backed false (some 0)) true).byte a = 0 := fun _ => rfl
  refine ⟨⟨fun i _ => ?_, fun j _ => ?_⟩, by decide +kernel, by decide +kernel⟩
  · simp only [State.spByte, slot]
    split <;> rfl
  · simp only [State.spFull, slot]
    split
    · exact (BitVec.getLsbD_zero).symm
    · rfl

/-- A domain peer that a result record goes to: space 0 maps 0x200000 there. -/
def recordAtPeer : State :=
  let s := ((running.hubPut Off.ubnorId 0x100).hubPut (Off.ubnorRoute 3) 1)
  s.writeNat 0x3000 16 (0xCF + 7 * 2 ^ 10 + (0x8000000000000 + 3 * 2 ^ 43) / 4096 * 2 ^ 16)

theorem witness_CopyRecords :
    let pa := 0x8000000000000 + 3 * 2 ^ 43 + 0x9800
    recordAtPeer.translate 0 0x9800 .write = (recordAtPeer, .ok pa 7) ∧ recordAtPeer.isPeer pa = true ∧ recordAtPeer.peerReachable pa = true := by
  decide +kernel
end Sys2Proof.Tests
end

section
/-!
Integer and address instructions (14_isa_integer.md): the arithmetic of exact integers in words, and the statements about
sums, products, divisions, minima, shifts and bits.
-/

open Sys2Proof.Says

namespace Sys2Proof.Machine

/-! ### Exact integers in words -/

/-- An exact function of A, or of A and B, or of A, B and C, takes its X from its sources alone (R398). -/
@[simp] theorem int1_exactly (f : Fields) (c : Ctx) (l : Nat) (g : Word → Word) :
    (int1 f c l fun a => exactly (g a)) = c.put32 l f.d (g (c.a32 l f).val) (c.a32 l f).x := by
  simp only [int1, exactly, Bool.or_false]

@[simp] theorem int2_exactly (f : Fields) (c : Ctx) (l : Nat) (g : Word → Word → Word) :
    (int2 f c l fun a b => exactly (g a b)) =
      c.put32 l f.d (g (c.a32 l f).val (c.b32 l f).val) ((c.a32 l f).x || (c.b32 l f).x) := by
  simp only [int2, exactly, Bool.or_false]

@[simp] theorem int3_exactly (f : Fields) (c : Ctx) (l : Nat) (g : Word → Word → Word → Word) :
    (int3 f c l fun a b k => exactly (g a b k)) =
      c.put32 l f.d (g (c.a32 l f).val (c.b32 l f).val (c.c32 l f).val) ((c.a32 l f).x || (c.b32 l f).x || (c.c32 l f).x) := by
  simp only [int3, exactly, Bool.or_false]

/-- The statements read a word as the model does. -/
theorem int_eq_asInt {w : Nat} (v : BitVec w) (unsigned : Bool) : int v unsigned = BitVec.asInt v unsigned := rfl

@[simp] theorem asInt_true {w : Nat} (v : BitVec w) : BitVec.asInt v true = v.toNat := rfl
@[simp] theorem asInt_false {w : Nat} (v : BitVec w) : BitVec.asInt v false = v.toInt := rfl

/-- The word is the residue of its value, in either reading. -/
@[simp] theorem ofInt_asInt {w : Nat} (v : BitVec w) (unsigned : Bool) : BitVec.ofInt w (BitVec.asInt v unsigned) = v := by
  cases unsigned <;> simp [BitVec.ofInt_natCast]

theorem ofInt_sub {w : Nat} (x y : Int) : BitVec.ofInt w (x - y) = BitVec.ofInt w x - BitVec.ofInt w y := by
  rw [Int.sub_eq_add_neg, BitVec.ofInt_add, BitVec.ofInt_neg, BitVec.sub_eq_add_neg]

@[simp] theorem narrow_modular (w : Nat) (unsigned : Bool) (e : Int) :
    narrow w false unsigned e = ⟨BitVec.ofInt w e, false⟩ := rfl

/-- Clamping by two bounds, as a case split. -/
theorem max_min_eq_ite (lo hi e : Int) (h : lo ≤ hi) :
    max lo (min e hi) = if e < lo then lo else if hi < e then hi else e := by
  split_ifs <;> omega

theorem narrow_clamped (w : Nat) (unsigned : Bool) (e : Int) :
    narrow w true unsigned e = ⟨(clamped w unsigned e).1, (clamped w unsigned e).2⟩ := by
  have hu : (0 : Int) < 2 ^ w := Int.pow_pos (by decide)
  have hs : (0 : Int) < 2 ^ (w - 1) := Int.pow_pos (by decide)
  cases unsigned
  all_goals
    simp only [narrow, clamped, clampInt, Bool.false_eq_true, if_true, if_false]
    rw [max_min_eq_ite _ _ e (by omega)]
    split_ifs <;> simp <;> omega

/-! ### Sums and differences (R400) -/

theorem addExact_carry (sub : Bool) (a b : Int) (cin : Bool) : addExact sub a b cin =
    if sub then a - b - (if cin then 1 else 0 : Nat) else a + b + (if cin then 1 else 0 : Nat) := by
  cases cin <;> rfl

theorem ofInt_addExact {w : Nat} (sub : Bool) (a b : BitVec w) (cin : Bool) :
    BitVec.ofInt w (addExact sub a.toNat b.toNat cin) =
      if sub then a - b - BitVec.ofNat w (if cin then 1 else 0) else a + b + BitVec.ofNat w (if cin then 1 else 0) := by
  rw [addExact_carry]
  cases sub <;> simp [BitVec.ofInt_add, ofInt_sub, -Nat.cast_ite, BitVec.ofInt_natCast]

/-- What a sum or difference writes, whatever the width: the words' own sum, or the exact one clamped. -/
theorem put_sum {w : Nat} (put : BitVec w → Bool → List (Dst × Reg)) (sub sat unsigned cin x : Bool) (a b : BitVec w) :
    (let r : Opnd w :=
        if sat then narrow w true unsigned (addExact sub (BitVec.asInt a unsigned) (BitVec.asInt b unsigned) cin)
        else narrow w false true (addExact sub a.toNat b.toNat cin);
      put r.val (x || r.x)) =
    (let n := if cin then 1 else 0
      let r := clamped w unsigned
        (if sub then int a unsigned - int b unsigned - (n : Nat) else int a unsigned + int b unsigned + (n : Nat))
      if sat then put r.1 (x || r.2)
      else put (if sub then a - b - BitVec.ofNat w n else a + b + BitVec.ofNat w n) x) := by
  cases sat
  · simp [ofInt_addExact]
  · simp [narrow_clamped, addExact_carry, int_eq_asInt]

/-- Settles O1: a modular result is the words' own sum or difference, a saturated one the exact value clamped. -/
theorem integerSums : Obligations.IntegerSums := by
  unfold Obligations.IntegerSums
  intro s f hI
  refine ⟨fun h => .of_alu rfl rfl hI h fun l => ?_, fun h => .of_alu rfl rfl hI h fun l => ?_,
    fun h => .of_alu rfl rfl hI h fun l => ?_, fun h => .of_alu rfl rfl hI h fun l => ?_⟩
  · exact congrArg (· ++ _) (put_sum (s.ctx.put32 l f.d) false ..)
  · exact congrArg (· ++ _) (put_sum (s.ctx.put32 l f.d) true ..)
  · exact congrArg (· ++ _) (put_sum (s.ctx.put64 l f.d) false ..)
  · exact congrArg (· ++ _) (put_sum (s.ctx.put64 l f.d) true ..)

/-! ### Products (R401) -/

/-- What a multiply-add writes: the exact value modulo 2^32, or clamped. -/
theorem put_narrow {w : Nat} (put : BitVec w → Bool → List (Dst × Reg)) (sat unsigned x : Bool) (e : Int) :
    (let r : Opnd w := narrow w sat unsigned e;
      put r.val (x || r.x)) =
    (let r := clamped w unsigned e
      if sat then put r.1 (x || r.2) else put (BitVec.ofInt w e) x) := by
  cases sat
  · simp
  · simp [narrow_clamped]

theorem ofInt_multiplyAdd {w : Nat} (a b : Int) (c : BitVec w) (unsigned : Bool) :
    BitVec.ofInt w (a * b + BitVec.asInt c unsigned) = BitVec.ofInt w a * BitVec.ofInt w b + c := by
  rw [BitVec.ofInt_add, BitVec.ofInt_mul, ofInt_asInt]

/-- Settles O2: reduction modulo 2^w respects products and sums, and the reading of a word is one of its residues. -/
theorem integerProducts : Obligations.IntegerProducts := by
  unfold Obligations.IntegerProducts
  intro s f hI
  refine ⟨fun h => .of_alu rfl rfl hI h fun l => ?imul, fun h => .of_alu rfl rfl hI h fun l => ?imulh,
    fun h => .of_alu rfl rfl hI h fun l => ?imad, fun h => .of_alu rfl rfl hI h fun l => ?imadw,
    fun h => .of_alu rfl rfl hI h fun l => ?idp4⟩
  case imul => exact int2_exactly f s.ctx l (· * ·)
  case imulh => simp only [int2_exactly, int_eq_asInt]
  case imad =>
    refine (put_narrow (s.ctx.put32 l f.d) ..).trans ?_
    simp [ofInt_multiplyAdd, int_eq_asInt]
  case imadw => simp [ofInt_multiplyAdd, int_eq_asInt]
  case idp4 =>
    refine (put_narrow (s.ctx.put32 l f.d) ..).trans ?_
    simp [int_eq_asInt, List.range_succ]

/-! ### Division (R402) -/

theorem ofInt_tdiv (a b : Word) (unsigned : Bool) :
    BitVec.ofInt 32 ((BitVec.asInt a unsigned).tdiv (BitVec.asInt b unsigned)) = if unsigned then a / b else a.sdiv b := by
  cases unsigned
  · exact BitVec.eq_of_toInt_eq (by simp [BitVec.toInt_ofInt, BitVec.toInt_sdiv])
  · simp only [asInt_true, ← Int.ofNat_tdiv, ← BitVec.toNat_udiv, BitVec.ofInt_natCast, if_true, BitVec.ofNat_toNat,
      BitVec.setWidth_eq]

theorem ofInt_tmod (a b : Word) (unsigned : Bool) :
    BitVec.ofInt 32 ((BitVec.asInt a unsigned).tmod (BitVec.asInt b unsigned)) = if unsigned then a % b else a.srem b := by
  cases unsigned
  · simp [← BitVec.toInt_srem]
  · simp only [asInt_true, ← Int.ofNat_tmod, ← BitVec.toNat_umod, BitVec.ofInt_natCast, if_true, BitVec.ofNat_toNat,
      BitVec.setWidth_eq]

/-- The one signed quotient out of range, by words and by values. -/
theorem overflows_iff (a b : Word) (unsigned : Bool) :
    (!unsigned && a.toInt == -2 ^ 31 && b.toInt == -1) = true ↔
      (!unsigned && a = 0x80000000 && b = BitVec.allOnes 32) = true := by
  have ha : a.toInt = -2 ^ 31 ↔ a = 0x80000000 := BitVec.toInt_inj (y := 0x80000000#32)
  have hb : b.toInt = -1 ↔ b = BitVec.allOnes 32 := BitVec.toInt_inj (y := BitVec.allOnes 32)
  simp only [Bool.and_eq_true, beq_iff_eq, decide_eq_true_eq, ha, hb]

theorem divide_quotient (unsigned : Bool) (a b : Word) : divide false unsigned a b =
    if b = 0 then ⟨if unsigned then 0xFFFFFFFF else if 0 ≤ a.toInt then 0x7FFFFFFF else 0x80000000, true⟩
    else if !unsigned && a.toInt == -2 ^ 31 && b.toInt == -1 then ⟨0x7FFFFFFF, true⟩
    else ⟨if unsigned then a / b else a.sdiv b, false⟩ := by
  simp only [divide, overflows_iff, ofInt_tdiv, Bool.false_eq_true, if_false]
  rfl

theorem divide_remainder (unsigned : Bool) (a b : Word) : divide true unsigned a b =
    if b = 0 then ⟨a, true⟩
    else if !unsigned && a.toInt == -2 ^ 31 && b.toInt == -1 then ⟨0, false⟩
    else ⟨if unsigned then a % b else a.srem b, false⟩ := by
  simp only [divide, overflows_iff, ofInt_tmod, if_true]

/-- Settles O3: the corners are the same tests on words and on values; elsewhere truncated quotient and remainder. -/
theorem integerDivision : Obligations.IntegerDivision := by
  unfold Obligations.IntegerDivision
  intro s f hI
  refine ⟨fun h => .of_aluVar rfl rfl hI h fun l => ?_, fun h => .of_aluVar rfl rfl hI h fun l => ?_⟩
  · simp only [int2, divide_quotient]
    split_ifs <;> simp only [Bool.or_true, Bool.or_false]
  · simp only [int2, divide_remainder]
    split_ifs <;> simp only [Bool.or_true, Bool.or_false]

/-! ### Minimum, maximum, absolute value and negation (R403) -/

theorem asInt_lt_iff {w : Nat} (a b : BitVec w) (unsigned : Bool) :
    BitVec.asInt a unsigned < BitVec.asInt b unsigned ↔ (if unsigned then a.ult b else a.slt b) = true := by
  cases unsigned
  · exact BitVec.slt_iff_toInt_lt.symm
  · simp [BitVec.ult_iff_toNat_lt]

theorem asInt_inj {w : Nat} {a b : BitVec w} {unsigned : Bool} (h : BitVec.asInt a unsigned = BitVec.asInt b unsigned) :
    a = b := by
  simpa using congrArg (BitVec.ofInt w) h

/-- The lesser of two words: where the model takes A and the statement B, they are equal. -/
theorem lesser_eq {w : Nat} (a b : BitVec w) (unsigned : Bool) :
    (if BitVec.asInt a unsigned ≤ BitVec.asInt b unsigned then a else b) =
      if (if unsigned then a.ult b else a.slt b) then a else b := by
  simp only [← asInt_lt_iff]
  split_ifs with hle hlt hlt
  · rfl
  · exact asInt_inj (le_antisymm hle (not_lt.mp hlt))
  · exact absurd hlt.le hle
  · rfl

theorem greater_eq {w : Nat} (a b : BitVec w) (unsigned : Bool) :
    (if BitVec.asInt a unsigned ≥ BitVec.asInt b unsigned then a else b) =
      if (if unsigned then a.ult b else a.slt b) then b else a := by
  simp only [← asInt_lt_iff]
  split_ifs with hge hlt hlt
  · exact absurd hlt (not_lt.mpr hge)
  · rfl
  · rfl
  · exact absurd (not_lt.mp hlt) hge

/-- A value in range is written as it is, saturating or not. -/
theorem narrow_of_mem {w : Nat} {sat : Bool} {e : Int} (hlo : -2 ^ (w - 1) ≤ e) (hhi : e < 2 ^ (w - 1)) :
    narrow w sat false e = ⟨BitVec.ofInt w e, false⟩ := by
  have hc : clampInt e w false = e := by
    simp only [clampInt, Bool.false_eq_true, if_false]
    omega
  cases sat
  · rfl
  · simp [narrow, hc]

/-- Every word but -2^31 has its negative in range. -/
theorem toInt_gt_of_ne {a : Word} (h : a ≠ 0x80000000) : -2 ^ 31 < a.toInt :=
  lt_of_le_of_ne (BitVec.le_toInt a) fun e => h (BitVec.eq_of_toInt_eq (y := 0x80000000#32) e.symm)

theorem narrow_neg (sat : Bool) (a : Word) : narrow 32 sat false (-a.toInt) =
    if a = 0x80000000 then (if sat then ⟨0x7FFFFFFF, true⟩ else ⟨0x80000000, false⟩) else ⟨-a, false⟩ := by
  split_ifs with hmin hsat
  · subst hmin hsat; rfl
  · rw [hmin, Bool.eq_false_of_not_eq_true hsat]; rfl
  · have hlo := toInt_gt_of_ne hmin
    have hhi : a.toInt < 2 ^ 31 := BitVec.toInt_lt
    rw [narrow_of_mem (by omega) (by omega), BitVec.ofInt_neg, BitVec.ofInt_toInt]

theorem narrow_natAbs (sat : Bool) (a : Word) : narrow 32 sat false (a.toInt.natAbs : Int) =
    if a = 0x80000000 then (if sat then ⟨0x7FFFFFFF, true⟩ else ⟨0x80000000, false⟩)
    else ⟨if a.slt 0 then -a else a, false⟩ := by
  have hneg : a.slt 0 = true ↔ a.toInt < 0 := BitVec.slt_iff_toInt_lt
  by_cases hn : a.toInt < 0
  · rw [Int.ofNat_natAbs_of_nonpos hn.le, narrow_neg, if_pos (hneg.mpr hn)]
  · have hhi : a.toInt < 2 ^ 31 := BitVec.toInt_lt
    have hmin : a ≠ 0x80000000 := by rintro rfl; exact hn (by decide)
    rw [Int.natAbs_of_nonneg (not_lt.mp hn), narrow_of_mem (by omega) (by omega), BitVec.ofInt_toInt, if_neg hmin,
      if_neg (mt hneg.mp hn)]

/-! ### Shifts and rotates (R404) -/

/-- The count under WRAP is the low five bits. -/
theorem toNat_and_31 (b : Word) : (b &&& 31).toNat = b.toNat % 32 := Nat.and_two_pow_sub_one_eq_mod b.toNat 5

theorem shiftCount_eq (wrap : Bool) (b : Word) : shiftCount wrap b = if wrap then (b &&& 31).toNat else b.toNat := by
  rw [shiftCount, toNat_and_31]

theorem shiftLeft_eq_ite (a : Word) (n : Nat) : (if n ≥ 32 then 0 else a <<< n) = a <<< n := by
  split_ifs with h
  · exact (BitVec.shiftLeft_eq_zero h).symm
  · rfl

theorem ushiftRight_min (a : Word) (n : Nat) : a >>> min 32 n = a >>> n := by
  rcases le_total 32 n with h | h
  · rw [min_eq_left h, BitVec.ushiftRight_eq_zero h, BitVec.ushiftRight_eq_zero le_rfl]
  · rw [min_eq_right h]

theorem sshiftRight_min (a : Word) (n : Nat) : a.sshiftRight (min 32 n) = a.sshiftRight n := by
  rcases le_total 32 n with h | h
  · ext i hi
    rw [min_eq_left h, BitVec.getElem_sshiftRight, BitVec.getElem_sshiftRight, dif_neg (by omega), dif_neg (by omega)]
  · rw [min_eq_right h]

/-- Settles O4: ties of minimum and maximum are equal words, only -2^31 has no negative, and counts past the width shift all
bits out. -/
theorem minMaxAndShifts : Obligations.MinMaxAndShifts := by
  unfold Obligations.MinMaxAndShifts
  intro s f hI
  refine ⟨fun h => .of_alu rfl rfl hI h fun l => ?shl, fun h => .of_alu rfl rfl hI h fun l => ?shr,
    fun h => .of_alu rfl rfl hI h fun l => ?shf, fun h => .of_alu rfl rfl hI h fun l => ?rot,
    fun h => .of_alu rfl rfl hI h fun l => ?imin, fun h => .of_alu rfl rfl hI h fun l => ?imax,
    fun h => .of_alu rfl rfl hI h fun l => ?iabs, fun h => .of_alu rfl rfl hI h fun l => ?ineg⟩
  case shl => simp only [int2_exactly, shiftLeft_eq_ite, shiftCount_eq]
  case shr => simp only [int2_exactly, ushiftRight_min, sshiftRight_min, shiftCount_eq]
  case shf => simp only [int3_exactly, min_def, shiftCount_eq, lo32, hi32]
  case rot =>
    have hlt : ∀ b : Word, b.toNat % 32 % 32 = b.toNat % 32 := fun b => Nat.mod_mod ..
    simp only [int2_exactly, BitVec.rotateLeft_def, BitVec.rotateRight_def, toNat_and_31, hlt]
  case imin => simp only [int2_exactly, lesser_eq]
  case imax => simp only [int2_exactly, greater_eq]
  case iabs =>
    simp only [int1, narrow_natAbs]
    split_ifs <;> simp only [Bool.or_true, Bool.or_false]
  case ineg =>
    simp only [int1, narrow_neg]
    split_ifs <;> simp only [Bool.or_true, Bool.or_false]

/-! ### Bit instructions (R405 to R409) -/

theorem getLsbD_wordOf (g : Nat → Bool) {i : Nat} (hi : i < 32) : (wordOf g).getLsbD i = g i := by
  rw [wordOf, BitVec.getLsbD_setWidth, BitVec.getLsbD_ofBoolListLE]
  simp [hi]

theorem toNat_and_255 (b : Word) : (b &&& 0xFF).toNat = b.toNat % 256 := Nat.and_two_pow_sub_one_eq_mod b.toNat 8

/-- The extension bit of BFE: the last bit of the field, or A[31] where the field runs past it (R407). -/
theorem extensionBit (a : Word) (uns : Bool) (j : Nat) :
    (!uns && if j ≤ 31 then a.getLsbD j else !uns && a.getLsbD 31) = (!uns && a.getLsbD (min 31 j)) := by
  split_ifs with h
  · rw [min_eq_right h]
  · rw [min_eq_left (by omega), ← Bool.and_assoc, Bool.and_self]

theorem toNat_append_add {m n : Nat} (x : BitVec m) (y : BitVec n) : (x ++ y).toNat = x.toNat * 2 ^ n + y.toNat := by
  rw [BitVec.toNat_append, ← Nat.shiftLeft_add_eq_or_of_lt y.isLt, Nat.shiftLeft_eq]

theorem ofNat_leNat_four (b0 b1 b2 b3 : Byte) : BitVec.ofNat 32 (leNat [b0, b1, b2, b3]) = b3 ++ b2 ++ b1 ++ b0 := by
  refine BitVec.eq_of_toNat_eq ?_
  simp only [toNat_append_add, BitVec.toNat_ofNat, leNat]
  omega

theorem ofNat_halves (h0 h1 : BitVec 16) : BitVec.ofNat 32 (h0.toNat + 2 ^ 16 * h1.toNat) = h1 ++ h0 := by
  refine BitVec.eq_of_toNat_eq ?_
  simp only [toNat_append_add, BitVec.toNat_ofNat]
  omega

theorem shufByte_eq (v : DWord) (sel : Word) (i : Nat) :
    shufByte v sel i = v.extractLsb' (8 * (sel.extractLsb' (3 * i) 3).toNat) 8 := by
  rw [shufByte, field, BitVec.extractLsb'_toNat, show 3 * i + 2 + 1 - 3 * i = 3 by omega]

/-- A byte of BSHUF.zf or .sf whose fill bit is set repeats, under .sf, the sign of the byte below it (R409). -/
def fillByte (v : DWord) (sel : Word) (signFill : Bool) (i : Nat) (below : Byte) : Byte :=
  if sel.getLsbD (12 + i) then (if signFill && below.getLsbD 7 then 0xFF else 0)
  else v.extractLsb' (8 * (sel.extractLsb' (3 * i) 3).toNat) 8

theorem shufBytes_succ (v : DWord) (sel : Word) (signFill : Bool) (n i : Nat) (below : Byte) (h : i = 0 → below = 0) :
    shufBytes v sel signFill (n + 1) i below =
      fillByte v sel signFill i below :: shufBytes v sel signFill n (i + 1) (fillByte v sel signFill i below) := by
  have hbit : (signFill && i ≠ 0 && below.getLsbD 7) = (signFill && below.getLsbD 7) := by
    rcases eq_or_ne i 0 with rfl | hi
    · simp [h rfl]
    · simp [hi]
  rw [shufBytes, hbit, shufByte_eq, ← fillByte]

/-- The four bytes, each over the one below it. -/
theorem ofNat_leNat_shufBytes (v : DWord) (sel : Word) (signFill : Bool) :
    BitVec.ofNat 32 (leNat (shufBytes v sel signFill 4 0 0)) =
      (let b0 := fillByte v sel signFill 0 0
       let b1 := fillByte v sel signFill 1 b0
       let b2 := fillByte v sel signFill 2 b1
       fillByte v sel signFill 3 b2 ++ b2 ++ b1 ++ b0) := by
  rw [shufBytes_succ _ _ _ _ _ _ fun _ => rfl, shufBytes_succ, shufBytes_succ, shufBytes_succ, shufBytes, ofNat_leNat_four]
  all_goals simp

/-- Halfword `h` of BSHUF.h16 as a word. -/
theorem shufHalf_eq (v : DWord) (sel : Word) (h : Nat) :
    (if sel.getLsbD (4 + h) then 0 else (v.toNat >>> (16 * ((sel.toNat >>> (2 * h)) % 4))) % 2 ^ 16) =
      (if sel.getLsbD (4 + h) then 0#16 else v.extractLsb' (16 * (sel.extractLsb' (2 * h) 2).toNat) 16).toNat := by
  split_ifs
  · rfl
  · rw [BitVec.extractLsb'_toNat, BitVec.extractLsb'_toNat]

/-- Settles O5: bit by bit, and for BSHUF byte by byte from byte 0 upward. -/
theorem bitOperations : Obligations.BitOperations := by
  unfold Obligations.BitOperations
  refine ⟨fun g i => getLsbD_wordOf g, fun s f hI => ?_⟩
  refine ⟨fun h => .of_alu rfl rfl hI h fun l => ?logic, fun h => .of_alu rfl rfl hI h fun l => ?popc,
    fun h => .of_alu rfl rfl hI h fun l => ?clz, fun h => .of_alu rfl rfl hI h fun l => ?brev,
    fun h => .of_alu rfl rfl hI h fun l => ?bfe, fun h => .of_alu rfl rfl hI h fun l => ?bfi,
    fun h => .of_alu rfl rfl hI h fun l => ?bshuf⟩
  case logic =>
    simp only [int3_exactly]
    refine congrArg (fun g => s.ctx.put32 l f.d (wordOf g) _) (funext fun i => ?_)
    cases (s.ctx.a32 l f).val.getLsbD i <;> cases (s.ctx.b32 l f).val.getLsbD i <;>
      cases (s.ctx.c32 l f).val.getLsbD i <;> rfl
  case popc => simp only [int1_exactly, List.countP_eq_length_filter]
  case clz => exact int1_exactly ..
  case brev => exact int1_exactly ..
  case bfe => simp only [int3_exactly, toNat_and_255, extensionBit]
  case bfi => simp only [toNat_and_255, Bool.and_eq_true, decide_eq_true_eq]
  case bshuf =>
    simp only [int3_exactly, shufHalf_eq]
    refine congrArg (fun v => s.ctx.put32 l f.d v _) ?_
    match modField f 0 2 with
    | 0 => exact ofNat_leNat_shufBytes _ _ false
    | 1 => exact ofNat_leNat_shufBytes _ _ true
    | m + 2 => exact ofNat_halves _ _

end Sys2Proof.Machine
end

section
/-!
Floating-point arithmetic (15_isa_float.md): what a rounding instruction draws, the sub-elements of a lane and their signs,
and the statement about FADD, FSUB, FMUL and FFMA.
-/

open Sys2Proof.Says

namespace Sys2Proof.Machine

/-! ### The mode of a rounding instruction (R320, R321) -/

/-- The draw is one advance of the generator in mode SRI, and nothing in the others. -/
theorem draw_fst_eq_drawn (s : State) (rnd : Nat) : (s.draw s.ctx.k rnd).1 = drawn s rnd := by
  unfold State.draw drawn
  split <;> rfl

theorem field_byte (w : Word) (i : Nat) : field w.toNat (8 * i + 7) (8 * i) = (w.extractLsb' (8 * i) 8).toNat := by
  rw [field, BitVec.extractLsb'_toNat, show 8 * i + 7 + 1 - 8 * i = 8 by omega]

theorem groupNat_cons (r : Reg) (rs : List Reg) : groupNat (r :: rs) = r.val.toNat + 2 ^ 32 * groupNat rs := rfl

/-- A byte below bit 32 is one of the first register. -/
theorem field_byte_low (w : Word) (n : Nat) {j : Nat} (hj : j < 4) :
    field (w.toNat + 2 ^ 32 * n) (8 * j + 7) (8 * j) = field w.toNat (8 * j + 7) (8 * j) := by
  simp only [field, Nat.shiftRight_eq_div_pow]
  interval_cases j <;> omega

/-- A byte from bit 32 upward is one of the rest of the group. -/
theorem field_byte_high (w : Word) (n j : Nat) :
    field (w.toNat + 2 ^ 32 * n) (8 * (j + 4) + 7) (8 * (j + 4)) = field n (8 * j + 7) (8 * j) := by
  have hrest : (w.toNat + 2 ^ 32 * n) >>> 32 = n := by
    rw [Nat.shiftRight_eq_div_pow]
    omega
  rw [field, field, show 8 * (j + 4) = 32 + 8 * j by omega, Nat.shiftRight_add, hrest,
    show 32 + 8 * j + 7 + 1 - (32 + 8 * j) = 8 * j + 7 + 1 - 8 * j by omega]

/-- Byte `j` of a group of registers is byte `j % 4` of its register `j / 4`. -/
theorem field_groupNat (rs : List Reg) (j : Nat) : field (groupNat rs) (8 * j + 7) (8 * j) =
    ((rs.getD (j / 4) .zero).val.extractLsb' (8 * (j % 4)) 8).toNat := by
  induction rs generalizing j with
  | nil => simp [groupNat, field, Reg.zero]
  | cons r rs ih =>
    rw [groupNat_cons]
    rcases Nat.lt_or_ge j 4 with hj | hj
    · rw [field_byte_low _ _ hj, field_byte, Nat.div_eq_of_lt hj, Nat.mod_eq_of_lt hj, List.getD_cons_zero]
    · obtain ⟨k, rfl⟩ := Nat.exists_eq_add_of_le' hj
      rw [field_byte_high, ih, Nat.add_div_right _ (by decide), List.getD_cons_succ, Nat.add_mod_right]

/-- The side of a protected pair whose lane names the rotation (R320). -/
theorem even_lane (l : Nat) : l / 2 * 2 = l - l % 2 := by omega

theorem randomByte_sri (s : State) (w : Word) (rs : List Reg) (l j : Nat) : s.ctx.randomByte 5 w rs l j =
    (let v := w.rotateLeft (5 * (if s.ctx.lr.prot then l - l % 2 else l) % 32)
      if j < 4 then (v.extractLsb' (8 * j) 8).toNat else ((~~~v).extractLsb' (8 * (j % 4)) 8).toNat) := by
  simp only [Ctx.randomByte, if_true, field_byte, even_lane]
  by_cases hj : j < 4
  · simp only [hj, if_true, Nat.mod_eq_of_lt]
  · simp only [hj, if_false]

theorem randomByte_srx (s : State) (w : Word) (rs : List Reg) (l j : Nat) : s.ctx.randomByte 6 w rs l j =
    ((rs.getD (j / 4) .zero).val.extractLsb' (8 * (j % 4)) 8).toNat := field_groupNat rs j

/-- The mode that the model gives sub-element `j` is that of the statements. -/
theorem modeFor_eq_modeOf (s : State) (rnd : Nat) (rs : Ctx → Nat → List Reg) (l : Nat) :
    s.modeFor rnd rs l = modeOf s rnd (rs s.ctx l) l := by
  funext j
  by_cases h5 : rnd = 5
  · subst h5
    exact congrArg (Mode.mk 5) (randomByte_sri s (nextWord s) [] l j)
  by_cases h6 : rnd = 6
  · subst h6
    exact congrArg (Mode.mk 6) (randomByte_srx s 0 (rs s.ctx l) l j)
  simp [State.modeFor, modeOf, h5, h6]

theorem any_x_eq_srxX (rnd : Nat) (rs : List Reg) : (if rnd = 6 then rs else []).any (·.x) = srxX rnd rs := by
  by_cases h : rnd = 6 <;> simp [srxX, h]

/-- A ROUNDING INSTRUCTION of fixed latency, in the words of the statements. -/
theorem ComputesIn.of_rounding_modeOf {i : Instr} {s : State} {o : Op} {f : Fields} {lat rnd : Nat}
    {rs : Ctx → Nat → List Reg} {check : Ctx → Nat → Option PTrap} {g : Ctx → Nat → (Nat → Mode) → Bool → List (Dst × Reg)}
    {g' : Nat → List (Dst × Reg)} (he : exec i s = .next (s.rounding o f (some lat) rnd rs check g))
    (hw : o.wholeWave = false) (hI : Issuable s) (hres : Residents s o f)
    (hchk : ∀ l ∈ s.ctx.executing f, check s.ctx l = none)
    (hg : ∀ l, g s.ctx l (modeOf s rnd (rs s.ctx l) l) (srxX rnd (rs s.ctx l)) = g' l) :
    ComputesIn i f s (drawn s rnd) lat g' := by
  rw [← draw_fst_eq_drawn]
  exact .of_rounding he hw hI hres hchk fun l => by rw [modeFor_eq_modeOf, any_x_eq_srxX, hg]

/-! ### Sub-elements of a lane (R313, R416) -/

theorem width_pos (F : FloatFmt) : 0 < F.width := by
  rw [FloatFmt.width]
  omega

theorem subElement_eq_element {width : Nat} (hw : 0 < width) (v : Word) (j : Nat) :
    subElement width v j = element width v j := by
  rw [subElement, element, field, show width * j + width - 1 + 1 - width * j = width by omega]

/-- The sum of a list's entries by weight, entry 0 first, is the number whose digits they are. -/
theorem foldl_weights_eq_foldr (width : Nat) (es : List Nat) :
    (List.range es.length).foldl (fun n j => n + (es.getD j 0 % 2 ^ width) * 2 ^ (width * j)) 0 =
      es.foldr (fun e n => e % 2 ^ width + 2 ^ width * n) 0 := by
  rw [← List.foldl_map (f := fun j => (es.getD j 0 % 2 ^ width) * 2 ^ (width * j)) (g := (· + ·)), ← List.sum_eq_foldl]
  induction es with
  | nil => rfl
  | cons e es ih =>
    have hshift : ∀ j, (e :: es).getD (j + 1) 0 % 2 ^ width * 2 ^ (width * (j + 1)) =
        2 ^ width * (es.getD j 0 % 2 ^ width * 2 ^ (width * j)) := fun j => by
      rw [List.getD_cons_succ, Nat.mul_succ, Nat.pow_add]
      ring
    rw [List.length_cons, List.range_succ_eq_map, List.map_cons, List.sum_cons, List.map_map, List.foldr_cons, ← ih,
      ← List.sum_map_mul_left]
    exact congrArg₂ (· + ·) (by simp) (congrArg List.sum (List.map_congr_left fun j _ => hshift j))

theorem packElements_eq_packed (width : Nat) (es : List Nat) : packElements width es = packed width es := by
  rw [packElements, packed, foldl_weights_eq_foldr]

/-- Clearing and inverting the sign bit, as arithmetic on the code and as the magnitude with a new sign. -/
theorem withSign_eq_signs (F : FloatFmt) (abs neg : Bool) {code : Nat} (h : code < 2 ^ F.width) :
    F.withSign abs neg code = signs F abs neg code := by
  have hw : F.width = F.e + F.m + 1 := by rw [FloatFmt.width]; omega
  rw [hw, Nat.pow_succ] at h
  simp only [FloatFmt.withSign, signs, hw, Nat.add_sub_cancel]
  generalize 2 ^ (F.e + F.m) = top at h ⊢
  rcases Nat.lt_or_ge code top with hlt | hge
  · simp only [Nat.mod_eq_of_lt hlt, Nat.div_eq_of_lt hlt]
    cases abs <;> cases neg <;> simp [hlt]
  · obtain ⟨mag, rfl⟩ := Nat.exists_eq_add_of_le' hge
    have hmag : mag < top := by omega
    have hsign : (mag + top) / top = 1 := by
      rw [Nat.add_div_right _ (by omega), Nat.div_eq_of_lt hmag]
    simp only [Nat.add_mod_right, Nat.mod_eq_of_lt hmag, hsign]
    cases abs <;> cases neg <;> simp [hmag]

theorem element_lt (width : Nat) (v : Word) (j : Nat) : element width v j < 2 ^ width :=
  Nat.mod_lt _ (Nat.two_pow_pos width)

/-- A sub-element of a lane after its modifiers. -/
theorem withSign_subElement (F : FloatFmt) (abs neg : Bool) (v : Word) (j : Nat) :
    F.withSign abs neg (subElement F.width v j) = signs F abs neg (element F.width v j) := by
  rw [subElement_eq_element (width_pos F), withSign_eq_signs F abs neg (element_lt ..)]

/-! ### Sum, difference, product and multiply-add (R418) -/

/-- One lane of the float operations: the exact operation on each sub-element, then one rounding. -/
theorem floatLane_eq_floatOp (s : State) (f : Fields) (l : Nat) (third : Bool) (r : Reg) (e : Num → Num → Num → Bool → Num) :
    floatLane f third e s.ctx l (modeOf s (rndField f) [r] l) (srxX (rndField f) [r]) =
      floatOp s f l (if third then s.ctx.c32 l f else .zero) r e := by
  simp only [floatLane, floatOp, faA, faB, withSign_subElement, packElements_eq_packed]
  rfl

/-- Settles O8: the four instructions are one lane function with four exact operations, and its packing, signs and random
bytes are those of the statement. -/
theorem floatArithmetic : Obligations.FloatArithmetic := by
  unfold Obligations.FloatArithmetic
  intro s f hI
  refine ⟨fun h => .of_rounding_modeOf rfl rfl hI h (fun _ _ => rfl) fun l => ?fadd,
    fun h => .of_rounding_modeOf rfl rfl hI h (fun _ _ => rfl) fun l => ?fsub,
    fun h => .of_rounding_modeOf rfl rfl hI h (fun _ _ => rfl) fun l => ?fmul,
    fun h => .of_rounding_modeOf rfl rfl hI h (fun _ _ => rfl) fun l => ?ffma⟩
  case fadd => exact floatLane_eq_floatOp s f l false (s.ctx.c32 l f) _
  case fsub => exact floatLane_eq_floatOp s f l false (s.ctx.c32 l f) _
  case fmul => exact floatLane_eq_floatOp s f l false (s.ctx.c32 l f) _
  case ffma => exact floatLane_eq_floatOp s f l true (s.ctx.reg l f.e 0) _

end Sys2Proof.Machine
end
